-- ==== Sys2Proof/Word.lean ====
section
/-!
DEFINITION. The words the manual works in: bytes, register words, scalar words, lane words, channel
numbers, and the sparse tables in which memories are held.
-/

namespace Sys2Proof

/-- One byte of a memory or of a packet. -/
abbrev Byte := BitVec 8

/-- The 32-bit register word (R11) and the 32-bit vector lane word (R30). -/
abbrev Word := BitVec 32

/-- The 64-bit scalar and address word (R30), also a short time (R35). -/
abbrev Dword := BitVec 64

/-- The 128-bit predicate: one bit per vector lane (R30, R32). -/
abbrev Mask := BitVec 128

/-- A channel of the device, 0 to 15 (R6). -/
abbrev ChId := Fin 16

/-- A vector register: 128 lanes of 32 bits (R30). -/
abbrev VReg := Vector Word 128

/-- A sparse table: entries by key, keys strictly rising, no entry equal to what an unlisted key reads as. -/
abbrev Sparse (α : Type) := List (Nat × α)

/-- A byte memory: a sparse table of bytes by address. -/
abbrev Mem := List (Nat × Byte)

end Sys2Proof
end

