-- ==== Sys2Proof/Syntax.lean ====
section
/-!
DEFINITION. The commands of the block: one constructor per row of the opcode table, with the row's operands.
-/

namespace Sys2Proof

/-- Format S of R46: SCALAR, SERVO, BUS and SYS instructions. (DESIGN CHOICE, log entry 6.) -/
structure FmtS where
  pg : BitVec 3
  pn : Bool
  sd : BitVec 5
  sa : BitVec 5
  sb : BitVec 5
  i : Bool
  mod : BitVec 4
  imm : BitVec 32
deriving DecidableEq, Repr

/-- Format B of R46: BRANCH instructions. `rsv` is the field [37:32], which must be 0. -/
structure FmtB where
  pg : BitVec 3
  pn : Bool
  sa : BitVec 5
  sb : BitVec 5
  cond : BitVec 4
  rsv : BitVec 6
  off : BitVec 32
deriving DecidableEq, Repr

/-- Format V of R46: VECTOR instructions. -/
structure FmtV where
  pg : BitVec 3
  pn : Bool
  vd : BitVec 4
  va : BitVec 4
  vb : BitVec 4
  vc : BitVec 4
  sr : Bool
  ss : BitVec 5
  fmt : BitVec 4
  mod : BitVec 10
  imm : BitVec 16
deriving DecidableEq, Repr

/-- Format D of R46: TILE, CONV, ATTN and SCAN instructions. -/
structure FmtD where
  pg : BitVec 3
  pn : Bool
  ad : BitVec 4
  doff : BitVec 16
  count : BitVec 16
  tk : BitVec 4
  unit : BitVec 2
  mod : BitVec 10
deriving DecidableEq, Repr

/-- Format M of R46: MOVE instructions. `src` is AS and `tgt` is AT. -/
structure FmtM where
  pg : BitVec 3
  pn : Bool
  src : BitVec 4
  tgt : BitVec 4
  sl : BitVec 5
  ctx : BitVec 4
  tk : BitVec 4
  ring : BitVec 6
  mod : BitVec 25
deriving DecidableEq, Repr

/-- Format Y of R46: SYNC instructions. -/
structure FmtY where
  pg : BitVec 3
  pn : Bool
  tk : BitVec 4
  cnt : BitVec 16
  sa : BitVec 5
  imm : BitVec 27
deriving DecidableEq, Repr

/-- A packet of the cascade link (R372). TARGET is held by its meanings: the open slot, halo ring or sender's rank, the
first image row or the block's offset, and the bytes of the whole block. -/
structure Pkt where
  typ : Byte
  vc : Bool
  pseq : BitVec 12
  dch : Fin 16
  ddev : BitVec 3
  common : Bool
  sch : Fin 16
  sdev : BitVec 3
  slot : Byte
  row : Word
  off : Nat
  total : Nat
  tag : BitVec 4
  crc : BitVec 24
  ack : BitVec 12
  cred0 : BitVec 16
  cred1 : BitVec 16
  txfc : BitVec 16
  data : List Byte
deriving DecidableEq, Repr

/-- The two kinds of path that reach registers (R11): the host port, and a channel's own SYS.CSR. -/
inductive Path where
  | host
  | csr (ch : ChId)
deriving DecidableEq, Repr

/-- A fault of an array's datapath while it runs an instruction (R147): none, the vector whose check relation or
whose accumulator add fails, or the pixel whose initial addition fails (R184). -/
inductive ArrFault where
  | none
  | vector (v : BitVec 16)
  | adder (v : BitVec 16)
  | init (v : BitVec 16)
deriving DecidableEq, Repr

/-- A fault while a SCAN.STEP runs (R255), by the row-steps of its chunk: none, a vector relation of its array that fails, or a
disagreement of the duplicated datapath. -/
inductive ScanFault where
  | none
  | vector (v : Nat)
  | mismatch (v : Nat)
deriving DecidableEq, Repr

/-- A read of a word: its address and, of a host's request, the bytes that it enables (R450). -/
structure RdAt where
  addr : BitVec 26
  be : BitVec 4
deriving DecidableEq, Repr

/-- Where a checker event comes from that the safe-state logic latches (R413): a channel, the supervisor's lockstep
comparator, or a memory of the common block. -/
inductive EvSrc where
  | chan (ch : ChId)
  | lockstep
  | memory
deriving DecidableEq, Repr

/-- What another device reports of a block it was sent (R202, R370, R377): landed, refused by the receiver, dropped on its
way there (R365), or lost as a stop it crossed went out of service (R19). -/
inductive Report where
  | landed | refused | dropped | lost
deriving DecidableEq, Repr

/-- The supervisor's decisions on a latched event (R415). -/
inductive Decision where
  | retry | count | safe
deriving DecidableEq, Repr

/-- What a start finds (R460): the fuses (live channels, signature group), the OTP serial, the straps (cascade position, then
CASCADE_MASTER), the numeric library of the image, the firmware slots (bit 0 slot A, bit 1 slot B) whose image verifies: a signer
of the OTP, its signature and its hash (R458); the reason of a failure of the common block (0: none; 0x0F: the start hangs), the
channels that fail and the step, the DRAM populated per channel in MiB, the channels whose DRAM has two ranks, the duration in µs,
the part's fused voltage offset in mV (R471), the size of BAR4 that the host's configuration chooses, as a power of two from
256 MiB (R447), and the checkers that fail the start-up test, by channel (16: the common block) and source (R441). -/
structure Boot where
  fuse : BitVec 16
  group : Byte
  serial : List Byte
  straps : BitVec 4
  numLib : BitVec 16
  ver : BitVec 2
  fail : Byte
  lost : List (ChId × Byte)
  dram : List Nat
  ranks2 : BitVec 16
  us : Word
  offset : BitVec 8 := 0
  bar4 : Fin 10 := 5
  checkers : List (Nat × Byte) := []
deriving DecidableEq, Repr

/-- The commands: one constructor per row of the opcode table. -/
inductive Instr where
  /-- R47: Instruction that does nothing beyond costing its issue edge. -/
  | nop (ch : ChId) (f : FmtS)
  /-- R47: An instruction word with an opcode not in the list is issued and raises ILLEGAL. -/
  | undefinedOpcode (ch : ChId) (w : BitVec 64)
  /-- R48: 64-bit wrapping add into a scalar register. -/
  | scalarAdd (ch : ChId) (f : FmtS)
  /-- R48: 64-bit wrapping subtract into a scalar register. -/
  | scalarSub (ch : ChId) (f : FmtS)
  /-- R48: Low 64 bits of a scalar product. -/
  | scalarMul (ch : ChId) (f : FmtS)
  /-- R47: High 64 bits of a signed or unsigned scalar product. -/
  | scalarMulh (ch : ChId) (f : FmtS)
  /-- R47: Bitwise and of scalar operands. -/
  | scalarAnd (ch : ChId) (f : FmtS)
  /-- R47: Bitwise or of scalar operands. -/
  | scalarOr (ch : ChId) (f : FmtS)
  /-- R47: Bitwise exclusive or of scalar operands. -/
  | scalarXor (ch : ChId) (f : FmtS)
  /-- R48: Left shift by the low 6 bits of the amount. -/
  | scalarShl (ch : ChId) (f : FmtS)
  /-- R48: Logical right shift by the low 6 bits of the amount. -/
  | scalarShr (ch : ChId) (f : FmtS)
  /-- R48: Arithmetic right shift by the low 6 bits of the amount. -/
  | scalarSra (ch : ChId) (f : FmtS)
  /-- R47: Signed or unsigned scalar minimum. -/
  | scalarMin (ch : ChId) (f : FmtS)
  /-- R47: Signed or unsigned scalar maximum. -/
  | scalarMax (ch : ChId) (f : FmtS)
  /-- R32: Compare scalars and write all ones or zero to a predicate register. -/
  | scalarCmp (ch : ChId) (f : FmtS)
  /-- R47: Bitwise logic between predicate registers. -/
  | scalarPlog (ch : ChId) (f : FmtS)
  /-- R47: Load the immediate into the upper 32 bits of a scalar register. -/
  | scalarLui (ch : ChId) (f : FmtS)
  /-- R88: Load 8 aligned bytes from scratchpad into a scalar register. -/
  | scalarLd (ch : ChId) (f : FmtS)
  /-- R74: Store 8 bytes to scratchpad as a partial write. -/
  | scalarSt (ch : ChId) (f : FmtS)
  /-- R47: Add to an address register. -/
  | scalarAdda (ch : ChId) (f : FmtS)
  /-- R47: Move between scalar and address registers. -/
  | scalarMova (ch : ChId) (f : FmtS)
  /-- R497: Count leading zeros, trailing zeros or population of a scalar. -/
  | scalarBit (ch : ChId) (f : FmtS)
  /-- R41: Unconditional relative branch. -/
  | branchJmp (ch : ChId) (f : FmtB)
  /-- R41: Conditional relative branch on a scalar comparison. -/
  | branchBc (ch : ChId) (f : FmtB)
  /-- R41: Decrement a count register and branch while nonzero. -/
  | branchLoop (ch : ChId) (f : FmtB)
  /-- R41: Repeat the following body of 1-64 instructions a counted number of times. -/
  | branchRep (ch : ChId) (f : FmtB)
  /-- R41: Push the return index and branch. -/
  | branchCall (ch : ChId) (f : FmtB)
  /-- R41: Pop the call stack and branch to it. -/
  | branchRet (ch : ChId) (f : FmtB)
  /-- R58: End the program; the command completes once all tokens are in. -/
  | branchEnd (ch : ChId) (f : FmtB)
  /-- R154: Lane-wise add under the guard mask. -/
  | vectorAdd (ch : ChId) (f : FmtV)
  /-- R154: Lane-wise subtract under the guard mask. -/
  | vectorSub (ch : ChId) (f : FmtV)
  /-- R154: Lane-wise multiply under the guard mask. -/
  | vectorMul (ch : ChId) (f : FmtV)
  /-- R154: Lane-wise fused multiply-add with one rounding. -/
  | vectorFma (ch : ChId) (f : FmtV)
  /-- R156: Lane-wise minimum. -/
  | vectorMin (ch : ChId) (f : FmtV)
  /-- R156: Lane-wise maximum. -/
  | vectorMax (ch : ChId) (f : FmtV)
  /-- R47: Lane-wise bitwise logic. -/
  | vectorLogic (ch : ChId) (f : FmtV)
  /-- R497: Lane-wise shift by a scalar or per-lane amount. -/
  | vectorShift (ch : ChId) (f : FmtV)
  /-- R163: Lane-wise format conversion with saturation. -/
  | vectorCvt (ch : ChId) (f : FmtV)
  /-- R501: Lane-wise exponential from the numeric-library tables. -/
  | vectorExp (ch : ChId) (f : FmtV)
  /-- R501: Lane-wise reciprocal from the numeric-library tables. -/
  | vectorRcp (ch : ChId) (f : FmtV)
  /-- R501: Lane-wise reciprocal square root from the numeric-library tables. -/
  | vectorRsq (ch : ChId) (f : FmtV)
  /-- R497: Maximum over enabled lanes to vd and a scalar register. -/
  | vectorRmax (ch : ChId) (f : FmtV)
  /-- R158: Sum over enabled lanes in fixed tree order to vd and a scalar register. -/
  | vectorRsum (ch : ChId) (f : FmtV)
  /-- R497: Lane-wise compare into a predicate register. -/
  | vectorCmp (ch : ChId) (f : FmtV)
  /-- R156: Lane-wise select under a predicate. -/
  | vectorSel (ch : ChId) (f : FmtV)
  /-- R164: Load a memory vector from scratchpad, widening. -/
  | vectorLd (ch : ChId) (f : FmtV)
  /-- R164: Store a vector to scratchpad, narrowing with saturation. -/
  | vectorSt (ch : ChId) (f : FmtV)
  /-- R47: Broadcast a scalar word to every lane. -/
  | vectorBcast (ch : ChId) (f : FmtV)
  /-- R166: Compute a row's quantisation shift from its maximum and bias. -/
  | vectorQshift (ch : ChId) (f : FmtV)
  /-- R167: Apply a shift, convert and count clipped values. -/
  | vectorQuant (ch : ChId) (f : FmtV)
  /-- R47: Permute lanes by an index vector. -/
  | vectorPerm (ch : ChId) (f : FmtV)
  /-- R497: Extract one lane into a scalar register when enabled. -/
  | vectorExtr (ch : ChId) (f : FmtV)
  /-- R127: Load stationary weights, codebook and checksum column into an array. -/
  | tileLoad (ch : ChId) (f : FmtD)
  /-- R132: Stream int8 activation vectors through the array into accumulators. -/
  | tileMacI8 (ch : ChId) (f : FmtD)
  /-- R126: Stream int4 activation vectors through the array. -/
  | tileMacI4 (ch : ChId) (f : FmtD)
  /-- R140: Stream int8 activations against codebook weights. -/
  | tileMacCb (ch : ChId) (f : FmtD)
  /-- R126: Stream fp8 activations against fp8 weights. -/
  | tileMacF8 (ch : ChId) (f : FmtD)
  /-- R126: Stream bf16 activations against bf16 weights. -/
  | tileMacBf16 (ch : ChId) (f : FmtD)
  /-- R135: Convert accumulator entries with bias and shift to scratchpad. -/
  | tileDrain (ch : ChId) (f : FmtD)
  /-- R138: Clear a range of accumulator entries. -/
  | tileZero (ch : ChId) (f : FmtD)
  /-- R139: Copy one accumulator entry into a vector register. -/
  | tileAccrd (ch : ChId) (f : FmtD)
  /-- R139: Copy a vector register into one accumulator entry. -/
  | tileAccwr (ch : ChId) (f : FmtD)
  /-- R179: Direct convolution over windows through the window generator and arrays. -/
  | convWin (ch : ChId) (f : FmtD)
  /-- R192: Winograd 3x3 convolution pass. -/
  | convWino (ch : ChId) (f : FmtD)
  /-- R190: Depthwise or grouped convolution on the diagonal mapping. -/
  | convDw (ch : ChId) (f : FmtD)
  /-- R198: Max, average or binomial pooling through the vector unit. -/
  | convPool (ch : ChId) (f : FmtD)
  /-- R201: Arm a halo ring from its descriptor and bind its ring. -/
  | convHaloArm (ch : ChId) (f : FmtD)
  /-- R201: Disarm a halo ring and unbind its ring. -/
  | convHaloDisarm (ch : ChId) (f : FmtD)
  /-- R231: Attention over paged keys and values for length-table entries. -/
  | attnPage (ch : ChId) (f : FmtD)
  /-- R225: Append tokens' keys and values to a sequence's pages. -/
  | attnAppend (ch : ChId) (f : FmtD)
  /-- R223: Increment or decrement reference counts of listed pages. -/
  | attnRef (ch : ChId) (f : FmtD)
  /-- R223: Pin, unpin, set or clear PINNED on listed pages. -/
  | attnPin (ch : ChId) (f : FmtD)
  /-- R224: Make consecutive list entries of a sequence private by copy-on-write. -/
  | attnCow (ch : ChId) (f : FmtD)
  /-- R222: Create a sequence entry. -/
  | attnSeqCreate (ch : ChId) (f : FmtD)
  /-- R222: Create a sequence as a child sharing its parent's pages. -/
  | attnSeqFork (ch : ChId) (f : FmtD)
  /-- R222: Release a sequence and decrement its owned pages. -/
  | attnSeqRelease (ch : ChId) (f : FmtD)
  /-- R228: Load the mask bitmap, a bias table or the length table. -/
  | attnTable (ch : ChId) (f : FmtD)
  /-- R247: Run a chunk of recurrent steps on every row of a state slot. -/
  | scanStep (ch : ChId) (f : FmtD)
  /-- R257: Renormalise rows of a state slot. -/
  | scanNorm (ch : ChId) (f : FmtD)
  /-- R258: Assign a state slot, zero its entries and advance its generation. -/
  | scanSlotAssign (ch : ChId) (f : FmtD)
  /-- R258: Release a state slot to EMPTY. -/
  | scanSlotRelease (ch : ChId) (f : FmtD)
  /-- R258: Write a slot's section to DRAM and make it FROZEN. -/
  | scanSlotFreezeOut (ch : ChId) (f : FmtD)
  /-- R258: Restore a slot from a DRAM section and make it LIVE. -/
  | scanSlotThaw (ch : ChId) (f : FmtD)
  /-- R261: Load initial state into rows of a LIVE slot. -/
  | scanInit (ch : ChId) (f : FmtD)
  /-- R97: Start a Front stream from DRAM into a ring. -/
  | moveFront (ch : ChId) (f : FmtM)
  /-- R105: Cancel a Front stream. -/
  | moveFcancel (ch : ChId) (f : FmtM)
  /-- R113: Load a DMA context's shadow set and queue a transfer. -/
  | moveDma (ch : ChId) (f : FmtM)
  /-- R118: Walk a page list into a ring through a DMA context. -/
  | movePlist (ch : ChId) (f : FmtM)
  /-- R370: Send a block to an open ring of another channel or device. -/
  | moveRing (ch : ChId) (f : FmtM)
  /-- R378: All-gather in fixed rank order. -/
  | moveAg (ch : ChId) (f : FmtM)
  /-- R378: Reduce-scatter in fixed rank order. -/
  | moveRs (ch : ChId) (f : FmtM)
  /-- R378: All-gather in arrival order. -/
  | moveAgA (ch : ChId) (f : FmtM)
  /-- R378: Reduce-scatter in arrival order. -/
  | moveRsA (ch : ChId) (f : FmtM)
  /-- R202: Push halo rows with their row counter to a halo ring. -/
  | moveHalo (ch : ChId) (f : FmtM)
  /-- R80: Write or invalidate a ring descriptor. -/
  | moveRdesc (ch : ChId) (f : FmtM)
  /-- R81: Advance a ring's HEAD or TAIL. -/
  | moveRadv (ch : ChId) (f : FmtM)
  /-- R43: Stall until a token counter reaches a count, then subtract it. -/
  | syncWait (ch : ChId) (f : FmtY)
  /-- R47: Stall until the time base reaches a short time. -/
  | syncTime (ch : ChId) (f : FmtY)
  /-- R379: Arrive at a barrier among channels of the device. -/
  | syncBar (ch : ChId) (f : FmtY)
  /-- R47: Stall until no token counter has outstanding work. -/
  | syncFence (ch : ChId) (f : FmtY)
  /-- R285: Stall until a batch is assembled and add its flagged slots to a counter. -/
  | syncBatch (ch : ChId) (f : FmtY)
  /-- R298: Post a set-point for an axis with an activation time. -/
  | servoSet (ch : ChId) (f : FmtS)
  /-- R313: Read a field of an axis's newest sample or state. -/
  | servoRd (ch : ChId) (f : FmtS)
  /-- R307: Set an axis's repetitive controller to off, hold, run or clear. -/
  | servoLearn (ch : ChId) (f : FmtS)
  /-- R403: Post a CAN message record to a schedule slot. -/
  | busSend (ch : ChId) (f : FmtS)
  /-- R406: Cancel a slot's message if it has not begun. -/
  | busCancel (ch : ChId) (f : FmtS)
  /-- R47: Read the present time base in short time. -/
  | sysTime (ch : ChId) (f : FmtS)
  /-- R342: Read the epoch in force. -/
  | sysEpoch (ch : ChId) (f : FmtS)
  /-- R30: Set the generator key. -/
  | sysSeed (ch : ChId) (f : FmtS)
  /-- R49: Read a register of the channel's own window into a scalar. -/
  | sysCsrRead (ch : ChId) (f : FmtS)
  /-- R49: Write a register of the channel's own window from a scalar. -/
  | sysCsrWrite (ch : ChId) (f : FmtS)
  /-- R50: Send a host event with a value on the completion vector. -/
  | sysSig (ch : ChId) (f : FmtS)
  /-- R64: Raise the TRAP exception. -/
  | sysTrap (ch : ChId) (f : FmtS)
  /-- R354: Mark a kernel boundary for the Barometer. -/
  | sysMark (ch : ChId) (f : FmtS)
  /-- R345: Freeze point: take a pending MODE 1 freeze, else act as NOP. -/
  | sysFreeze (ch : ChId) (f : FmtS)
  /-- R121: Engine work of a stopped command drains and the command then completes. -/
  | commandStopDrain (ch : ChId)
  /-- R62: Host doorbell advancing the command ring producer index. -/
  | chCmdTailWrite (ch : ChId) (v : Word)
  /-- R56: The channel issues a read of the next command record when fewer than 8 are uncommitted. -/
  | recordFetch (ch : ChId)
  /-- R55: A fetched command record arrives and its CRC and sequence number are checked. -/
  | recordArrival (ch : ChId)
  /-- R56: The journal copy is written and the command is accepted and acknowledged. -/
  | journalWriteDone (ch : ChId)
  /-- R57: The head command starts when the sequencer is free, after deadline and admission checks. -/
  | commandStart (ch : ChId)
  /-- R52: RUN command: execute a program from an entry index. -/
  | kindRun (ch : ChId)
  /-- R340: Load a program image from channel DRAM into program memory. -/
  | kindLoadProg (ch : ChId)
  /-- R339: Load and check an Almanac bank image into the inactive bank. -/
  | kindLoadAlm (ch : ChId)
  /-- R341: Arm a bank switch at the next frame start. -/
  | switchNext (ch : ChId)
  /-- R341: Arm a bank switch at a stated short time. -/
  | switchTimed (ch : ChId)
  /-- R341: Arm stopping the Almanac at the next frame start. -/
  | switchStop (ch : ChId)
  /-- R341: Drop the armed switch rule. -/
  | switchDisarm (ch : ChId)
  /-- R52: MARK command that does nothing and completes DONE in order. -/
  | kindMark (ch : ChId)
  /-- R350: Verify and restore a freeze image and resume the frozen command. -/
  | kindThaw (ch : ChId)
  /-- R60: A command reaches its execution budget and stops with BUDGET. -/
  | budgetStop (ch : ChId)
  /-- R58: After all tokens are in, outputs, completion record and producer word are written. -/
  | commandCommit (ch : ChId)
  /-- R62: Host advances the completion consumer index. -/
  | chCplConsWrite (ch : ChId) (v : Word)
  /-- R435: Setting FETCH_EN resumes fetching, first committing ABORTED for pending numbers after reset. -/
  | fetchEnable (ch : ChId) (v : Word)
  /-- R37: Set the program-memory debug index and fetch that word. -/
  | seqPmAddrWrite (ch : ChId) (v : Word)
  /-- R37: Reading the high word advances the index and fetches the next word. -/
  | seqPmDataHighRead (ch : ChId)
  /-- R50: Host read of CH_SIG that consumes the signalled value. -/
  | chSigRead (ch : ChId)
  /-- R11: Low-word read that also latches the high word. -/
  | pairLowRead (p : Path) (r : RdAt)
  /-- R11: High-word read returning and emptying the latch, or the present word. -/
  | pairHighRead (p : Path) (r : RdAt)
  /-- R11: Low-word write held in the staging word. -/
  | pairLowWrite (p : Path) (a : BitVec 26) (v : Word)
  /-- R11: High-word write committing both words on one fc. -/
  | pairHighWrite (p : Path) (a : BitVec 26) (v : Word)
  /-- R13: A write to a register with no row of its own, by its access code. -/
  | registerWrite (p : Path) (a : BitVec 26) (v : Word)
  /-- R450: A BAR0 write with 1-3 bytes enabled is discarded. -/
  | bar0PartialWrite (a : BitVec 26) (v : Word)
  /-- R450: A BAR0 request over 8 B or crossing 8 B aborts or is discarded. -/
  | bar0OversizeAccess (a : BitVec 26) (rd : Bool)
  /-- R93: Host read of channel scratchpad through BAR2. -/
  | bar2Read (ch : ChId) (a : BitVec 25) (n : Nat)
  /-- R93: Host write of channel scratchpad through BAR2. -/
  | bar2Write (ch : ChId) (a : BitVec 25) (data : List Byte)
  /-- R447: Host read of channel DRAM through BAR4. -/
  | bar4Read (ch : ChId) (a : BitVec 33) (n : Nat)
  /-- R447: Host write of channel DRAM through BAR4. -/
  | bar4Write (ch : ChId) (a : BitVec 33) (data : List Byte)
  /-- R447: A poisoned TLP written to BAR2 or BAR4 is discarded and reported. -/
  | poisonedTlpWrite
  /-- R452: A write through the broadcast or a group window applies to every live member. -/
  | broadcastWrite (g : Option (Fin 8)) (o : BitVec 21) (v : Word)
  /-- R452: A read through the broadcast or a group window returns the lowest member and marks differences. -/
  | broadcastRead (g : Option (Fin 8)) (o : BitVec 21)
  /-- R449: Host writes an Ethernet steering entry, clearing REVOKED. -/
  | steeringEntryWrite (e : Fin 64) (w : Fin 4) (v : Word)
  /-- R74: The second slot of a partial write writes the merged codeword back. -/
  | partialWriteMerge (ch : ChId) (bank : Fin 32)
  /-- R75: Drizzle rewrites a queued corrected codeword in idle slots. -/
  | drizzleWriteback (ch : ChId)
  /-- R75: Every PERIOD x 1,024 fc Drizzle reads and checks one row of each bank. -/
  | drizzleSweepVisit (ch : ChId)
  /-- R76: A queued corrected accumulator entry is rewritten in a free ac. -/
  | accDrizzleRewrite (ch : ChId) (arr : Fin 2)
  /-- R96: The DRAM controller serves the next 64-byte burst from its queue. -/
  | dramRequestServe (ch : ChId)
  /-- R500: Scheduled all-bank refresh holds the queue for 252 fc. -/
  | dramRefresh (ch : ChId) (rank1 hot : Bool)
  /-- R99: The Front takes a MOVE.FRONT from its queue and starts the stream. -/
  | frontStreamTake (ch : ChId)
  /-- R100: A stream with a credit claims a ring step and issues its two read bursts. -/
  | frontStepIssue (ch : ChId) (stream : BitVec 4)
  /-- R100: A Front read burst returns and is written into the ring; HEAD advances on full steps. -/
  | frontBurstReturn (ch : ChId)
  /-- R105: The Front takes MOVE.FCANCEL; requests stop and credits return. -/
  | frontCancelPoint (ch : ChId)
  /-- R106: After the last in-flight burst returns the cancellation completes and both tokens increment. -/
  | frontCancelComplete (ch : ChId) (stream : BitVec 4)
  /-- R110: A queued DMA instruction loads its context's shadow set. -/
  | dmaContextLoad (ch : ChId)
  /-- R111: The next transfer starts 4 fc after the previous one completes. -/
  | dmaTransferStart (ch : ChId)
  /-- R111: A transfer's last byte is written and its token increments. -/
  | dmaTransferComplete (ch : ChId)
  /-- R122: Writing EN = 0 drops all DMA work; EN = 1 resumes. -/
  | dmaCtrlEnWrite (ch : ChId) (en : Bool)
  /-- R122: The last discarded read returns and DMA_STATUS.BUSY clears. -/
  | dmaDiscardSettled (ch : ChId)
  /-- R128: An array instruction at the head of its queue begins occupancy once its operands arrive. -/
  | arrayInstrStart (ch : ChId) (arr : Fin 2) (fault : ArrFault)
  /-- R145: A closed check window's verdict is formed and compared. -/
  | windowVerdict (ch : ChId) (arr : Fin 2) (fault : Bool)
  /-- R137: A TILE.DRAIN moves into the drain slot when free and its tables are in. -/
  | drainSlotEnter (ch : ChId) (arr : Fin 2)
  /-- R137: A drain's last output lands and its verdicts pass; its token increments. -/
  | drainComplete (ch : ChId) (arr : Fin 2)
  /-- R179: A CONV pass writes its last entry, releases input rows and its token increments. -/
  | convPassComplete (ch : ChId) (slot : Fin 2) (arr : Fin 2) (fault : ArrFault)
  /-- R203: A CONV instruction stalled on a halo row resumes when the row lands. -/
  | haloRowStallEnd (ch : ChId) (h : Fin 4)
  /-- R202: A halo push arrives at the receiver and is accepted or discarded. -/
  | haloPushReceive (ch : ChId) (src : ChId) (dev : BitVec 3)
  /-- R202: The receiver reports the last row landed and the sender's token increments. -/
  | haloPushComplete (ch : ChId) (rep : Report)
  /-- R213: The PTU applies one ordered operation to a descriptor. -/
  | ptuOperation (ch : ChId)
  /-- R218: After the copy's last write, the PTU presents the copy-on-write release step. -/
  | cowCopyComplete (ch : ChId)
  /-- R212: Enable or disable PTU operation. -/
  | ptuCtrlEnWrite (ch : ChId) (en : Bool)
  /-- R222: An ATTN instruction's last operation reaches the DRAM queue and its token increments. -/
  | attnInstrComplete (ch : ChId) (ptu : Bool) (arr : Fin 2) (fault : ArrFault)
  /-- R260: Fenced instructions leave the fence when their slot becomes LIVE with their GEN. -/
  | scanFenceRelease (ch : ChId)
  /-- R251: A SCAN instruction's last state and output are in place and its token increments. -/
  | scanInstrComplete (ch : ChId) (fault : ScanFault)
  /-- R368: A 128-byte ring step arrives at a stop and its CRC is checked. -/
  | ringStepReceive (ch : ChId) (src : ChId) (bad : Bool)
  /-- R369: A receive buffer returns credits to its sender. -/
  | ringCreditReturn (ch : ChId) (right : Bool)
  /-- R369: No credit return for 10 µs declares a ring segment dead. -/
  | ringSegmentDead (ch : ChId) (right : Bool)
  /-- R370: A channel opens a ring to one sender by writing LINK_OPENk. -/
  | linkOpenWrite (ch : ChId) (k : Fin 8) (v : Word)
  /-- R370: A MOVE.RING block arrives at its target and is accepted or discarded. -/
  | ringBlockReceive (ch : ChId) (src : ChId) (dev : BitVec 3)
  /-- R370: The receiver or dropping stop reports and the sender's token increments. -/
  | moveRingComplete (ch : ChId) (rep : Report)
  /-- R377: A collective block lands at a member and is placed or summed. -/
  | collectiveBlockReceive (ch : ChId) (src : ChId) (dev : BitVec 3) (bad : Bool)
  /-- R377: Every block a member receives has landed and its token increments. -/
  | collectiveComplete (ch : ChId) (tag : BitVec 4) (rep : Report)
  /-- R379: Members of a SYNC.BAR are released 24 fc after the last arrival. -/
  | barrierRelease (ch : ChId)
  /-- R267: A CSI-2 Frame Start packet completes and the frame is stamped. -/
  | csiFrameStart (ch : ChId) (st : Fin 2) (err : BitVec 2)
  /-- R266: A CSI-2 long packet of an image line is received and checked. -/
  | csiImageLine (ch : ChId) (st : Fin 2) (data : List Byte) (err : BitVec 2)
  /-- R266: A CSI-2 Frame End packet closes the frame. -/
  | csiFrameEnd (ch : ChId) (st : Fin 2) (err : BitVec 2)
  /-- R267: The embedded-data line gives the camera counter and CRC. -/
  | csiEmbeddedLine (ch : ChId) (st : Fin 2) (data : List Byte) (err : BitVec 2)
  /-- R265: An unsupported or unclaimed CSI-2 packet is discarded and counted. -/
  | csiDiscardedPacket (ch : ChId) (err : BitVec 2)
  /-- R270: A camera-path output row is written to its ring and HEAD advances. -/
  | intakeRowOutput (ch : ChId) (st : Fin 2)
  /-- R392: An Ethernet frame is accepted, stamped and routed to supervisor, a channel or the host ring. -/
  | ethFrameReceive (port : Fin 2) (frame : List Byte) (fcsBad : Bool) (t : Dword) (frac : Word)
  /-- R281: The intake takes a batch descriptor from the submission ring. -/
  | batchSubmit (ch : ChId)
  /-- R282: The decoder takes the earliest unresolved slot whose frame is complete or closed. -/
  | jpegDecodeStart (ch : ChId)
  /-- R278: A decode finishes good or concealed and the slot resolves. -/
  | jpegDecodeComplete (ch : ChId)
  /-- R279: A decode reaching DECMAX is abandoned and its slot resolves LATE. -/
  | jpegDecodeAbandon (ch : ChId)
  /-- R283: At DEADLINE every unresolved slot of the batch resolves LATE. -/
  | batchDeadline (ch : ChId)
  /-- R284: The assembler writes a slot's image, pyramid and guard record. -/
  | slotAssemblyComplete (ch : ChId)
  /-- R280: Host posts a host-decoded frame's counter. -/
  | inHostpostWrite (ch : ChId) (st : Fin 2) (v : Word)
  /-- R293: Enable a stream, refusing a bad configuration with CFG_ERR. -/
  | inStreamEnWrite (ch : ChId) (st : Fin 2) (en : Bool)
  /-- R294: Start or stop servo ticks. -/
  | servoCtrlEnWrite (ch : ChId) (en : Bool)
  /-- R294: A tick starts on the grid; eligible set-points pop and an armed bank may switch. -/
  | servoTickStart (ch : ChId)
  /-- R296: At T_EVAL the engine evaluates every enabled axis from the newest sample. -/
  | servoEvalStart (ch : ChId) (cmp ecc : BitVec 16) (sof : Bool)
  /-- R296: At T_OUT - 24 fc the command frame is fixed and passed to the transmitter. -/
  | servoHandoff (ch : ChId) (sof : Nat)
  /-- R307: Zeroing a learning table completes and the controller goes to hold. -/
  | learnClearDone (ch : ChId) (axis : Fin 16)
  /-- R302: Check and arm the inactive loop-table bank. -/
  | servoSwctlArm (ch : ChId)
  /-- R302: Disarm an armed loop-table bank. -/
  | servoSwctlDisarm (ch : ChId)
  /-- R321: A drive sample frame is received whole and checked. -/
  | drvSampleFrame (ch : ChId) (kind : Byte) (len : BitVec 16) (frame : List Byte) (err : BitVec 3)
  /-- R316: An STS block from the drive updates the far status. -/
  | drvStsReceive (ch : ChId) (sts : Byte) (errs : BitVec 16)
  /-- R322: Turn the drive-link transmitter on and start training, or to idle. -/
  | drvCfgEnWrite (ch : ChId) (en : Bool)
  /-- R316: The receiver gains block lock after 64 valid sync headers. -/
  | drvBlockLock (ch : ChId)
  /-- R322: Block lock is lost; the link retrains or goes DOWN. -/
  | drvLockLoss (ch : ChId) (bad : BitVec 5)
  /-- R322: Consecutive TRN blocks from the drive advance training. -/
  | drvTrnReceive (ch : ChId) (state role : Byte)
  /-- R322: An ECHO gives the round trip and the device sends READY. -/
  | drvEchoReceive (ch : ChId) (token : Word) (turn : BitVec 16) (ps : Nat)
  /-- R322: No ECHO within 256 blocks resends MEAS or restarts training. -/
  | drvMeasTimeout (ch : ChId)
  /-- R322: Training not UP within 1 ms sets TRN_FAIL and may restart. -/
  | drvTrainingTimeout (ch : ChId)
  /-- R327: A major frame starts; the table restarts and LINKB charges clear. -/
  | almFrameStart (ch : ChId)
  /-- R332: A RUN or HAIL entry opens at a slot boundary when its conditions hold. -/
  | almEntryOpen (ch : ChId)
  /-- R333: An open FILL entry starts the head command at a boundary when it fits. -/
  | almFillStart (ch : ChId)
  /-- R334: At a protected boundary the running command is cut and earlier entries skipped. -/
  | protectedBoundaryCut (ch : ChId)
  /-- R336: A standing run's report and completion record go to the report area. -/
  | standingReportWrite (ch : ChId)
  /-- R342: An armed switch takes effect: cut, new bank, epoch and ALM_T0. -/
  | almSwitchApply (ch : ChId)
  /-- R345: Host requests a freeze; it is bounded and accepted or refused. -/
  | frzReqWrite (ch : ChId) (v : Word)
  /-- R346: At the freeze point the sequencer stops and engines reach their stopping points. -/
  | freezeTaken (ch : ChId)
  /-- R347: The freeze image is written and FROZEN is set. -/
  | freezeImageComplete (ch : ChId)
  /-- R351: Restore finishes, FROZEN clears and the thawed command resumes. -/
  | thawRestoreComplete (ch : ChId)
  /-- R366: Arm channels for the start barrier; the master sends its addend. -/
  | glbSyncArmWrite (v : Word)
  /-- R366: The master drives SYNC_OUT to fire the barrier. -/
  | glbSyncGoWrite
  /-- R366: A device samples SYNC_IN high on a REFCLK edge. -/
  | syncInSample
  /-- R366: 16 REFCLK edges later time bases load, refresh and link counts restart and Almanacs start. -/
  | barrierApply
  /-- R366: At edge e + 24 SYNC_OUT returns low and GLB_SYNC_ARM clears. -/
  | syncOutRelease
  /-- R376: Turn a cascade port on and start training, or to idle. -/
  | casCtrlEnWrite (ch : ChId) (en : Bool)
  /-- R376: TRN beats from the far end advance cascade training. -/
  | casTrnReceive (ch : ChId) (state : Byte) (pos : BitVec 3) (port : BitVec 2) (c0 c1 : Nat) (master : Bool)
  /-- R363: The far determinism class is compared and DCMIS set on mismatch. -/
  | casClassReceive (ch : ChId) (cls : Word)
  /-- R376: An ECHO gives the one-way delay written to CAS_OWD. -/
  | casEchoReceive (ch : ChId) (token : Word) (turn : BitVec 16) (ps : Nat)
  /-- R376: No ECHO within 256 beats resends MEAS. -/
  | casMeasTimeout (ch : ChId)
  /-- R376: Training not UP within 2 ms sets TRNFAIL. -/
  | casTrainingTimeout (ch : ChId)
  /-- R374: A cascade packet arrives and is checked for CRC and PSEQ. -/
  | casPacketReceive (ch : ChId) (p : Pkt) (err : BitVec 2)
  /-- R373: A packet is delivered to its stop at TXFC + CAS_LAT. -/
  | casPacketDeliver (ch : ChId)
  /-- R374: A NAK makes the sender resend from the named PSEQ. -/
  | casNakReceive (ch : ChId) (pseq : BitVec 12)
  /-- R371: An IDLE beat returns ACK and credits. -/
  | casIdleReceive (ch : ChId) (ack : BitVec 12) (c0 c1 : BitVec 16)
  /-- R371: Every 16,384 beats an ALIGN beat replaces one beat. -/
  | casAlignSend (ch : ChId)
  /-- R375: 10 µs without beats, ACK or credit declares the far end dead. -/
  | casDeadTimeout (ch : ChId)
  /-- R385: A device receives an ADDEND packet and arms or applies the change. -/
  | addendPacketReceive
  /-- R382: Write the time-base addend, ignored out of range. -/
  | timeAddendWrite (v : Dword)
  /-- R384: Set the time base to the staged seconds and nanoseconds. -/
  | timeCmdSet
  /-- R384: Arm a timed addend change, step or both. -/
  | timeCmdArm (add step : Bool)
  /-- R384: Drop the armed timed change. -/
  | timeCmdDisarm
  /-- R384: An armed change applies when the time base reaches AT. -/
  | timedChangeApply
  /-- R383: Reading TIME_NS latches FRAC and SEC from the same fc. -/
  | timeNsRead (p : Path)
  /-- R390: PPS_OUT goes high when NS wraps to a new second. -/
  | ppsOutStart
  /-- R390: PPS_OUT returns low after PPS_WIDTH. -/
  | ppsOutEnd
  /-- R386: A filtered capture edge is stamped into its FIFO. -/
  | tcapEdge (pin : Fin 17) (rising : Bool)
  /-- R387: Remove the head entry of a capture FIFO. -/
  | tcapPop (pin : Fin 17) (p : Path)
  /-- R389: Check and arm a trigger schedule. -/
  | trgArm (t : Fin 8) (p : Path)
  /-- R389: Cancel further trigger pulses. -/
  | trgCancel (t : Fin 8) (p : Path)
  /-- R389: A trigger pin goes active at a pulse start. -/
  | trgPulseStart (t : Fin 8)
  /-- R389: A trigger pin goes inactive at start + WIDTH. -/
  | trgPulseEnd (t : Fin 8)
  /-- R393: Host posts transmit ring entries. -/
  | ethTxtailWrite (port : Fin 2) (v : Word)
  /-- R393: A frame's last bit leaves; TXHEAD advances and a stamp may queue. -/
  | ethFrameTransmitted (port : Fin 2) (t : Dword) (frac : Word)
  /-- R393: Host posts receive buffers. -/
  | ethRxtailWrite (port : Fin 2) (v : Word)
  /-- R395: Host removes transmit stamps from the queue. -/
  | tsqHeadWrite (v : Word)
  /-- R397: The supervisor servo processes an offset from a Follow_Up. -/
  | ptpFollowUp (port : Fin 2) (off : Dword)
  /-- R397: Host approves a step after a PTP jump. -/
  | ptpRestepWrite
  /-- R399: Change CAN mode, checking timing when leaving configuration. -/
  | canModeWrite (ch : ChId) (mode : BitVec 2)
  /-- R402: A schedule slot opens and its posted message may arbitrate. -/
  | canSlotOpen (ch : ChId)
  /-- R404: A slot closes and unsent messages are withdrawn LATE. -/
  | canSlotClose (ch : ChId)
  /-- R404: At bus idle a slot's message begins arbitration. -/
  | canArbitration (ch : ChId)
  /-- R405: A transmitted frame ends sent, lost or in error and its fate may settle. -/
  | canFrameTxEnd (ch : ChId) (res : BitVec 3) (tdcv : Option (BitVec 7)) (sof : Dword)
  /-- R407: A received CAN frame goes to match buffers and the receive ring. -/
  | canFrameReceive (ch : ChId) (id : Word) (fmt : Byte) (data : List Byte) (stamp : Dword) (err : BitVec 2)
  /-- R401: After 128 x 11 recessive bits the controller rejoins the bus. -/
  | canBusoffRecovery (ch : ChId)
  /-- R407: Advance the CAN receive ring consumer index. -/
  | canRxtailWrite (ch : ChId) (v : Word) (p : Path)
  /-- R413: The safe-state logic latches, stamps and records a checker event. -/
  | checkerEventLatch (e : EvSrc)
  /-- R415: The supervisor classifies a latched event as retry, count or safe state. -/
  | supervisorDecision (ch : Option ChId) (d : Decision)
  /-- R415: No decision 4 µs after a latch raises 0x22 and device safe state. -/
  | deadmanExpiry
  /-- R414: Two windows without a channel heartbeat raise 0x10. -/
  | channelHeartbeatTimeout (ch : ChId)
  /-- R415: 200 µs without the supervisor heartbeat raises 0x21. -/
  | supervisorHeartbeatTimeout
  /-- R415: WDOG_N held low for 1 µs raises 0x23. -/
  | wdogNAssert
  /-- R413: REFCLK loss or PLL unlock raises 0x24. -/
  | clockMonitorTrip
  /-- R483: A rail out of range raises 0x25. -/
  | voltageMonitorTrip (rail : Option ChId)
  /-- R413: Junction at or above 115 °C raises 0x26. -/
  | overtemperatureTrip
  /-- R416: After a retry decision the command is restored and re-executed once. -/
  | commandRetry (ch : ChId)
  /-- R424: The channel is fenced, leases revoked, SAFE set and pins driven. -/
  | channelSafeState (ch : ChId)
  /-- R422: Every live channel enters safe state and SQUALL freezes. -/
  | deviceSafeState
  /-- R423: Host releases the safety pins; SQUALL starts toggling. -/
  | safeReleaseWrite (v : Word)
  /-- R423: Every 450,000 fc the SQUALL pair toggles. -/
  | squallToggle
  /-- R429: The supervisor issues ABORTED records when the completion ring has space. -/
  | abortedRecordIssue (ch : ChId)
  /-- R430: After INVALID frames the channel is idled, power-gated and removed from the live mask. -/
  | channelRetirement (ch : ChId)
  /-- R438: After a Hail run the output CRC is compared with SIGN. -/
  | hailSignatureCheck (ch : ChId)
  /-- R454: VDD_AON rises and resets everything. -/
  | powerOn
  /-- R454: PERST_N drives the pins to reset states and resets the device. -/
  | perstNAssert
  /-- R460: PERST_N deasserted starts the boot sequence through training and channel start. -/
  | deviceStart (b : Boot)
  /-- R460: A start not complete at 2 s fails with TIMEOUT. -/
  | bootWatchdogTimeout
  /-- R454: Device reset through GLB_RESET. -/
  | glbResetDevice
  /-- R454: A PCIe Function Level Reset acts as a device reset. -/
  | functionLevelReset
  /-- R462: Clear failure counts and reset the device. -/
  | glbResetCalmExit
  /-- R454: The next start enters Calm mode with reason 0x09. -/
  | glbResetCalmReq
  /-- R446: A timed-out host read is retried once, then fetching stops. -/
  | pcieCompletionTimeout (ch : ChId)
  /-- R456: Host mailbox ECHO request answered with its payload. -/
  | mbxEcho
  /-- R456: Host mailbox INFO request answered with start information. -/
  | mbxInfo
  /-- R456: Host mailbox LOG request answered with event-log records. -/
  | mbxLog
  /-- R456: A mailbox request of unknown TYPE is answered 0xFFFF. -/
  | mbxUnknownType
  /-- R456: Host releases the outgoing buffer and the supervisor may post the next message. -/
  | mbxS2hRelease
  /-- R459: Read 256 B of flash into FLASH_DATA. -/
  | flashRead
  /-- R459: Erase a 4 KiB flash sector. -/
  | flashErase4k
  /-- R459: Program a 256-byte flash page. -/
  | flashProg256
  /-- R458: Raise the OTP security floor. -/
  | flashFloor
  /-- R459: A flash command completes, setting DONE or ERR. -/
  | flashCmdComplete (err : Bool)
  /-- R465: Copy the calibration record into CAL_WIN. -/
  | calLoad
  /-- R465: Set WRITTEN and compute the CRC in CAL_WIN. -/
  | calSeal
  /-- R465: Erase and program the calibration sector from CAL_WIN. -/
  | calCommit
  /-- R466: A calibration command completes, setting DONE or ERR. -/
  | calCmdComplete (err : Bool)
  /-- R469: Request a signed attestation report over the nonce. -/
  | attGo
  /-- R469: The attestation report is signed or fails. -/
  | attReportComplete (fail : Bool)
  /-- R472: Request a power point or park for a channel. -/
  | pwrReqWrite (ch : ChId) (v : Word)
  /-- R24: The edge pattern changes on an issue edge with k mod 6 = 0. -/
  | pointChangeApply (ch : ChId)
  /-- R472: Voltage and pattern change finish and vector 34 is signalled. -/
  | pointChangeComplete (ch : ChId)
  /-- R474: Every 10 µs temperatures and voltages are sampled and temperature throttling applied. -/
  | telemetrySample (ch : ChId) (temp mv : BitVec 16)
  /-- R474: Every 1 ms regulator currents are read and current or power throttling applied. -/
  | regulatorReading (ma : List Word) (dev : Word)
  /-- R475: After 10 ms below the limit a channel rises one point. -/
  | throttleLift (ch : ChId)
  /-- R47: A SYNC.TIME stall ends on the first fc on which the time base reaches s[SA]. -/
  | syncTimeRelease (ch : ChId)
  /-- R376: All 8 lanes of a cascade port reach block lock and are deskewed by ALIGN, and the port sends TRN LOCKED. -/
  | casBlockLock (ch : ChId) (lock : Bool)
  /-- R376: A MEAS beat from the far end of a cascade port is answered with an ECHO carrying TURN. -/
  | casMeasReceive (ch : ChId) (token : Word)
  /-- R411: An Ethernet port gains or loses link, block lock or FEC lock, updating ETH_STAT and setting LINKDOWN on loss. -/
  | ethLinkChange (port : Fin 2) (link block fec : Bool)
  /-- R293: The CSI-2 receiver gains or loses synchronisation to the D-PHY high-speed lanes, changing IN_STAT.HS_SYNC. -/
  | csiLaneSync (ch : ChId) (sync : Bool)
  /-- R468: A Waicheane-signed unlock token presented over JTAG opens debug access and sets GLB_STATE.DEBUG until power-on. -/
  | debugUnlock
  /-- R486: Rails fall at power-down or on loss: VDD_AON below 0.72 V loses the acceptance tables and failure count, and loss of VDD_COM stops the time base. -/
  | supplyLoss (aon com : Bool)
  /-- R445: The host moves the function between D0 and D3hot, after which the port answers only configuration requests while the channels run on. -/
  | pmStateWrite (d3 : Bool)
deriving DecidableEq, Repr

end Sys2Proof
end

