-- ==== Sys2Proof/Decode.lean ====
section
/-!
DEFINITION. The decoder of table words: no row of the opcode table gives bits, so no word spells a command.
-/

namespace Sys2Proof

/-- The command a word spells by the table's bits: none, for no row has bits. (DESIGN CHOICE, log entry 3.) -/
def decodeTableWord (_nbits _w : Nat) : Option Instr := none

end Sys2Proof
end

