-- ==== Sys2Proof/Config.lean ====
section
/-!
DEFINITION. What an implementation, a firmware image or a part fixes, and the values the manual leaves open: constants
without a body, so that nothing can be proved of their values.
-/

namespace Sys2Proof.Config

open Sys2Proof

/-- T_R of a numeric-library version other than 1 (R501). (DESIGN CHOICE, log entry 23.) -/
opaque tableR (version i : Nat) : BitVec 24

/-- T_S of a numeric-library version other than 1 (R501). (DESIGN CHOICE, log entry 23.) -/
opaque tableS (version i : Nat) : BitVec 24

/-- The numerator of L over 2^64 of a numeric-library version other than 1 (R501). (DESIGN CHOICE, log entry 23.) -/
opaque expL (version : Nat) : Nat

/-- The numerator of c_j over 2^62 of a numeric-library version other than 1 (R501). (DESIGN CHOICE, log entry 23.) -/
opaque expC (version j : Nat) : Nat

/-- A byte the manual leaves undefined: the `k`-th free value. (DESIGN CHOICE, log entry 5.) -/
opaque freeByte (k : Nat) : Byte

/-- A register word the manual leaves undefined: the `k`-th free value. (DESIGN CHOICE, log entry 5.) -/
opaque freeWord (k : Nat) : Word

/-- A number the manual leaves undefined: the `k`-th free value. (DESIGN CHOICE, log entry 5.) -/
opaque freeNat (k : Nat) : Nat

/-- An error of the hardware in a memory word (R72), the `k`-th chance of one: none, or the channel, the memory (0 program
memory, 1 scratchpad, 2 and 3 the accumulators of MA0 and MA1, 5 the servo engine's tables, 6 the common block's, else DRAM), the
codeword, and the kind (0 a single bit, 1 a pattern the
code flags, 2 one that passes as clean, 3 one that is taken for a single bit). (DESIGN CHOICE, log entry 9.) -/
opaque upset (k : Nat) : Option (Nat × Nat × Nat × Nat)

/-- Sample `k` of a block by the decoder's fixed inverse DCT on parts of a determinism class (R276): its accuracy is
stated, its bits are not. (DESIGN CHOICE, log entry 24.) -/
opaque idct (cls : Nat) (coef : List Int) (k : Nat) : Byte

/-- The boot ROM (R469): its contents are not stated. (DESIGN CHOICE, log entry 24.) -/
opaque rom : List Byte

/-- The numeric-library tables of a version as the part holds them (R157, R469): their layout is not stated.
(DESIGN CHOICE, log entry 24.) -/
opaque numTables (version : Nat) : List Byte

/-- Byte `k` of the SHA-384 of a byte string. (DESIGN CHOICE, log entry 24.) -/
opaque sha384 (b : List Byte) (k : Nat) : Byte

/-- The clock quality (class, accuracy, variance) that the part announces as a gPTP grandmaster (R396): not stated.
(DESIGN CHOICE, log entry 33.) -/
opaque ptpQuality : BitVec 32

/-- The part's gPTP clock identity (R396): not stated. (DESIGN CHOICE, log entry 33.) -/
opaque ptpIdentity : BitVec 64

/-- The stored check bits of a program-memory word (R37): the code is not stated. (DESIGN CHOICE, log entry 24.) -/
opaque pmCheck (w : Dword) : Byte

end Sys2Proof.Config
end

