-- ==== Sys2Proof/Machine/Bits.lean ====
section
/-!
DEFINITION. Bit fields, byte order (R9: little-endian), sparse tables and byte memories, and the CRC-32 of R51.
-/

namespace Sys2Proof.Machine

open Sys2Proof

/-- A word with the given fields: value and lowest bit. -/
def fields (l : List (Nat × Nat)) : Word := BitVec.ofNat 32 ((l.map (fun p => p.1 * 2 ^ p.2)).foldl (· + ·) 0)

/-- What a sparse table holds at `k`; `d` is what an unlisted key reads as. -/
def sget {α : Type} (d : α) : Sparse α → Nat → α
  | [], _ => d
  | (j, v) :: r, k => if j = k then v else sget d r k

/-- Sets an entry, keeping the canonical form: what an unlisted key reads as is not listed. -/
def sset {α : Type} [DecidableEq α] (d : α) : Sparse α → Nat → α → Sparse α
  | [], k, v => if v = d then [] else [(k, v)]
  | (j, w) :: r, k, v =>
    if v = d then (if k = j then sset d r k v else (j, w) :: sset d r k v)
    else if k < j then (k, v) :: (j, w) :: r
    else if k = j then (k, v) :: r
    else (j, w) :: sset d r k v

/-- The canonical form above a bound: keys strictly rising and above `lo`, no entry equal to `d`. -/
def swfFrom {α : Type} [DecidableEq α] (d : α) : Option Nat → Sparse α → Bool
  | _, [] => true
  | lo, (j, v) :: r => (match lo with | none => true | some l => decide (l < j)) && decide (v ≠ d) && swfFrom d (some j) r

/-- The canonical form of a sparse table. -/
def swf {α : Type} [DecidableEq α] (d : α) (m : Sparse α) : Bool := swfFrom d none m

/-- Sets a run of consecutive entries. -/
def ssets {α : Type} [DecidableEq α] (d : α) (m : Sparse α) (k : Nat) : List α → Sparse α
  | [] => m
  | v :: vs => ssets d (sset d m k v) (k + 1) vs

/-- Clears the entries of a run of keys. -/
def sclear {α : Type} (m : Sparse α) (k n : Nat) : Sparse α :=
  m.filter (fun e => e.1 < k || k + n ≤ e.1)

/-- One byte of a memory; a byte nothing has written reads 0 (R69 for the scratchpad). (DESIGN CHOICE, log entry 10.) -/
def rd8 (m : Mem) (a : Nat) : Byte := sget 0 m a

/-- Writes one byte. -/
def wr8 (m : Mem) (a : Nat) (b : Byte) : Mem := sset 0 m a b

/-- `n` bytes from address `a`, ascending. -/
def rdBytes (m : Mem) (a : Nat) : Nat → List Byte
  | 0 => []
  | n + 1 => rd8 m a :: rdBytes m (a + 1) n

/-- Writes bytes from address `a`, ascending. -/
def wrBytes (m : Mem) (a : Nat) (bs : List Byte) : Mem := ssets 0 m a bs

/-- The number a little-endian byte string stands for (R9). -/
def leNat : List Byte → Nat
  | [] => 0
  | b :: bs => b.toNat + 256 * leNat bs

/-- The `n` little-endian bytes of a number. -/
def leBytes : Nat → Nat → List Byte
  | 0, _ => []
  | n + 1, v => BitVec.ofNat 8 v :: leBytes n (v / 256)

/-- A little-endian number of `n` bytes in memory. -/
def rdLe (m : Mem) (a n : Nat) : Nat := leNat (rdBytes m a n)

/-- Writes a little-endian number of `n` bytes. -/
def wrLe (m : Mem) (a n v : Nat) : Mem := wrBytes m a (leBytes n v)

/-- `n` bytes of a byte string from position `k`, as a little-endian number. -/
def field (bs : List Byte) (k n : Nat) : Nat := leNat ((bs.drop k).take n)

/-- One byte of a byte string (0 past its end). -/
def byteAt (bs : List Byte) (k : Nat) : Byte := bs.getD k 0

/-- Bits [hi:lo] of a number. -/
def bitsOf (v hi lo : Nat) : Nat := (v / 2 ^ lo) % 2 ^ (hi + 1 - lo)

/-- Bit `k` of a number. -/
def bitOf (v k : Nat) : Bool := (v / 2 ^ k) % 2 == 1

/-- A number of `n` bits read as two's complement. -/
def toSigned (n v : Nat) : Int := if v % 2 ^ n < 2 ^ (n - 1) then (v % 2 ^ n : Nat) else (v % 2 ^ n : Nat) - (2 ^ n : Nat)

/-- An integer as a two's complement number of `n` bits. -/
def ofSigned (n : Nat) (i : Int) : Nat := (i % (2 ^ n : Nat)).toNat

/-- Field [hi:lo] of a word replaced by `v`. -/
def setField {w : Nat} (x : BitVec w) (hi lo : Nat) (v : Nat) : BitVec w :=
  let m : BitVec w := (BitVec.ofNat w (2 ^ (hi + 1 - lo) - 1)) <<< lo
  (x &&& ~~~m) ||| ((BitVec.ofNat w v <<< lo) &&& m)

/-- Field [hi:lo] of a word as a number. -/
def getField {w : Nat} (x : BitVec w) (hi lo : Nat) : Nat := bitsOf x.toNat hi lo

/-- Sets or clears one bit. -/
def setBit {w : Nat} (x : BitVec w) (k : Nat) (b : Bool) : BitVec w := setField x k k (if b then 1 else 0)

/-- A Bool as a number. -/
def b2n (b : Bool) : Nat := if b then 1 else 0

/-- Addition that stops at the largest 32-bit value. -/
def satAdd32 (x : Word) (n : Nat) : Word := if x.toNat + n > 0xFFFFFFFF then 0xFFFFFFFF else x + BitVec.ofNat 32 n

/-- One bit of the reflected CRC-32 division (R51). -/
def crcBits : Nat → Word → Word
  | 0, c => c
  | n + 1, c => crcBits n (if c.getLsbD 0 then (c >>> 1) ^^^ 0xEDB88320 else c >>> 1)

/-- The running CRC-32 over bytes, without the final complement. -/
def crcRun : List Byte → Word → Word
  | [], c => c
  | b :: bs, c => crcRun bs (crcBits 8 (c ^^^ b.zeroExtend 32))

/-- CRC-32 of R51: IEEE 802.3 polynomial, reflected, initial value and final XOR 0xFFFF_FFFF. -/
def crc32 (bs : List Byte) : Word := crcRun bs 0xFFFFFFFF ^^^ 0xFFFFFFFF

/-- The least element of a list of numbers. -/
def minNat? : List Nat → Option Nat
  | [] => none
  | x :: xs => some (match minNat? xs with | none => x | some m => min x m)

end Sys2Proof.Machine
end

