-- ==== Sys2Proof/Machine/Regs.lean ====
section
/-!
DEFINITION. The registers: their offsets under the manual's names, and one row for each with the bits software may
write (RW), the bits a written 1 clears (W1C), whether a read returns 0 (WO), and the reset value (R12, R13).
Channel registers are keyed by the offset in the channel window, the rest by the offset in BAR0 (R448).
-/

namespace Sys2Proof.Machine

open Sys2Proof

def SEQ_PM_ADDR : Nat := 0x10000
def SEQ_PM_DATA : Nat := 0x10008
def SEQ_PM_CHK : Nat := 0x10010
def CH_CTRL : Nat := 0x0
def CH_STATUS : Nat := 0x4
def CH_CMD_BASE : Nat := 0x10
def CH_CMD_SIZE : Nat := 0x18
def CH_CMD_TAIL : Nat := 0x1c
def CH_CMD_HEAD : Nat := 0x20
def CH_CMD_ACK : Nat := 0x28
def CH_CPL_BASE : Nat := 0x30
def CH_CPL_SIZE : Nat := 0x38
def CH_CPL_CONS : Nat := 0x3c
def CH_CPL_PROD : Nat := 0x40
def CH_WB_ADDR : Nat := 0x48
def CH_SEQ_NEXT : Nat := 0x50
def CH_JRNL_BASE : Nat := 0x58
def CH_EXC_CODE : Nat := 0x60
def CH_EXC_PC : Nat := 0x64
def CH_EXC_INSN : Nat := 0x68
def CH_EXC_SEQ : Nat := 0x70
def CH_SIG : Nat := 0x78
def SPAD_RESV (k : Nat) : Nat := 0x11000 + 0x4 * k
def SPAD_CE_COUNT : Nat := 0x11020
def SPAD_CE_ADDR : Nat := 0x11024
def SPAD_UE_ADDR : Nat := 0x11028
def SPAD_SCRUB : Nat := 0x1102c
def SPAD_DZ_DROP : Nat := 0x11030
def SPAD_SWEEPS : Nat := 0x11034
def ACC_CE_COUNT : Nat := 0x11038
def ACC_UE_INFO : Nat := 0x1103c
def RING_BASE (k : Nat) : Nat := 0x12000 + 0x10 * k
def RING_SIZE (k : Nat) : Nat := 0x12004 + 0x10 * k
def RING_HEAD (k : Nat) : Nat := 0x12008 + 0x10 * k
def RING_TAIL (k : Nat) : Nat := 0x1200c + 0x10 * k
def DRAM_CFG : Nat := 0xc0000
def DRAM_TOP : Nat := 0xc0008
def DRAM_CE_COUNT : Nat := 0xc0010
def DRAM_CE_ADDR : Nat := 0xc0018
def DRAM_UE_ADDR : Nat := 0xc0020
def DRAM_TRAIN : Nat := 0xc0028
def FRONT_SRC (k : Nat) : Nat := 0x20000 + 0x20 * k
def FRONT_REM (k : Nat) : Nat := 0x20008 + 0x20 * k
def FRONT_STAT (k : Nat) : Nat := 0x20010 + 0x20 * k
def FRONT_CREDIT (k : Nat) : Nat := 0x20014 + 0x20 * k
def FRONT_WASTE (k : Nat) : Nat := 0x20018 + 0x20 * k
def FRONT_AHEAD (k : Nat) : Nat := 0x2001c + 0x20 * k
def FRONT_WASTE_TOT : Nat := 0x20200
def FRONT_INFL : Nat := 0x20204
def DMA_CTRL : Nat := 0x30000
def DMA_STATUS : Nat := 0x30004
def DMA_CTX_SRC (k : Nat) : Nat := 0x30100 + 0x40 * k
def DMA_CTX_DST (k : Nat) : Nat := 0x30108 + 0x40 * k
def DMA_CTX_LEN (k : Nat) : Nat := 0x30110 + 0x40 * k
def DMA_CTX_PITCH (k : Nat) : Nat := 0x30118 + 0x40 * k
def DMA_CTX_CTL (k : Nat) : Nat := 0x30120 + 0x40 * k
def DMA_CTX_DONE (k : Nat) : Nat := 0x30124 + 0x40 * k
def DMA_CTX_STAT (k : Nat) : Nat := 0x30128 + 0x40 * k
def MA_STAT (k : Nat) : Nat := 0x40000 + 0x100 * k
def MA_CHK_INFO (k : Nat) : Nat := 0x40004 + 0x100 * k
def MA_CHK_WIN (k : Nat) : Nat := 0x40008 + 0x100 * k
def MA_CHK_SKIP (k : Nat) : Nat := 0x4000c + 0x100 * k
def MA_MAC_AC (k : Nat) : Nat := 0x40010 + 0x100 * k
def MA_LOAD_AC (k : Nat) : Nat := 0x40018 + 0x100 * k
def MA_SATCNT (k : Nat) : Nat := 0x40020 + 0x100 * k
def MA_CHK_TOL : Nat := 0x40200
def QNT_CLIP (k : Nat) : Nat := 0x13000 + 0x10 * k
def QNT_TOT (k : Nat) : Nat := 0x13008 + 0x10 * k
def VEC_STAT : Nat := 0x13080
def NUM_LIB : Nat := 0x13084
def WIN_STAT : Nat := 0x40400
def WIN_VEC : Nat := 0x40404
def WIN_SKIPV : Nat := 0x40408
def WIN_SKIPT : Nat := 0x4040c
def WIN_INIT : Nat := 0x40410
def WIN_SLOW_AC : Nat := 0x40414
def WIN_CLIP : Nat := 0x40418
def WIN_HALO_AC : Nat := 0x4041c
def HALO_CFG (k : Nat) : Nat := 0x40500 + 0x10 * k
def HALO_NEXT (k : Nat) : Nat := 0x40504 + 0x10 * k
def HALO_ROWB (k : Nat) : Nat := 0x40508 + 0x10 * k
def HALO_STAT (k : Nat) : Nat := 0x4050c + 0x10 * k
def PTU_CTRL : Nat := 0x50000
def PTU_STAT : Nat := 0x50004
def PTU_DESC_BASE : Nat := 0x50008
def PTU_NDESC : Nat := 0x50010
def PTU_SEQ_BASE : Nat := 0x50018
def PTU_NSEQ : Nat := 0x50020
def PTU_SHIFT_BASE : Nat := 0x50028
def PTU_FREE_BASE : Nat := 0x50030
def PTU_FREE_SIZE : Nat := 0x50038
def PTU_FREE_HEAD : Nat := 0x5003c
def PTU_FREE_TAIL : Nat := 0x50040
def PTU_OPS : Nat := 0x50048
def PTU_ALLOCS : Nat := 0x50050
def PTU_FREES : Nat := 0x50054
def PTU_COPIES : Nat := 0x50058
def PTU_ERR_INFO : Nat := 0x50060
def PTU_CMD_OPS : Nat := 0x50068
def PTU_WPIN (k : Nat) : Nat := 0x50080 + 0x10 * k
def ATT_STAT : Nat := 0x50100
def ATT_BLOCKS : Nat := 0x50104
def ATT_EMPTY : Nat := 0x50108
def ATT_PROMO : Nat := 0x5010c
def SCAN_CTRL : Nat := 0x40800
def SCAN_STAT : Nat := 0x40804
def SCAN_SATCNT : Nat := 0x40808
def SCAN_STEPS : Nat := 0x4080c
def SCAN_NORMS : Nat := 0x40810
def SCAN_OUT : Nat := 0x40814
def SCAN_CLIP : Nat := 0x40818
def SCAN_FENCE_FC : Nat := 0x4081c
def SCAN_SLOT_CFG (k : Nat) : Nat := 0x40c00 + 0x20 * k
def SCAN_SLOT_GEN (k : Nat) : Nat := 0x40c04 + 0x20 * k
def SCAN_SLOT_FADDR (k : Nat) : Nat := 0x40c08 + 0x20 * k
def SCAN_SLOT_STEPS (k : Nat) : Nat := 0x40c10 + 0x20 * k
def IN_CTRL : Nat := 0x60000
def IN_STAT : Nat := 0x60004
def IN_BRING : Nat := 0x60008
def IN_DEC_BUSY : Nat := 0x60010
def IN_DEC_OCC : Nat := 0x60018
def IN_DEC_PEND : Nat := 0x6001c
def IN_CSI_DISC : Nat := 0x60020
def IN_CSI_ECC : Nat := 0x60024
def IN_S_CFG (k : Nat) : Nat := 0x60100 + 0x100 * k
def IN_S_SIZE (k : Nat) : Nat := 0x60104 + 0x100 * k
def IN_S_RING (k : Nat) : Nat := 0x60108 + 0x100 * k
def IN_S_LRING (k : Nat) : Nat := 0x6010c + 0x100 * k
def IN_S_BLACK01 (k : Nat) : Nat := 0x60110 + 0x100 * k
def IN_S_BLACK23 (k : Nat) : Nat := 0x60114 + 0x100 * k
def IN_S_GAINRG (k : Nat) : Nat := 0x60118 + 0x100 * k
def IN_S_GAINB (k : Nat) : Nat := 0x6011c + 0x100 * k
def IN_S_CCM (k : Nat) : Nat := 0x60120 + 0x100 * k
def IN_S_EMB (k : Nat) : Nat := 0x60140 + 0x100 * k
def IN_S_FBUF0 (k : Nat) : Nat := 0x60148 + 0x100 * k
def IN_S_FBUF1 (k : Nat) : Nat := 0x60150 + 0x100 * k
def IN_S_DRING_BASE (k : Nat) : Nat := 0x60158 + 0x100 * k
def IN_S_DRING_SIZE (k : Nat) : Nat := 0x60160 + 0x100 * k
def IN_S_DECMAX (k : Nat) : Nat := 0x60164 + 0x100 * k
def IN_S_AUG (k : Nat) : Nat := 0x60168 + 0x100 * k
def IN_S_CONTR (k : Nat) : Nat := 0x6016c + 0x100 * k
def IN_S_SMIN (k : Nat) : Nat := 0x60170 + 0x100 * k
def IN_S_SMAX (k : Nat) : Nat := 0x60174 + 0x100 * k
def IN_S_OSIZE (k : Nat) : Nat := 0x60178 + 0x100 * k
def IN_S_SEED (k : Nat) : Nat := 0x60180 + 0x100 * k
def IN_S_HOSTPOST (k : Nat) : Nat := 0x60188 + 0x100 * k
def IN_S_FRAMES (k : Nat) : Nat := 0x6018c + 0x100 * k
def IN_S_DROPS (k : Nat) : Nat := 0x60190 + 0x100 * k
def IN_S_CORRUPT (k : Nat) : Nat := 0x60194 + 0x100 * k
def IN_S_LATE (k : Nat) : Nat := 0x60198 + 0x100 * k
def IN_S_GAMMA (k : Nat) : Nat := 0x61000 + 0x400 * k
def SERVO_CTRL : Nat := 0x70000
def SERVO_STAT : Nat := 0x70004
def SERVO_T0 : Nat := 0x70008
def SERVO_TICK : Nat := 0x70010
def SERVO_BANK : Nat := 0x70014
def SERVO_SWTIME : Nat := 0x70018
def SERVO_SWCTL : Nat := 0x70020
def SERVO_LT_ERR : Nat := 0x70024
def SERVO_MISS : Nat := 0x70028
def SERVO_SAT : Nat := 0x7002c
def SERVO_SPOVF : Nat := 0x70030
def SERVO_MISSCNT : Nat := 0x70034
def SERVO_STALECNT : Nat := 0x70038
def SERVO_CMPCNT : Nat := 0x7003c
def SERVO_SKIP : Nat := 0x70040
def SERVO_RING : Nat := 0x70044
def SERVO_SRDROP : Nat := 0x70048
def SERVO_RCST : Nat := 0x7004c
def SERVO_COST : Nat := 0x70050
def DRV_CFG : Nat := 0x70100
def DRV_STAT : Nat := 0x70104
def DRV_RTT : Nat := 0x70108
def DRV_TRIM : Nat := 0x7010c
def DRV_BLKERR : Nat := 0x70110
def DRV_CRCERR : Nat := 0x70114
def DRV_LENERR : Nat := 0x70118
def DRV_NOSMP : Nat := 0x7011c
def DRV_LATE : Nat := 0x70120
def DRV_EXTRA : Nat := 0x70124
def DRV_RETRAIN : Nat := 0x70128
def DRV_TXFR : Nat := 0x7012c
def DRV_RXFR : Nat := 0x70130
def DRV_FARSTS : Nat := 0x70134
def ALM_STAT : Nat := 0x90000
def ALM_BANK_SEL : Nat := 0x90004
def ALM_T0 : Nat := 0x90008
def ALM_SWTIME : Nat := 0x90010
def ALM_EPOCH : Nat := 0x90018
def ALM_FRAME : Nat := 0x9001c
def ALM_ENTRY : Nat := 0x90020
def ALM_SKIP : Nat := 0x90024
def ALM_CUT : Nat := 0x90028
def ALM_HAILMISS : Nat := 0x9002c
def ALM_REFUSED : Nat := 0x90030
def FRZ_CTRL : Nat := 0x90100
def FRZ_STAT : Nat := 0x90104
def FRZ_BASE : Nat := 0x90108
def FRZ_LIMIT : Nat := 0x90110
def FRZ_SIZE : Nat := 0x90114
def FRZ_SEQ : Nat := 0x90118
def BARO_CTRL : Nat := 0xa0000
def BARO_BASE : Nat := 0xa0008
def BARO_SIZE : Nat := 0xa0010
def BARO_STALL_BANK : Nat := 0xa0020
def BARO_STALL_DRAM : Nat := 0xa0024
def BARO_STALL_RING : Nat := 0xa0028
def BARO_STALL_LINK : Nat := 0xa002c
def BARO_STALL_HALO : Nat := 0xa0030
def BARO_STALL_HOST : Nat := 0xa0034
def BARO_RUN_AC : Nat := 0xa0038
def BARO_LATE : Nat := 0xa003c
def LINK_STAT : Nat := 0xb0000
def LINK_DROP : Nat := 0xb0004
def LINK_CRCERR : Nat := 0xb0008
def LINK_OPEN (k : Nat) : Nat := 0xb0010 + 0x4 * k
def LINK_ROUTE : Nat := 0xb0040
def CAS_CTRL : Nat := 0xb0100
def CAS_STAT : Nat := 0xb0104
def CAS_LAT : Nat := 0xb0108
def CAS_OWD : Nat := 0xb010c
def CAS_CRCERR : Nat := 0xb0110
def CAS_BLKERR : Nat := 0xb0114
def CAS_REPLAY : Nat := 0xb0118
def CAS_LATEPKT : Nat := 0xb011c
def CAS_DOWNCNT : Nat := 0xb0120
def CAS_FAR : Nat := 0xb0124
def TIME_CTRL : Nat := 0x3300000
def TIME_STAT : Nat := 0x3300004
def TIME_NS : Nat := 0x3300008
def TIME_FRAC : Nat := 0x330000c
def TIME_SEC : Nat := 0x3300010
def TIME_SHORT : Nat := 0x3300018
def TIME_ADDEND : Nat := 0x3300020
def TIME_NEXT_ADD : Nat := 0x3300028
def TIME_NEXT_STEP : Nat := 0x3300030
def TIME_NEXT_AT : Nat := 0x3300038
def TIME_SET_NS : Nat := 0x3300040
def TIME_SET_SEC : Nat := 0x3300044
def TIME_CMD : Nat := 0x330004c
def PPS_WIDTH : Nat := 0x3300050
def PTP_CTRL : Nat := 0x3300080
def PTP_STAT : Nat := 0x3300084
def PTP_OFFSET : Nat := 0x3300088
def PTP_STEPTHR : Nat := 0x3300090
def PTP_PRIO : Nat := 0x3300094
def TSQ_HEAD : Nat := 0x3300100
def TSQ_TAIL : Nat := 0x3300104
def TSQ_STAT : Nat := 0x3300108
def TSQ_DROP : Nat := 0x330010c
def TSQ_ENTRY (k : Nat) : Nat := 0x3300200 + 0x10 * k
def TCAP_CFG (k : Nat) : Nat := 0x3301000 + 0x20 * k
def TCAP_STAT (k : Nat) : Nat := 0x3301004 + 0x20 * k
def TCAP_DROP (k : Nat) : Nat := 0x3301008 + 0x20 * k
def TCAP_FRAC (k : Nat) : Nat := 0x330100c + 0x20 * k
def TCAP_T (k : Nat) : Nat := 0x3301010 + 0x20 * k
def TCAP_E (k : Nat) : Nat := 0x3301018 + 0x20 * k
def TCAP_POP (k : Nat) : Nat := 0x330101c + 0x20 * k
def TRG_CFG (k : Nat) : Nat := 0x3302000 + 0x40 * k
def TRG_STAT (k : Nat) : Nat := 0x3302004 + 0x40 * k
def TRG_START (k : Nat) : Nat := 0x3302008 + 0x40 * k
def TRG_PERIOD (k : Nat) : Nat := 0x3302010 + 0x40 * k
def TRG_WIDTH (k : Nat) : Nat := 0x3302014 + 0x40 * k
def TRG_COUNT (k : Nat) : Nat := 0x3302018 + 0x40 * k
def TRG_CMD (k : Nat) : Nat := 0x330201c + 0x40 * k
def TRG_PULSES (k : Nat) : Nat := 0x3302020 + 0x40 * k
def TRG_SKIP (k : Nat) : Nat := 0x3302024 + 0x40 * k
def ETH_CTRL (k : Nat) : Nat := 0x3340000 + 0x10000 * k
def ETH_STAT (k : Nat) : Nat := 0x3340004 + 0x10000 * k
def ETH_MAC (k : Nat) : Nat := 0x3340008 + 0x10000 * k
def ETH_TXLAT (k : Nat) : Nat := 0x3340010 + 0x10000 * k
def ETH_RXLAT (k : Nat) : Nat := 0x3340014 + 0x10000 * k
def ETH_TXBASE (k : Nat) : Nat := 0x3340020 + 0x10000 * k
def ETH_TXSIZE (k : Nat) : Nat := 0x3340028 + 0x10000 * k
def ETH_TXTAIL (k : Nat) : Nat := 0x334002c + 0x10000 * k
def ETH_TXHEAD (k : Nat) : Nat := 0x3340030 + 0x10000 * k
def ETH_RXBASE (k : Nat) : Nat := 0x3340040 + 0x10000 * k
def ETH_RXSIZE (k : Nat) : Nat := 0x3340048 + 0x10000 * k
def ETH_RXTAIL (k : Nat) : Nat := 0x334004c + 0x10000 * k
def ETH_RXHEAD (k : Nat) : Nat := 0x3340050 + 0x10000 * k
def ETH_RXFR (k : Nat) : Nat := 0x3340080 + 0x10000 * k
def ETH_RXERR (k : Nat) : Nat := 0x3340084 + 0x10000 * k
def ETH_RXDROP (k : Nat) : Nat := 0x3340088 + 0x10000 * k
def ETH_STEERED (k : Nat) : Nat := 0x334008c + 0x10000 * k
def ETH_UNSTEER (k : Nat) : Nat := 0x3340090 + 0x10000 * k
def ETH_MACCTL (k : Nat) : Nat := 0x3340094 + 0x10000 * k
def ETH_TXFR (k : Nat) : Nat := 0x3340098 + 0x10000 * k
def ETH_TXERR (k : Nat) : Nat := 0x334009c + 0x10000 * k
def CAN_CTRL : Nat := 0x80000
def CAN_STAT : Nat := 0x80004
def CAN_NBT : Nat := 0x80008
def CAN_DBT : Nat := 0x8000c
def CAN_TDCV : Nat := 0x80010
def CAN_ERRC : Nat := 0x80014
def CAN_T0 : Nat := 0x80018
def CAN_COLLEN : Nat := 0x80020
def CAN_SLOTEN (k : Nat) : Nat := 0x80040 + 0x4 * k
def CAN_RXBASE : Nat := 0x80080
def CAN_RXSIZE : Nat := 0x80088
def CAN_RXHEAD : Nat := 0x8008c
def CAN_RXTAIL : Nat := 0x80090
def CAN_MSTAT : Nat := 0x80094
def CAN_MIRQ : Nat := 0x80098
def CAN_SAFECTL : Nat := 0x8009c
def CAN_TXOK : Nat := 0x800a0
def CAN_LATE : Nat := 0x800a4
def CAN_CANCEL : Nat := 0x800a8
def CAN_SUPER : Nat := 0x800ac
def CAN_RXOK : Nat := 0x800b0
def CAN_RXDROP : Nat := 0x800b4
def CAN_ERRFR : Nat := 0x800b8
def CAN_BUSOFF : Nat := 0x800bc
def CAN_MFILT (k : Nat) : Nat := 0x80100 + 0x8 * k
def CAN_MMASK (k : Nat) : Nat := 0x80104 + 0x8 * k
def CAN_SAFEMSG : Nat := 0x80300
def CAN_MBUF (k : Nat) : Nat := 0x80400 + 0x80 * k
def SAFE_CTRL : Nat := 0x3380000
def SAFE_STAT : Nat := 0x3380004
def SAFE_CHSAFE : Nat := 0x3380008
def SAFE_RETIRED : Nat := 0x338000c
def SAFE_STCHK : Nat := 0x3380010
def FLT_COUNT : Nat := 0x3380014
def SAFE_PENDV : Nat := 0x3380018
def SAFE_TRANS (k : Nat) : Nat := 0x3380100 + 0x4 * k
def SAFE_LEASE (k : Nat) : Nat := 0x3380140 + 0x4 * k
def SAFE_DUP (k : Nat) : Nat := 0x3380180 + 0x4 * k
def SAFE_PEND (k : Nat) : Nat := 0x3380200 + 0x40 * k
def FLT_ENTRY (k : Nat) : Nat := 0x3381000 + 0x10 * k
def CH_HAIL_STAT : Nat := 0x80
def CH_HAIL_FRAME : Nat := 0x84
def GLB_ID : Nat := 0x3200000
def GLB_CHFUSE : Nat := 0x3200008
def GLB_CHLIVE : Nat := 0x320000c
def GLB_STATE : Nat := 0x3200010
def GLB_CALM_REASON : Nat := 0x3200014
def GLB_BOOTFAIL : Nat := 0x3200018
def GLB_RESET : Nat := 0x320001c
def GLB_HOSTERR : Nat := 0x3200020
def GLB_FWVER : Nat := 0x3200024
def GLB_STRAPS : Nat := 0x3200028
def GLB_GROUP (k : Nat) : Nat := 0x3200040 + 0x4 * k
def GLB_BCAST_DIFF : Nat := 0x3200060
def GLB_B4OFF (k : Nat) : Nat := 0x3200080 + 0x4 * k
def GLB_SYNC_TIME : Nat := 0x32000c0
def GLB_SYNC_ARM : Nat := 0x32000c8
def GLB_SYNC_GO : Nat := 0x32000cc
def GLB_IRQ_STAT : Nat := 0x32000d0
def GLB_IRQ_EN : Nat := 0x32000d4
def MBX_H2S : Nat := 0x33e0000
def MBX_H2S_CTL : Nat := 0x33e0040
def MBX_S2H : Nat := 0x33e0080
def MBX_S2H_CTL : Nat := 0x33e00c0
def FLASH_ADDR : Nat := 0x33c0000
def FLASH_CMD : Nat := 0x33c0004
def FLASH_STAT : Nat := 0x33c0008
def FLASH_DATA : Nat := 0x33c0800
def CAL_CMD : Nat := 0x33c0100
def CAL_STAT : Nat := 0x33c0104
def CAL_WIN : Nat := 0x33c1000
def ATT_NONCE : Nat := 0x33c2000
def ATT_CMD : Nat := 0x33c2040
def ATST_STAT : Nat := 0x33c2044
def ATT_REPORT : Nat := 0x33c2100
def PWR_CTL (k : Nat) : Nat := 0x33a0000 + 0x40 * k
def PWR_STAT (k : Nat) : Nat := 0x33a0004 + 0x40 * k
def PWR_TEMP (k : Nat) : Nat := 0x33a0008 + 0x40 * k
def PWR_VOLT (k : Nat) : Nat := 0x33a000c + 0x40 * k
def PWR_CURR (k : Nat) : Nat := 0x33a0010 + 0x40 * k
def PWR_ENERGY (k : Nat) : Nat := 0x33a0018 + 0x40 * k
def PWR_ILIM (k : Nat) : Nat := 0x33a0020 + 0x40 * k
def PWR_THCNT (k : Nat) : Nat := 0x33a0024 + 0x40 * k
def PWR_DEVPWR : Nat := 0x33a1000
def PWR_PLIM : Nat := 0x33a1004
def PWR_TH : Nat := 0x33a1008

/-- A register row: `n` registers of `words` words each, `stride` bytes apart; `pair` marks the 64-bit quantities of
R11; masks and reset are the low and the high word of a 64-bit number (a block of words uses the low word for each). -/
structure RegRow where
  off : Nat
  n : Nat
  stride : Nat
  words : Nat
  pair : Bool
  rw : Nat
  w1c : Nat
  wo : Bool
  reset : Nat
deriving DecidableEq, Repr

/-- Rows of the channel window. CH_CMD_BASE, CH_CPL_BASE, CH_WB_ADDR and CH_JRNL_BASE take all the bits written: R61 calls them aligned
and names no effect of a misaligned value. (DESIGN CHOICE, log entry 54.) -/
def chRows0 : List RegRow := [
  ⟨0x0, 1, 0x4, 1, false, 0x7, 0x0, false, 0x0⟩,
  ⟨0x4, 1, 0x4, 1, false, 0x0, 0x1bc, false, 0x1⟩,
  ⟨0x10, 1, 0x8, 2, true, 0xffffffffffffffff, 0x0, false, 0x0⟩,
  ⟨0x18, 1, 0x4, 1, false, 0x1f, 0x0, false, 0x6⟩,
  ⟨0x1c, 1, 0x4, 1, false, 0xffffffff, 0x0, false, 0x0⟩,
  ⟨0x20, 1, 0x4, 1, false, 0x0, 0x0, false, 0x0⟩,
  ⟨0x28, 1, 0x8, 2, true, 0x0, 0x0, false, 0x0⟩,
  ⟨0x30, 1, 0x8, 2, true, 0xffffffffffffffff, 0x0, false, 0x0⟩,
  ⟨0x38, 1, 0x4, 1, false, 0x1f, 0x0, false, 0x6⟩,
  ⟨0x3c, 1, 0x4, 1, false, 0xffffffff, 0x0, false, 0x0⟩,
  ⟨0x40, 1, 0x4, 1, false, 0x0, 0x0, false, 0x0⟩,
  ⟨0x48, 1, 0x8, 2, true, 0xffffffffffffffff, 0x0, false, 0x0⟩,
  ⟨0x50, 1, 0x8, 2, true, 0xffffffffffffffff, 0x0, false, 0x1⟩,
  ⟨0x58, 1, 0x8, 2, true, 0xffffffffffffffff, 0x0, false, 0x0⟩,
  ⟨0x60, 1, 0x4, 1, false, 0x0, 0x0, false, 0x0⟩,
  ⟨0x64, 1, 0x4, 1, false, 0x0, 0x0, false, 0x0⟩,
  ⟨0x68, 1, 0x8, 2, true, 0x0, 0x0, false, 0x0⟩,
  ⟨0x70, 1, 0x8, 2, true, 0x0, 0x0, false, 0x0⟩,
  ⟨0x78, 1, 0x4, 1, false, 0x0, 0x0, false, 0x0⟩,
  ⟨0x80, 1, 0x4, 1, false, 0x0, 0x0, false, 0x0⟩,
  ⟨0x84, 1, 0x4, 1, false, 0x0, 0x0, false, 0x0⟩,
  ⟨0x10000, 1, 0x4, 1, false, 0x7fff, 0x0, false, 0x0⟩,
  ⟨0x10008, 1, 0x8, 2, true, 0x0, 0x0, false, 0x0⟩,
  ⟨0x10010, 1, 0x4, 1, false, 0x0, 0x0, false, 0x0⟩,
  ⟨0x11000, 8, 0x4, 1, false, 0xffffffff, 0x0, false, 0x0⟩]

def chRows1 : List RegRow := [
  ⟨0x11020, 1, 0x4, 1, false, 0xffffffff, 0x0, false, 0x0⟩,
  ⟨0x11024, 1, 0x4, 1, false, 0x0, 0x0, false, 0x0⟩,
  ⟨0x11028, 1, 0x4, 1, false, 0x0, 0x0, false, 0x0⟩,
  ⟨0x1102c, 1, 0x4, 1, false, 0x8000ffff, 0x0, false, 0x80000001⟩,
  ⟨0x11030, 1, 0x4, 1, false, 0xffffffff, 0x0, false, 0x0⟩,
  ⟨0x11034, 1, 0x4, 1, false, 0x0, 0x0, false, 0x0⟩,
  ⟨0x11038, 1, 0x4, 1, false, 0xffffffff, 0x0, false, 0x0⟩,
  ⟨0x1103c, 1, 0x4, 1, false, 0x0, 0x0, false, 0x0⟩,
  ⟨0x12000, 64, 0x10, 1, false, 0x0, 0x0, false, 0x0⟩,
  ⟨0x12004, 64, 0x10, 1, false, 0x0, 0x0, false, 0x0⟩,
  ⟨0x12008, 64, 0x10, 1, false, 0x0, 0x0, false, 0x0⟩,
  ⟨0x1200c, 64, 0x10, 1, false, 0x0, 0x0, false, 0x0⟩,
  ⟨0x13000, 8, 0x10, 2, true, 0x0, 0x0, false, 0x0⟩,
  ⟨0x13008, 8, 0x10, 2, true, 0x0, 0x0, false, 0x0⟩,
  ⟨0x13080, 1, 0x4, 1, false, 0x0, 0xf, false, 0x0⟩,
  ⟨0x13084, 1, 0x4, 1, false, 0x0, 0x0, false, 0x0⟩,
  ⟨0x20000, 16, 0x20, 2, true, 0x0, 0x0, false, 0x0⟩,
  ⟨0x20008, 16, 0x20, 2, true, 0x0, 0x0, false, 0x0⟩,
  ⟨0x20010, 16, 0x20, 1, false, 0x0, 0xc, false, 0x0⟩,
  ⟨0x20014, 16, 0x20, 1, false, 0x0, 0x0, false, 0x0⟩,
  ⟨0x20018, 16, 0x20, 1, false, 0x0, 0x0, false, 0x0⟩,
  ⟨0x2001c, 16, 0x20, 1, false, 0x0, 0x0, false, 0x0⟩,
  ⟨0x20200, 1, 0x4, 1, false, 0xffffffff, 0x0, false, 0x0⟩,
  ⟨0x20204, 1, 0x4, 1, false, 0x0, 0x0, false, 0x0⟩,
  ⟨0x30000, 1, 0x4, 1, false, 0x1, 0x0, false, 0x1⟩]

def chRows2 : List RegRow := [
  ⟨0x30004, 1, 0x4, 1, false, 0x0, 0x6, false, 0x0⟩,
  ⟨0x30100, 8, 0x40, 2, true, 0x0, 0x0, false, 0x0⟩,
  ⟨0x30108, 8, 0x40, 2, true, 0x0, 0x0, false, 0x0⟩,
  ⟨0x30110, 8, 0x40, 2, true, 0x0, 0x0, false, 0x0⟩,
  ⟨0x30118, 8, 0x40, 2, true, 0x0, 0x0, false, 0x0⟩,
  ⟨0x30120, 8, 0x40, 1, false, 0x0, 0x0, false, 0x0⟩,
  ⟨0x30124, 8, 0x40, 1, false, 0x0, 0x0, false, 0x0⟩,
  ⟨0x30128, 8, 0x40, 1, false, 0x0, 0x0, false, 0x0⟩,
  ⟨0x40000, 2, 0x100, 1, false, 0x0, 0xc000, false, 0x0⟩,
  ⟨0x40004, 2, 0x100, 1, false, 0x0, 0x0, false, 0x0⟩,
  ⟨0x40008, 2, 0x100, 1, false, 0x0, 0x0, false, 0x0⟩,
  ⟨0x4000c, 2, 0x100, 1, false, 0xffffffff, 0x0, false, 0x0⟩,
  ⟨0x40010, 2, 0x100, 2, true, 0x0, 0x0, false, 0x0⟩,
  ⟨0x40018, 2, 0x100, 2, true, 0x0, 0x0, false, 0x0⟩,
  ⟨0x40020, 2, 0x100, 1, false, 0xffffffff, 0x0, false, 0x0⟩,
  ⟨0x40200, 1, 0x4, 1, false, 0xffff, 0x0, false, 0x1⟩,
  ⟨0x40400, 1, 0x4, 1, false, 0x0, 0x0, false, 0x0⟩,
  ⟨0x40404, 1, 0x4, 1, false, 0x0, 0x0, false, 0x0⟩,
  ⟨0x40408, 1, 0x4, 1, false, 0x0, 0x0, false, 0x0⟩,
  ⟨0x4040c, 1, 0x4, 1, false, 0x0, 0x0, false, 0x0⟩,
  ⟨0x40410, 1, 0x4, 1, false, 0x0, 0x0, false, 0x0⟩,
  ⟨0x40414, 1, 0x4, 1, false, 0x0, 0x0, false, 0x0⟩,
  ⟨0x40418, 1, 0x4, 1, false, 0x0, 0x0, false, 0x0⟩,
  ⟨0x4041c, 1, 0x4, 1, false, 0x0, 0x0, false, 0x0⟩,
  ⟨0x40500, 4, 0x10, 1, false, 0x0, 0x0, false, 0x0⟩]

def chRows3 : List RegRow := [
  ⟨0x40504, 4, 0x10, 1, false, 0x0, 0x0, false, 0x0⟩,
  ⟨0x40508, 4, 0x10, 1, false, 0x0, 0x0, false, 0x0⟩,
  ⟨0x4050c, 4, 0x10, 1, false, 0x0, 0x6, false, 0x0⟩,
  ⟨0x40800, 1, 0x4, 1, false, 0x1, 0x0, false, 0x0⟩,
  ⟨0x40804, 1, 0x4, 1, false, 0x0, 0x780, false, 0x0⟩,
  ⟨0x40808, 1, 0x4, 1, false, 0xffffffff, 0x0, false, 0x0⟩,
  ⟨0x4080c, 1, 0x4, 1, false, 0x0, 0x0, false, 0x0⟩,
  ⟨0x40810, 1, 0x4, 1, false, 0x0, 0x0, false, 0x0⟩,
  ⟨0x40814, 1, 0x4, 1, false, 0x0, 0x0, false, 0x0⟩,
  ⟨0x40818, 1, 0x4, 1, false, 0x0, 0x0, false, 0x0⟩,
  ⟨0x4081c, 1, 0x4, 1, false, 0x0, 0x0, false, 0x0⟩,
  ⟨0x40c00, 32, 0x20, 1, false, 0x0, 0x0, false, 0x0⟩,
  ⟨0x40c04, 32, 0x20, 1, false, 0x0, 0x0, false, 0x10000⟩,
  ⟨0x40c08, 32, 0x20, 2, true, 0x0, 0x0, false, 0x0⟩,
  ⟨0x40c10, 32, 0x20, 2, true, 0x0, 0x0, false, 0x0⟩,
  ⟨0x50000, 1, 0x4, 1, false, 0x1, 0x0, false, 0x0⟩,
  ⟨0x50004, 1, 0x4, 1, false, 0x0, 0xc0, false, 0x1⟩,
  ⟨0x50008, 1, 0x8, 2, true, 0xffffffffffffffff, 0x0, false, 0x0⟩,
  ⟨0x50010, 1, 0x4, 1, false, 0x3fffff, 0x0, false, 0x0⟩,
  ⟨0x50018, 1, 0x8, 2, true, 0xffffffffffffffff, 0x0, false, 0x0⟩,
  ⟨0x50020, 1, 0x4, 1, false, 0x1ffff, 0x0, false, 0x0⟩,
  ⟨0x50028, 1, 0x8, 2, true, 0xffffffffffffffff, 0x0, false, 0x0⟩,
  ⟨0x50030, 1, 0x8, 2, true, 0xffffffffffffffff, 0x0, false, 0x0⟩,
  ⟨0x50038, 1, 0x4, 1, false, 0x1f, 0x0, false, 0xc⟩,
  ⟨0x5003c, 1, 0x4, 1, false, 0xffffffff, 0x0, false, 0x0⟩]

def chRows4 : List RegRow := [
  ⟨0x50040, 1, 0x4, 1, false, 0xffffffff, 0x0, false, 0x0⟩,
  ⟨0x50048, 1, 0x8, 2, true, 0x0, 0x0, false, 0x0⟩,
  ⟨0x50050, 1, 0x4, 1, false, 0x0, 0x0, false, 0x0⟩,
  ⟨0x50054, 1, 0x4, 1, false, 0x0, 0x0, false, 0x0⟩,
  ⟨0x50058, 1, 0x4, 1, false, 0x0, 0x0, false, 0x0⟩,
  ⟨0x50060, 1, 0x4, 1, false, 0x0, 0x0, false, 0x0⟩,
  ⟨0x50068, 1, 0x4, 1, false, 0x0, 0x0, false, 0x0⟩,
  ⟨0x50080, 8, 0x10, 4, false, 0x0, 0x0, false, 0x0⟩,
  ⟨0x50100, 1, 0x4, 1, false, 0x0, 0x0, false, 0x0⟩,
  ⟨0x50104, 1, 0x4, 1, false, 0x0, 0x0, false, 0x0⟩,
  ⟨0x50108, 1, 0x4, 1, false, 0x0, 0x0, false, 0x0⟩,
  ⟨0x5010c, 1, 0x4, 1, false, 0x0, 0x0, false, 0x0⟩,
  ⟨0x60000, 1, 0x4, 1, false, 0x1f, 0x0, false, 0x0⟩,
  ⟨0x60004, 1, 0x4, 1, false, 0x0, 0x3e, false, 0x0⟩,
  ⟨0x60008, 1, 0x4, 1, false, 0x7f, 0x0, false, 0x0⟩,
  ⟨0x60010, 1, 0x8, 2, true, 0x0, 0x0, false, 0x0⟩,
  ⟨0x60018, 1, 0x4, 1, false, 0x0, 0x0, false, 0x0⟩,
  ⟨0x6001c, 1, 0x4, 1, false, 0x0, 0x0, false, 0x0⟩,
  ⟨0x60020, 1, 0x4, 1, false, 0x0, 0x0, false, 0x0⟩,
  ⟨0x60024, 1, 0x4, 1, false, 0x0, 0x0, false, 0x0⟩,
  ⟨0x60100, 2, 0x100, 1, false, 0x3fffff, 0x0, false, 0x0⟩,
  ⟨0x60104, 2, 0x100, 1, false, 0xffffffff, 0x0, false, 0x0⟩,
  ⟨0x60108, 2, 0x100, 1, false, 0xfff, 0x0, false, 0x0⟩,
  ⟨0x6010c, 2, 0x100, 1, false, 0x3fffffff, 0x0, false, 0x0⟩,
  ⟨0x60110, 2, 0x100, 1, false, 0xffffffff, 0x0, false, 0x0⟩]

def chRows5 : List RegRow := [
  ⟨0x60114, 2, 0x100, 1, false, 0xffffffff, 0x0, false, 0x0⟩,
  ⟨0x60118, 2, 0x100, 1, false, 0xffffffff, 0x0, false, 0x10001000⟩,
  ⟨0x6011c, 2, 0x100, 1, false, 0xffff, 0x0, false, 0x1000⟩,
  ⟨0x60120, 2, 0x100, 7, false, 0xffffffff, 0x0, false, 0x0⟩,
  ⟨0x6013c, 2, 0x100, 1, false, 0xffff, 0x0, false, 0x0⟩,
  ⟨0x60140, 2, 0x100, 1, false, 0xffffffff, 0x0, false, 0x0⟩,
  ⟨0x60148, 2, 0x100, 2, true, 0xffffffffffffffff, 0x0, false, 0x0⟩,
  ⟨0x60150, 2, 0x100, 2, true, 0xffffffffffffffff, 0x0, false, 0x0⟩,
  ⟨0x60158, 2, 0x100, 2, true, 0xffffffffffffffff, 0x0, false, 0x0⟩,
  ⟨0x60160, 2, 0x100, 1, false, 0xffffffff, 0x0, false, 0x0⟩,
  ⟨0x60164, 2, 0x100, 1, false, 0xffffffff, 0x0, false, 0x0⟩,
  ⟨0x60168, 2, 0x100, 1, false, 0xffffff1f, 0x0, false, 0x0⟩,
  ⟨0x6016c, 2, 0x100, 1, false, 0xffffffff, 0x0, false, 0x1000100⟩,
  ⟨0x60170, 2, 0x100, 1, false, 0xfffff, 0x0, false, 0x10000⟩,
  ⟨0x60174, 2, 0x100, 1, false, 0xfffff, 0x0, false, 0x10000⟩,
  ⟨0x60178, 2, 0x100, 1, false, 0xffffffff, 0x0, false, 0x0⟩,
  ⟨0x60180, 2, 0x100, 2, true, 0xffffffffffffffff, 0x0, false, 0x0⟩,
  ⟨0x60188, 2, 0x100, 1, false, 0x0, 0x0, true, 0x0⟩,
  ⟨0x6018c, 2, 0x100, 1, false, 0x0, 0x0, false, 0x0⟩,
  ⟨0x60190, 2, 0x100, 1, false, 0x0, 0x0, false, 0x0⟩,
  ⟨0x60194, 2, 0x100, 1, false, 0x0, 0x0, false, 0x0⟩,
  ⟨0x60198, 2, 0x100, 1, false, 0x0, 0x0, false, 0x0⟩,
  ⟨0x61000, 2, 0x400, 256, false, 0xffffffff, 0x0, false, 0x0⟩,
  ⟨0x70000, 1, 0x4, 1, false, 0x3, 0x0, false, 0x0⟩,
  ⟨0x70004, 1, 0x4, 1, false, 0x0, 0x78, false, 0x0⟩,
  ⟨0x70008, 1, 0x8, 2, true, 0xffffffffffffffff, 0x0, false, 0x0⟩]

def chRows6 : List RegRow := [
  ⟨0x70010, 1, 0x4, 1, false, 0x0, 0x0, false, 0x0⟩,
  ⟨0x70014, 1, 0x4, 1, false, 0x0, 0x0, false, 0x0⟩,
  ⟨0x70018, 1, 0x8, 2, true, 0xffffffffffffffff, 0x0, false, 0x0⟩,
  ⟨0x70020, 1, 0x4, 1, false, 0x0, 0x0, true, 0x0⟩,
  ⟨0x70024, 1, 0x4, 1, false, 0x0, 0x0, false, 0x0⟩,
  ⟨0x70028, 1, 0x4, 1, false, 0x0, 0xffff, false, 0x0⟩,
  ⟨0x7002c, 1, 0x4, 1, false, 0x0, 0xffff, false, 0x0⟩,
  ⟨0x70030, 1, 0x4, 1, false, 0x0, 0xffff, false, 0x0⟩,
  ⟨0x70034, 1, 0x4, 1, false, 0xffffffff, 0x0, false, 0x0⟩,
  ⟨0x70038, 1, 0x4, 1, false, 0xffffffff, 0x0, false, 0x0⟩,
  ⟨0x7003c, 1, 0x4, 1, false, 0xffffffff, 0x0, false, 0x0⟩,
  ⟨0x70040, 1, 0x4, 1, false, 0x0, 0x0, false, 0x0⟩,
  ⟨0x70044, 1, 0x4, 1, false, 0x7f, 0x0, false, 0x0⟩,
  ⟨0x70048, 1, 0x4, 1, false, 0x0, 0x0, false, 0x0⟩,
  ⟨0x7004c, 1, 0x4, 1, false, 0x0, 0x0, false, 0x0⟩,
  ⟨0x70050, 1, 0x4, 1, false, 0x0, 0x0, false, 0x0⟩,
  ⟨0x70100, 1, 0x4, 1, false, 0x1f, 0x0, false, 0x2⟩,
  ⟨0x70104, 1, 0x4, 1, false, 0x0, 0x18, false, 0x0⟩,
  ⟨0x70108, 1, 0x4, 1, false, 0x0, 0x0, false, 0x0⟩,
  ⟨0x7010c, 1, 0x4, 1, false, 0x7fffff, 0x0, false, 0x0⟩,
  ⟨0x70110, 1, 0x4, 1, false, 0x0, 0x0, false, 0x0⟩,
  ⟨0x70114, 1, 0x4, 1, false, 0x0, 0x0, false, 0x0⟩,
  ⟨0x70118, 1, 0x4, 1, false, 0x0, 0x0, false, 0x0⟩,
  ⟨0x7011c, 1, 0x4, 1, false, 0x0, 0x0, false, 0x0⟩,
  ⟨0x70120, 1, 0x4, 1, false, 0x0, 0x0, false, 0x0⟩]

def chRows7 : List RegRow := [
  ⟨0x70124, 1, 0x4, 1, false, 0x0, 0x0, false, 0x0⟩,
  ⟨0x70128, 1, 0x4, 1, false, 0x0, 0x0, false, 0x0⟩,
  ⟨0x7012c, 1, 0x4, 1, false, 0x0, 0x0, false, 0x0⟩,
  ⟨0x70130, 1, 0x4, 1, false, 0x0, 0x0, false, 0x0⟩,
  ⟨0x70134, 1, 0x4, 1, false, 0x0, 0x0, false, 0x0⟩,
  ⟨0x80000, 1, 0x4, 1, false, 0x7f, 0x0, false, 0x0⟩,
  ⟨0x80004, 1, 0x4, 1, false, 0x0, 0x78, false, 0x0⟩,
  ⟨0x80008, 1, 0x4, 1, false, 0x7fffffff, 0x0, false, 0xf1e7c00⟩,
  ⟨0x8000c, 1, 0x4, 1, false, 0x3ffffff, 0x0, false, 0x44c0⟩,
  ⟨0x80010, 1, 0x4, 1, false, 0x0, 0x0, false, 0x0⟩,
  ⟨0x80014, 1, 0x4, 1, false, 0x0, 0x0, false, 0x0⟩,
  ⟨0x80018, 1, 0x8, 2, true, 0xffffffffffffffff, 0x0, false, 0x0⟩,
  ⟨0x80020, 1, 0x4, 1, false, 0xffff, 0x0, false, 0x7d⟩,
  ⟨0x80040, 16, 0x4, 1, false, 0xffffffff, 0x0, false, 0x0⟩,
  ⟨0x80080, 1, 0x8, 2, true, 0xffffffffffffffff, 0x0, false, 0x0⟩,
  ⟨0x80088, 1, 0x4, 1, false, 0x1f, 0x0, false, 0x4⟩,
  ⟨0x8008c, 1, 0x4, 1, false, 0x0, 0x0, false, 0x0⟩,
  ⟨0x80090, 1, 0x4, 1, false, 0xffffffff, 0x0, false, 0x0⟩,
  ⟨0x80094, 1, 0x4, 1, false, 0x0, 0xffff, false, 0x0⟩,
  ⟨0x80098, 1, 0x4, 1, false, 0xff, 0x0, false, 0x0⟩,
  ⟨0x8009c, 1, 0x4, 1, false, 0x1, 0x0, false, 0x0⟩,
  ⟨0x800a0, 1, 0x4, 1, false, 0x0, 0x0, false, 0x0⟩,
  ⟨0x800a4, 1, 0x4, 1, false, 0x0, 0x0, false, 0x0⟩,
  ⟨0x800a8, 1, 0x4, 1, false, 0x0, 0x0, false, 0x0⟩,
  ⟨0x800ac, 1, 0x4, 1, false, 0x0, 0x0, false, 0x0⟩]

def chRows8 : List RegRow := [
  ⟨0x800b0, 1, 0x4, 1, false, 0x0, 0x0, false, 0x0⟩,
  ⟨0x800b4, 1, 0x4, 1, false, 0x0, 0x0, false, 0x0⟩,
  ⟨0x800b8, 1, 0x4, 1, false, 0x0, 0x0, false, 0x0⟩,
  ⟨0x800bc, 1, 0x4, 1, false, 0x0, 0x0, false, 0x0⟩,
  ⟨0x80100, 8, 0x8, 1, false, 0xffffffff, 0x0, false, 0x0⟩,
  ⟨0x80104, 8, 0x8, 1, false, 0x1fffffff, 0x0, false, 0x0⟩,
  ⟨0x80300, 1, 0x48, 18, false, 0xffffffff, 0x0, false, 0x0⟩,
  ⟨0x80400, 8, 0x80, 32, false, 0x0, 0x0, false, 0x0⟩,
  ⟨0x90000, 1, 0x4, 1, false, 0x0, 0x38, false, 0x0⟩,
  ⟨0x90004, 1, 0x4, 1, false, 0x0, 0x0, false, 0x0⟩,
  ⟨0x90008, 1, 0x8, 2, true, 0x0, 0x0, false, 0x0⟩,
  ⟨0x90010, 1, 0x8, 2, true, 0x0, 0x0, false, 0x0⟩,
  ⟨0x90018, 1, 0x4, 1, false, 0x0, 0x0, false, 0x0⟩,
  ⟨0x9001c, 1, 0x4, 1, false, 0x0, 0x0, false, 0x0⟩,
  ⟨0x90020, 1, 0x4, 1, false, 0x0, 0x0, false, 0x0⟩,
  ⟨0x90024, 1, 0x4, 1, false, 0x0, 0x0, false, 0x0⟩,
  ⟨0x90028, 1, 0x4, 1, false, 0x0, 0x0, false, 0x0⟩,
  ⟨0x9002c, 1, 0x4, 1, false, 0x0, 0x0, false, 0x0⟩,
  ⟨0x90030, 1, 0x4, 1, false, 0x0, 0x0, false, 0x0⟩,
  ⟨0x90100, 1, 0x4, 1, false, 0x7, 0x0, false, 0x0⟩,
  ⟨0x90104, 1, 0x4, 1, false, 0x0, 0xc, false, 0x0⟩,
  ⟨0x90108, 1, 0x8, 2, true, 0xffffffffffffffff, 0x0, false, 0x0⟩,
  ⟨0x90110, 1, 0x4, 1, false, 0xffffffff, 0x0, false, 0x0⟩,
  ⟨0x90114, 1, 0x4, 1, false, 0x0, 0x0, false, 0x0⟩,
  ⟨0x90118, 1, 0x8, 2, true, 0x0, 0x0, false, 0x0⟩]

def chRows9 : List RegRow := [
  ⟨0xa0000, 1, 0x4, 1, false, 0x1, 0x0, false, 0x0⟩,
  ⟨0xa0008, 1, 0x8, 2, true, 0xffffffffffffffff, 0x0, false, 0x0⟩,
  ⟨0xa0010, 1, 0x4, 1, false, 0x1f, 0x0, false, 0x6⟩,
  ⟨0xa0020, 1, 0x4, 1, false, 0x0, 0x0, false, 0x0⟩,
  ⟨0xa0024, 1, 0x4, 1, false, 0x0, 0x0, false, 0x0⟩,
  ⟨0xa0028, 1, 0x4, 1, false, 0x0, 0x0, false, 0x0⟩,
  ⟨0xa002c, 1, 0x4, 1, false, 0x0, 0x0, false, 0x0⟩,
  ⟨0xa0030, 1, 0x4, 1, false, 0x0, 0x0, false, 0x0⟩,
  ⟨0xa0034, 1, 0x4, 1, false, 0x0, 0x0, false, 0x0⟩,
  ⟨0xa0038, 1, 0x4, 1, false, 0x0, 0x0, false, 0x0⟩,
  ⟨0xa003c, 1, 0x4, 1, false, 0x0, 0x0, false, 0x0⟩,
  ⟨0xb0000, 1, 0x4, 1, false, 0x0, 0x1c, false, 0x0⟩,
  ⟨0xb0004, 1, 0x4, 1, false, 0x0, 0x0, false, 0x0⟩,
  ⟨0xb0008, 1, 0x4, 1, false, 0x0, 0x0, false, 0x0⟩,
  ⟨0xb0010, 8, 0x4, 1, false, 0x3fff, 0x0, false, 0x0⟩,
  ⟨0xb0040, 1, 0x4, 1, false, 0xffffff, 0x0, false, 0xffffff⟩,
  ⟨0xb0100, 1, 0x4, 1, false, 0x7, 0x0, false, 0x2⟩,
  ⟨0xb0104, 1, 0x4, 1, false, 0x0, 0xc, false, 0x0⟩,
  ⟨0xb0108, 1, 0x4, 1, false, 0x3ff, 0x0, false, 0x60⟩,
  ⟨0xb010c, 1, 0x4, 1, false, 0x0, 0x0, false, 0x0⟩,
  ⟨0xb0110, 1, 0x4, 1, false, 0x0, 0x0, false, 0x0⟩,
  ⟨0xb0114, 1, 0x4, 1, false, 0x0, 0x0, false, 0x0⟩,
  ⟨0xb0118, 1, 0x4, 1, false, 0x0, 0x0, false, 0x0⟩,
  ⟨0xb011c, 1, 0x4, 1, false, 0x0, 0x0, false, 0x0⟩,
  ⟨0xb0120, 1, 0x4, 1, false, 0x0, 0x0, false, 0x0⟩]

def chRows10 : List RegRow := [
  ⟨0xb0124, 1, 0x4, 1, false, 0x0, 0x0, false, 0x0⟩,
  ⟨0xc0000, 1, 0x4, 1, false, 0x0, 0x0, false, 0x0⟩,
  ⟨0xc0008, 1, 0x8, 2, true, 0x0, 0x0, false, 0x0⟩,
  ⟨0xc0010, 1, 0x4, 1, false, 0xffffffff, 0x0, false, 0x0⟩,
  ⟨0xc0018, 1, 0x8, 2, true, 0x0, 0x0, false, 0x0⟩,
  ⟨0xc0020, 1, 0x8, 2, true, 0x0, 0x0, false, 0x0⟩,
  ⟨0xc0028, 1, 0x4, 1, false, 0x0, 0x0, false, 0x0⟩]

/-- The registers of a channel window. -/
def chRows : List RegRow := chRows0 ++ chRows1 ++ chRows2 ++ chRows3 ++ chRows4 ++ chRows5 ++ chRows6 ++ chRows7 ++ chRows8 ++ chRows9 ++ chRows10

def glRows0 : List RegRow := [
  ⟨0x3200000, 1, 0x8, 2, true, 0x0, 0x0, false, 0x0⟩,
  ⟨0x3200008, 1, 0x4, 1, false, 0x0, 0x0, false, 0x0⟩,
  ⟨0x320000c, 1, 0x4, 1, false, 0x0, 0x0, false, 0x0⟩,
  ⟨0x3200010, 1, 0x4, 1, false, 0x0, 0x0, false, 0x0⟩,
  ⟨0x3200014, 1, 0x4, 1, false, 0x0, 0x0, false, 0x0⟩,
  ⟨0x3200018, 1, 0x4, 1, false, 0x0, 0x0, false, 0x0⟩,
  ⟨0x320001c, 1, 0x4, 1, false, 0x0, 0x0, true, 0x0⟩,
  ⟨0x3200020, 1, 0x4, 1, false, 0x0, 0x1f, false, 0x0⟩,
  ⟨0x3200024, 1, 0x4, 1, false, 0x0, 0x0, false, 0x0⟩,
  ⟨0x3200028, 1, 0x4, 1, false, 0x0, 0x0, false, 0x0⟩,
  ⟨0x3200040, 8, 0x4, 1, false, 0xffff, 0x0, false, 0x0⟩,
  ⟨0x3200060, 1, 0x4, 1, false, 0x0, 0x0, false, 0x0⟩,
  ⟨0x3200080, 16, 0x4, 1, false, 0x1ff, 0x0, false, 0x0⟩,
  ⟨0x32000c0, 1, 0x8, 2, true, 0xffffffffffffffff, 0x0, false, 0x0⟩,
  ⟨0x32000c8, 1, 0x4, 1, false, 0xffffffff, 0x0, false, 0x0⟩,
  ⟨0x32000cc, 1, 0x4, 1, false, 0x0, 0x0, true, 0x0⟩,
  ⟨0x32000d0, 1, 0x4, 1, false, 0x0, 0xffffffff, false, 0x0⟩,
  ⟨0x32000d4, 1, 0x4, 1, false, 0xffffffff, 0x0, false, 0x0⟩,
  ⟨0x3300000, 1, 0x4, 1, false, 0x1, 0x0, false, 0x0⟩,
  ⟨0x3300004, 1, 0x4, 1, false, 0x0, 0x3c, false, 0x0⟩,
  ⟨0x3300008, 1, 0x4, 1, false, 0x0, 0x0, false, 0x0⟩,
  ⟨0x330000c, 1, 0x4, 1, false, 0x0, 0x0, false, 0x0⟩,
  ⟨0x3300010, 1, 0x8, 2, true, 0x0, 0x0, false, 0x0⟩,
  ⟨0x3300018, 1, 0x8, 2, true, 0x0, 0x0, false, 0x0⟩,
  ⟨0x3300020, 1, 0x8, 2, true, 0xfffffffff, 0x0, false, 0x11c71c71c⟩]

def glRows1 : List RegRow := [
  ⟨0x3300028, 1, 0x8, 2, true, 0xfffffffff, 0x0, false, 0x0⟩,
  ⟨0x3300030, 1, 0x8, 2, true, 0xffffffffffffffff, 0x0, false, 0x0⟩,
  ⟨0x3300038, 1, 0x8, 2, true, 0xffffffffffffffff, 0x0, false, 0x0⟩,
  ⟨0x3300040, 1, 0x4, 1, false, 0x3fffffff, 0x0, false, 0x0⟩,
  ⟨0x3300044, 1, 0x8, 2, true, 0xffffffffffff, 0x0, false, 0x0⟩,
  ⟨0x330004c, 1, 0x4, 1, false, 0x0, 0x0, true, 0x0⟩,
  ⟨0x3300050, 1, 0x4, 1, false, 0xfffff, 0x0, false, 0x186a0⟩,
  ⟨0x3300080, 1, 0x4, 1, false, 0x1f, 0x0, false, 0x0⟩,
  ⟨0x3300084, 1, 0x4, 1, false, 0x0, 0x2, false, 0x0⟩,
  ⟨0x3300088, 1, 0x8, 2, true, 0x0, 0x0, false, 0x0⟩,
  ⟨0x3300090, 1, 0x4, 1, false, 0xffffffff, 0x0, false, 0x186a0⟩,
  ⟨0x3300094, 1, 0x4, 1, false, 0xffff, 0x0, false, 0xf8f8⟩,
  ⟨0x3300100, 1, 0x4, 1, false, 0xffffffff, 0x0, false, 0x0⟩,
  ⟨0x3300104, 1, 0x4, 1, false, 0x0, 0x0, false, 0x0⟩,
  ⟨0x3300108, 1, 0x4, 1, false, 0x0, 0x1, false, 0x0⟩,
  ⟨0x330010c, 1, 0x4, 1, false, 0x0, 0x0, false, 0x0⟩,
  ⟨0x3300200, 16, 0x10, 4, false, 0x0, 0x0, false, 0x0⟩,
  ⟨0x3301000, 17, 0x20, 1, false, 0x7f, 0x0, false, 0x0⟩,
  ⟨0x3301004, 17, 0x20, 1, false, 0x0, 0x10, false, 0x0⟩,
  ⟨0x3301008, 17, 0x20, 1, false, 0x0, 0x0, false, 0x0⟩,
  ⟨0x330100c, 17, 0x20, 1, false, 0x0, 0x0, false, 0x0⟩,
  ⟨0x3301010, 17, 0x20, 2, true, 0x0, 0x0, false, 0x0⟩,
  ⟨0x3301018, 17, 0x20, 1, false, 0x0, 0x0, false, 0x0⟩,
  ⟨0x330101c, 17, 0x20, 1, false, 0x0, 0x0, true, 0x0⟩,
  ⟨0x3302000, 8, 0x40, 1, false, 0x3f, 0x0, false, 0x0⟩]

def glRows2 : List RegRow := [
  ⟨0x3302004, 8, 0x40, 1, false, 0x0, 0x4, false, 0x0⟩,
  ⟨0x3302008, 8, 0x40, 2, true, 0xffffffffffffffff, 0x0, false, 0x0⟩,
  ⟨0x3302010, 8, 0x40, 1, false, 0xffffffff, 0x0, false, 0x0⟩,
  ⟨0x3302014, 8, 0x40, 1, false, 0xffffffff, 0x0, false, 0x0⟩,
  ⟨0x3302018, 8, 0x40, 1, false, 0xffffffff, 0x0, false, 0x0⟩,
  ⟨0x330201c, 8, 0x40, 1, false, 0x0, 0x0, true, 0x0⟩,
  ⟨0x3302020, 8, 0x40, 1, false, 0x0, 0x0, false, 0x0⟩,
  ⟨0x3302024, 8, 0x40, 1, false, 0x0, 0x0, false, 0x0⟩,
  ⟨0x3340000, 2, 0x10000, 1, false, 0x1f, 0x0, false, 0x0⟩,
  ⟨0x3340004, 2, 0x10000, 1, false, 0x0, 0x8, false, 0x0⟩,
  ⟨0x3340008, 2, 0x10000, 2, true, 0xffffffffffff, 0x0, false, 0x0⟩,
  ⟨0x3340010, 2, 0x10000, 1, false, 0xffffffff, 0x0, false, 0x0⟩,
  ⟨0x3340014, 2, 0x10000, 1, false, 0xffffffff, 0x0, false, 0x0⟩,
  ⟨0x3340020, 2, 0x10000, 2, true, 0xffffffffffffffff, 0x0, false, 0x0⟩,
  ⟨0x3340028, 2, 0x10000, 1, false, 0x1f, 0x0, false, 0x6⟩,
  ⟨0x334002c, 2, 0x10000, 1, false, 0xffffffff, 0x0, false, 0x0⟩,
  ⟨0x3340030, 2, 0x10000, 1, false, 0x0, 0x0, false, 0x0⟩,
  ⟨0x3340040, 2, 0x10000, 2, true, 0xffffffffffffffff, 0x0, false, 0x0⟩,
  ⟨0x3340048, 2, 0x10000, 1, false, 0x1f, 0x0, false, 0x6⟩,
  ⟨0x334004c, 2, 0x10000, 1, false, 0xffffffff, 0x0, false, 0x0⟩,
  ⟨0x3340050, 2, 0x10000, 1, false, 0x0, 0x0, false, 0x0⟩,
  ⟨0x3340080, 2, 0x10000, 1, false, 0x0, 0x0, false, 0x0⟩,
  ⟨0x3340084, 2, 0x10000, 1, false, 0x0, 0x0, false, 0x0⟩,
  ⟨0x3340088, 2, 0x10000, 1, false, 0x0, 0x0, false, 0x0⟩,
  ⟨0x334008c, 2, 0x10000, 1, false, 0x0, 0x0, false, 0x0⟩]

def glRows3 : List RegRow := [
  ⟨0x3340090, 2, 0x10000, 1, false, 0x0, 0x0, false, 0x0⟩,
  ⟨0x3340094, 2, 0x10000, 1, false, 0x0, 0x0, false, 0x0⟩,
  ⟨0x3340098, 2, 0x10000, 1, false, 0x0, 0x0, false, 0x0⟩,
  ⟨0x334009c, 2, 0x10000, 1, false, 0x0, 0x0, false, 0x0⟩,
  ⟨0x3380000, 1, 0x4, 1, false, 0x1ffff, 0x0, true, 0x1ffff⟩,
  ⟨0x3380004, 1, 0x4, 1, false, 0x0, 0x1f0, false, 0xd⟩,
  ⟨0x3380008, 1, 0x4, 1, false, 0x0, 0x0, false, 0x0⟩,
  ⟨0x338000c, 1, 0x4, 1, false, 0x0, 0x0, false, 0x0⟩,
  ⟨0x3380010, 1, 0x4, 1, false, 0x0, 0x0, false, 0x0⟩,
  ⟨0x3380014, 1, 0x4, 1, false, 0x0, 0x0, false, 0x0⟩,
  ⟨0x3380018, 1, 0x4, 1, false, 0x0, 0x0, false, 0x0⟩,
  ⟨0x3380100, 16, 0x4, 1, false, 0x0, 0x0, false, 0x0⟩,
  ⟨0x3380140, 16, 0x4, 1, false, 0x0, 0x0, false, 0x0⟩,
  ⟨0x3380180, 16, 0x4, 1, false, 0x0, 0x0, false, 0x0⟩,
  ⟨0x3380200, 16, 0x40, 16, true, 0x0, 0x0, false, 0x0⟩,
  ⟨0x3381000, 64, 0x10, 4, false, 0x0, 0x0, false, 0x0⟩,
  ⟨0x33a0000, 16, 0x40, 1, false, 0x7, 0x0, false, 0x0⟩,
  ⟨0x33a0004, 16, 0x40, 1, false, 0x0, 0x78, false, 0x0⟩,
  ⟨0x33a0008, 16, 0x40, 1, false, 0x0, 0x0, false, 0x0⟩,
  ⟨0x33a000c, 16, 0x40, 1, false, 0x0, 0x0, false, 0x0⟩,
  ⟨0x33a0010, 16, 0x40, 1, false, 0x0, 0x0, false, 0x0⟩,
  ⟨0x33a0018, 16, 0x40, 2, true, 0x0, 0x0, false, 0x0⟩,
  ⟨0x33a0020, 16, 0x40, 1, false, 0xffffffff, 0x0, false, 0x4e20⟩,
  ⟨0x33a0024, 16, 0x40, 1, false, 0x0, 0x0, false, 0x0⟩,
  ⟨0x33a1000, 1, 0x4, 1, false, 0x0, 0x0, false, 0x0⟩]

def glRows4 : List RegRow := [
  ⟨0x33a1004, 1, 0x4, 1, false, 0xffffffff, 0x0, false, 0x3a980⟩,
  ⟨0x33a1008, 1, 0x4, 1, false, 0xffffffff, 0x0, false, 0x5f00640⟩,
  ⟨0x33c0000, 1, 0x4, 1, false, 0xffffffff, 0x0, false, 0x0⟩,
  ⟨0x33c0004, 1, 0x4, 1, false, 0x0, 0x0, true, 0x0⟩,
  ⟨0x33c0008, 1, 0x4, 1, false, 0x0, 0xe, false, 0x0⟩,
  ⟨0x33c0100, 1, 0x4, 1, false, 0x0, 0x0, true, 0x0⟩,
  ⟨0x33c0104, 1, 0x4, 1, false, 0x0, 0x6, false, 0x0⟩,
  ⟨0x33c0800, 1, 0x100, 64, false, 0xffffffff, 0x0, false, 0x0⟩,
  ⟨0x33c1000, 1, 0x400, 256, false, 0xffffffff, 0x0, false, 0x0⟩,
  ⟨0x33c2000, 1, 0x30, 12, false, 0xffffffff, 0x0, false, 0x0⟩,
  ⟨0x33c2040, 1, 0x4, 1, false, 0x0, 0x0, true, 0x0⟩,
  ⟨0x33c2044, 1, 0x4, 1, false, 0x0, 0xe, false, 0x0⟩,
  ⟨0x33c2100, 1, 0x190, 100, false, 0x0, 0x0, false, 0x0⟩,
  ⟨0x33e0000, 1, 0x40, 16, false, 0xffffffff, 0x0, false, 0x0⟩,
  ⟨0x33e0040, 1, 0x4, 1, false, 0x0, 0x0, false, 0x0⟩,
  ⟨0x33e0080, 1, 0x40, 16, false, 0x0, 0x0, false, 0x0⟩,
  ⟨0x33e00c0, 1, 0x4, 1, false, 0x0, 0x1, false, 0x0⟩]

/-- The registers of the common block. -/
def glRows : List RegRow := glRows0 ++ glRows1 ++ glRows2 ++ glRows3 ++ glRows4

/-- Whether a row holds the word at an offset. -/
def RegRow.has (r : RegRow) (off : Nat) : Bool :=
  decide (r.off ≤ off) && decide ((off - r.off) / r.stride < r.n) && decide ((off - r.off) % r.stride < 4 * r.words)

/-- The place of a word in its register: 0 for the first word. -/
def RegRow.word (r : RegRow) (off : Nat) : Nat := ((off - r.off) % r.stride) / 4

/-- The half of a mask or of a reset value that belongs to a word: the high half only for the high word of a pair. -/
def RegRow.part (r : RegRow) (off v : Nat) : Word :=
  if r.pair && r.word off % 2 == 1 then BitVec.ofNat 32 (v / 0x100000000) else BitVec.ofNat 32 v

/-- The row of a channel-window offset. -/
def chRow (off : Nat) : Option RegRow := chRows.find? (·.has off)

/-- The row of a BAR0 offset of the common block. -/
def glRow (off : Nat) : Option RegRow := glRows.find? (·.has off)

/-- The reset value of the channel register word at an offset. (DESIGN CHOICE, log entry 12.) -/
def chReset (off : Nat) : Word := match chRow off with | some r => r.part off r.reset | none => 0

/-- The reset value of the common-block register word at an offset. (DESIGN CHOICE, log entry 12.) -/
def glReset (off : Nat) : Word := match glRow off with | some r => r.part off r.reset | none => 0

end Sys2Proof.Machine
end

