-- ==== Sys2Proof/Machine/State.lean ====
section
/-!
DEFINITION. The state of the block: everything the manual gives the device, as plain data, and the
outcomes of a command. Memory-mapped registers are held in one sparse table per window (key: the
offset, value: the word, unlisted: the reset value of Machine/Regs.lean); state that no register
holds has fields of its own.
-/

namespace Sys2Proof.Machine

open Sys2Proof

/-! ## Sequencer and commands (chapter 02) -/

/-- The instruction a piece of engine work was started by: its program index and its word (R65). -/
structure Org where
  pc : BitVec 15
  word : Dword
deriving DecidableEq, Repr

/-- Why the sequencer holds an instruction without issuing it (R40, R42, R43, R47). -/
inductive Stall where
  | none
  | unit          -- the unit's queue is full, or what the instruction reads is not ready
  | merge         -- the bank's merge buffer is taken (R74)
  | wait          -- SYNC.WAIT
  | time (u : Dword)  -- SYNC.TIME, until the time base reaches u
  | bar           -- SYNC.BAR
  | fence         -- SYNC.FENCE
  | batch         -- SYNC.BATCH
deriving DecidableEq, Repr

/-- One entry of the repeat stack (R30, R41): iterations left, the present one included, and the body's bounds. -/
structure Rep where
  left : Nat
  first : BitVec 15
  last : BitVec 15
deriving DecidableEq, Repr

/-- The architectural state of a sequencer (R30), with the outstanding operations of each counter (R43), the
v registers an array has yet to write (R40, R139), and the instruction it holds while it stalls. -/
structure Seq where
  s : Vector Dword 32 := Vector.replicate 32 0
  a : Vector Dword 16 := Vector.replicate 16 0
  p : Vector Mask 8 := Vector.replicate 8 0
  v : Vector VReg 16 := Vector.replicate 16 (Vector.replicate 128 0)
  t : Vector (BitVec 16) 16 := Vector.replicate 16 0
  outst : Vector Nat 16 := Vector.replicate 16 0
  pc : BitVec 15 := 0
  calls : List (BitVec 15) := []
  reps : List Rep := []
  key : Dword := 0
  vpend : BitVec 16 := 0
  stall : Stall := .none
  held : Dword := 0
deriving DecidableEq, Repr

/-- Program memory (R36): words, error marks by index (1 correctable, 2 uncorrectable), loaded images (first, length). -/
structure PMem where
  words : Sparse Dword := []
  err : Sparse Nat := []
  images : List (Nat × Nat) := []
deriving DecidableEq, Repr

/-- A command record (R51), without its reserved bytes and its CRC. -/
structure Cmd where
  seq : Dword
  kind : Byte
  cls : Byte
  flags : BitVec 16
  prog : Dword
  arg : Dword
  deadline : Dword
  argLen : Word
  budget : Word
  out : Dword
deriving DecidableEq, Repr

/-- Where a running command came from: the host ring outside an Almanac slot, the host ring in the open Almanac entry,
or the entry's standing record `j` (R60, R333, R336). -/
inductive RunSrc where
  | ring
  | entry
  | standing (j : Nat)
deriving DecidableEq, Repr

/-- How far the command in the sequencer has come. -/
inductive Phase where
  | started    -- COMMAND_START done, its kind not yet performed
  | loading    -- THAW restores its image
  | running    -- a program issues
  | ended      -- BRANCH.END issued; its tokens are awaited (R58)
  | stopping   -- stopped by an exception, a cut or a budget; engine work drains (R66)
  | checker    -- stopped by a checker event; engine work drains (R416)
  | drained    -- after a checker event, its work drained
  | finished   -- waits for its commit (R58, R59)
deriving DecidableEq, Repr

/-- A command that has started: its record (a standing run's fields stand for one), where it came from, its phase, the
ac from its first issue edge and the ac it may take (0: no bound), what its completion record will hold (R54), what its
Barometer report will hold (R354: EST, LATE, entry, flags, frame, the last SYS.MARK and its ac), whether it is a retry,
whether it issued link work (R418), the HEAD and TAIL of its header's rings at its first issue edge (R417), whether its
Hail check has passed (R438), the THAW that brought it back (R351), the source and the fault record of its checker
event, the address of its standing report, its waits by cause once it has left the sequencer (R353), and whether a pending freeze
that met its checker event waits for its end (R352). -/
structure RunCmd where
  cmd : Cmd
  src : RunSrc := .ring
  phase : Phase := .started
  acs : Nat := 0
  limit : Nat := 0
  start : Dword := 0
  endT : Dword := 0
  epoch : Word := 0
  status : Byte := 0
  verdict : Byte := 0
  code : BitVec 16 := 0
  est : Nat := 0
  late : Nat := 0
  entry : Nat := 0xFFFF
  flags : BitVec 16 := 0
  frame : Word := 0
  mark : Word := 0
  markAc : Nat := 0
  retried : Bool := false
  linkWork : Bool := false
  ringSave : List (Nat × Word × Word) := []
  hailOk : Bool := false
  thaw : Option Cmd := none
  ckSrc : Byte := 0
  ckRec : Nat := 0
  rpt : Dword := 0
  stalls : List Word := []
  noFrz : Bool := false
deriving DecidableEq, Repr

/-- The state of an accepted command (R431): R431 gives every entry one and names no values; these follow its course.
(DESIGN CHOICE, log entry 39.) -/
inductive Stage where
  | accepted | started | finished | frozen
deriving DecidableEq, Repr

/-- An entry of the acceptance table (R431): the sequence number, the journal slot and the state. -/
structure Accept where
  seq : Dword
  slot : Nat
  stage : Stage := .accepted
deriving DecidableEq, Repr

/-- The command path of a channel: the index of the record being fetched and whether that read is its
second (R446), the record checked and being journalled, the
accepted commands that have not started, the command in the sequencer, the command of a kind that needs none, the
commands that wait for their commit, the acceptance table, the fault records whose retry the supervisor has decided, whether the host
has yet to read CH_SIG (R50), the commands and runs started (R419), the starts at the last eight transients, the tick
numbers of the last eight class S events (R420), the source code of the safe state, and when the last freeze was
taken (R348). -/
structure CmdSt where
  fetch : Option Nat := none
  again : Bool := false
  arrived : Option (Cmd × List Byte) := none
  accepted : List Cmd := []
  run : Option RunCmd := none
  side : Option RunCmd := none
  done : List RunCmd := []
  table : List Accept := []
  retry : List Nat := []
  sigUnread : Bool := false
  starts : Nat := 0
  trans : List Nat := []
  sTicks : List Word := []
  safeSrc : Byte := 0
  frzAt : Dword := 0
deriving DecidableEq, Repr

/-! ## Scratchpad, rings, accumulators, DRAM (chapter 03) -/

/-- A taken merge buffer of a bank (R74): bank, row, and the codewords it holds. -/
structure MergeBuf where
  bank : Nat
  row : Nat
  words : List Nat
deriving DecidableEq, Repr

/-- The scratchpad (R69 to R75): bytes, error marks by codeword (1 correctable, 2 uncorrectable), the taken
merge buffers, the Drizzle write-back queue (codeword numbers) and the next row of the sweep. -/
structure Spad where
  mem : Mem := []
  err : Sparse Nat := []
  merge : List MergeBuf := []
  drizzle : List Nat := []
  sweepRow : BitVec 13 := 0
deriving DecidableEq, Repr

/-- The accumulators of one array (R76): words by entry × 128 + column, error marks, and the Drizzle queue of entries. -/
structure Acc where
  mem : Sparse Word := []
  err : Sparse Nat := []
  drizzle : List Nat := []
deriving DecidableEq, Repr

/-- The engines that bind ring sides (R82). -/
inductive Eng where
  | front | dma | ma0 | ma1 | arrays | win | attn | scan | link | intake | servo | halo
deriving DecidableEq, Repr

/-- A ring descriptor (R79): the bindings of its two sides name the engine and count the instructions; `xp` and `xc`
say that the running command has bound its producer or consumer side (R417). -/
structure RingD where
  base : BitVec 25 := 0
  size : BitVec 26 := 0
  head : Word := 0
  tail : Word := 0
  valid : Bool := false
  live : Bool := false
  prod : Option (Eng × Nat) := none
  cons : Option (Eng × Nat) := none
  xp : Bool := false
  xc : Bool := false
deriving DecidableEq, Repr

/-- A burst in the DRAM controller's queue (R96): a read for a Front stream, half 0 or 1 of its step, or a write of bytes that came in
while a refresh held the queue (R500). -/
structure DramReq where
  stream : BitVec 4
  half : Bool
  addr : Nat
  data : Option (List Byte) := none
deriving DecidableEq, Repr

/-- The DRAM of a channel and its controller (R94 to R96, R499, R500): bytes, error marks by 32-byte half
(1 correctable, 2 uncorrectable), the request queue, the two check buffers (region numbers; the dirty words of the
write buffer), the fc until the refresh hold ends, rank 0's refreshes since the schedule began, the refresh interval in force
and the one from the next refresh of rank 0 on, and the fc on which each rank's next refresh falls. -/
structure Dram where
  mem : Mem := []
  err : Sparse Nat := []
  queue : List DramReq := []
  rbuf : Option Nat := none
  wbuf : Option Nat := none
  dirty : List Nat := []
  hold : Nat := 0
  refreshes : Nat := 0
  interval : Nat := 3510
  next : Nat := 3510
  due0 : Nat := 0
  due1 : Nat := 0
deriving DecidableEq, Repr

/-! ## Front and DMA engine (chapter 04) -/

/-- A MOVE.FRONT or MOVE.FCANCEL in the Front's queue (R97, R99). -/
structure FrontIns where
  cancel : Bool
  stream : BitVec 4
  tk : BitVec 4
  ring : BitVec 6
  src : Nat
  rem : Nat
  strided : Bool
  rowLen : Nat
  pitch : Nat
  org : Org
deriving DecidableEq, Repr

/-- A burst that the DRAM controller has read for the Front and that has not been taken in yet. -/
structure FrontRet where
  stream : BitVec 4
  half : Bool
  data : List Byte
  bad : Bool
deriving DecidableEq, Repr

/-- A Front stream (R97 to R107); `rest` is the last fc on which it had no request to make (R101). -/
structure FrontStream where
  busy : Bool := false
  cancelling : Bool := false
  tk : BitVec 4 := 0
  ctk : Option (BitVec 4) := none
  ring : BitVec 6 := 0
  src : Nat := 0
  rem : Nat := 0
  strided : Bool := false
  rowLen : Nat := 0
  rowLeft : Nat := 0
  pitch : Nat := 0
  claim : Word := 0
  infl : Nat := 0
  half : List Byte := []
  waste : Nat := 0
  abort : Bool := false
  rest : Nat := 0
  org : Org := ⟨0, 0⟩
deriving DecidableEq, Repr

/-- The Front. -/
structure Front where
  queue : List FrontIns := []
  streams : Vector FrontStream 16 := Vector.replicate 16 {}
  ret : List FrontRet := []
deriving DecidableEq, Repr

/-- A register set of a DMA context (R110): what MOVE.DMA or MOVE.PLIST loads, or the transfer of an ATTN.APPEND or ATTN.PAGE
(`att`, R225, R231). `no` is the instruction's place in issue order (R111). -/
structure DmaSet where
  no : Nat
  att : Bool
  plist : Bool
  src : Dword
  dst : Dword
  len : Dword
  pitch : Dword
  mod : BitVec 25
  ring : BitVec 6
  tk : BitVec 4
  org : Org
deriving DecidableEq, Repr

/-- How far a walk is with its next page or sequence entry (R119, R220): nothing presented, presented to the PTU, or landed with
this page-list entry. -/
inductive WalkSt where
  | idle | asked | ready (ent : Nat)
deriving DecidableEq, Repr

/-- A DMA context (R110): active and shadow sets, the set last loaded, the bytes written by the active transfer, where a walk
stands, the burst of 16 page-list entries it has read ahead with its address (R118), and after a drop the undefined reading of DMA_CTXn_STAT (R122). -/
structure DmaCtx where
  active : Option DmaSet := none
  shadow : Option DmaSet := none
  last : Option DmaSet := none
  done : Nat := 0
  walk : WalkSt := .idle
  ahead : Option (Nat × List Byte) := none
  undef : Option Word := none
deriving DecidableEq, Repr

/-- The DMA engine: its queue, contexts, the fc from which the next transfer may start (R111), the running context, whether
discarded reads are still returning, and whether an uncorrectable codeword has stopped the running transfer (R121). -/
structure Dma where
  queue : List (BitVec 3 × DmaSet) := []
  ctx : Vector DmaCtx 8 := Vector.replicate 8 {}
  gap : Nat := 0
  running : Option (BitVec 3) := none
  discarding : Bool := false
  stuck : Bool := false
deriving DecidableEq, Repr

/-! ## Matrix arrays (chapter 05) -/

/-- The ring sides an instruction has bound from its issue (R82), and whether one it names was invalid or another engine's. -/
structure Binds where
  cons : List (BitVec 6) := []
  prod : List (BitVec 6) := []
  bad : Bool := false
deriving DecidableEq, Repr

/-- An instruction in an array's queue or at work in it (R42, R128): its record once read (empty before), the vectors,
rows or outputs it has done, the ring bytes it has taken, the generator key at its issue (R161), whether it was left over by an
earlier command (R34), and the ring sides it has bound (R82). `no` is its place in issue order (R77). -/
structure ArrIns where
  opc : Byte
  mod : BitVec 10
  desc : Nat
  count : Nat
  unit : BitVec 2
  tk : BitVec 4
  org : Org
  no : Nat
  data : List Word := []
  rcd : List Byte := []
  i : Nat := 0
  pos : Nat := 0
  key : Dword := 0
  stale : Bool := false
  binds : Binds := {}
deriving DecidableEq, Repr

/-- A check window (R142 to R145): the place in issue order and the vectors of its TILE.MAC, its mode, and at close
the sums compared: Σ cc_v, s·c and M. -/
structure CheckWin where
  no : Nat
  n : Nat
  float : Bool
  cc : Word
  sc : Word
  m : Word
deriving DecidableEq, Repr

/-- A drain in the drain slot (R137): its shift table and bias vector for this array's columns, and, once it has read its entries,
the bytes of the outputs that this array forms, in entry order. -/
structure DrainSlot where
  ins : ArrIns
  shifts : List Byte := []
  biases : List Word := []
  outs : Option (List (List Byte)) := none
deriving DecidableEq, Repr

/-- An array (R124 to R147): its queue, the instruction at work, the drain slot; the stationary operands as codes by
row × 128 + column, with mode, codebook and extents; the checksum column (c, c′), the open window's sums (Σ cc, s, a),
and the windows that await their verdict. -/
structure Arr where
  queue : List ArrIns := []
  run : Option ArrIns := none
  slot : Option DrainSlot := none
  loaded : Bool := false
  mode : Nat := 0
  cbn : Nat := 0
  rows : Nat := 0
  cols : Nat := 0
  cb : List Byte := []
  w : Sparse (BitVec 16) := []
  ck : List Word := []
  ca : List Word := []
  cc : Word := 0
  sk : List Word := []
  ak : List Word := []
  wins : List CheckWin := []
deriving DecidableEq, Repr

/-- A ring that both arrays consume as one (R133): the instruction's place in issue order, the ring, its bytes, and
the bytes each array has read. -/
structure Joint where
  no : Nat
  ring : BitVec 6
  total : Nat
  pos0 : Nat
  pos1 : Nat
deriving DecidableEq, Repr

/-! ## Format D instructions in unit queues -/

/-- A format D instruction in a unit's queue: the address of its record, the record once the unit has taken it (empty
before), how many operations it presents, how many of them have been applied, and the fc its next was presented on.
`no` is its place in issue order, `vecs` the vectors of its check window so far, or the ring bytes of weights a CONV instruction has
taken, `freed` that it has left the state fence, and `binds` the ring sides it has bound (R82). Of a SCAN.STEP: the row it has
reached in its step, and the bytes of that row's input, its decays and its output that a ring has given or has yet to take. -/
structure DIns where
  opc : Byte
  mod : BitVec 10
  desc : Nat
  count : Nat
  tk : BitVec 4
  org : Org
  no : Nat := 0
  rcd : List Byte := []
  n : Nat := 0
  i : Nat := 0
  unit : BitVec 2 := 0
  vecs : Nat := 0
  freed : Bool := false
  fc : Nat := 0
  binds : Binds := {}
  row : Nat := 0
  ibuf : List Byte := []
  dbuf : List Byte := []
  obuf : List Byte := []
deriving DecidableEq, Repr

/-! ## Window generator (chapter 07) -/

/-- A halo ring (R201 to R205): its scratchpad ring, whether it is armed, the sender, the image rows and bytes per row, and
whether a CONV instruction is stalled on it. -/
structure Halo where
  ring : BitVec 6 := 0
  armed : Bool := false
  sch : BitVec 4 := 0
  sdev : BitVec 3 := 0
  next : Word := 0
  rowb : Word := 0
  first : Word := 0
  waiting : Bool := false
deriving DecidableEq, Repr

/-- The window generator (R175): its queue, its two slots and the halo rings. -/
structure Win where
  queue : List DIns := []
  slots : Vector (Option DIns) 2 := Vector.replicate 2 none
  halos : Vector Halo 4 := Vector.replicate 4 {}
deriving DecidableEq, Repr

/-! ## PTU and attention unit (chapter 08) -/

/-- A copy-on-write in flight (R218): page P, its copy Q, the address of the list entry, the source (1 attention unit,
2 PTU queue), and the fc its release step was presented on. -/
structure PtuCopy where
  p : Nat
  q : Nat
  entry : Nat
  src : Nat
  fc : Nat
deriving DecidableEq, Repr

/-- An operation that a walk presents (R119, R220, R231): a sequence-entry lookup (index, generation), a page's lookup, pin or
unpin (page-list entry). -/
inductive WalkKind where
  | seq (i gen : Nat)
  | look (ent : Nat)
  | pin (ent : Nat)
  | unpin (ent : Nat)
deriving DecidableEq, Repr

/-- A presented operation of a walk: its context and the fc it was presented on. -/
structure WalkOp where
  ctx : BitVec 3
  kind : WalkKind
  fc : Nat
deriving DecidableEq, Repr

/-- The PTU. Its descriptors, shift records, sequence entries and free ring lie in channel DRAM (R207 to R211). `walk` are
the operations the DMA engine has presented, the last on fc `wfc`; `wpins` are the pins of running walks, `lost` those of
dropped ones (R123): context and page-list entry. `insOps` lists how many
counting operations each instruction of the present command presents; `skipIns` and `discard` are what a
re-execution still has to discard of them (R227). -/
structure Ptu where
  queue : List DIns := []
  walk : List WalkOp := []
  wfc : Nat := 0
  copies : List PtuCopy := []
  releases : List PtuCopy := []
  insOps : List Nat := []
  skipIns : List Nat := []
  discard : Nat := 0
  wpins : List (Nat × Nat) := []
  lost : List (Nat × Nat) := []
deriving DecidableEq, Repr

/-- An ATTN.PAGE at work (R230 to R237). The unit: the entry and head reached (by their place in order), its first query
vector, the key block, the running maxima and sums of the query vectors, and the block's pages (format and ring bytes) once its
scores are streaming. The walk: the entry and head, whether its sequence entry has been looked up, the key block, the
tokens of it still to come, the page index, the bytes of the page written into the ring, and the formats of the pages in it. -/
structure PageRun where
  job : Nat := 0
  base : Nat := 0
  blk : Nat := 0
  rows : List (Word × Word) := []
  pages : Option (List (Nat × List Byte)) := none
  wjob : Nat := 0
  looked : Bool := false
  wblk : Nat := 0
  wtok : Nat := 0
  wpg : Nat := 0
  wpos : Nat := 0
  got : List Nat := []
deriving DecidableEq, Repr

/-- The attention unit: its queue, the ATTN.PAGE at work, and its table memory (R228): mask bitmap and length table by byte,
bias tables by table × 256 + entry. -/
structure Attn where
  queue : List DIns := []
  page : Option PageRun := none
  bitmap : Mem := []
  bias : Sparse Word := []
  lens : Mem := []
deriving DecidableEq, Repr

/-! ## SCAN datapath (chapter 09) -/

/-- A state slot (R242 to R245, R253): its state (0 EMPTY, 1 LIVE, 2 FROZEN, 3 LOST), array, first entry, rows, mode,
protection, committed side, generations, newest section, steps, and the point F of each row. `wrote` says that the
running command has written its entries, and `old` holds the points and steps of the committed side meanwhile. -/
structure Slot where
  state : Nat := 0
  array : Fin 2 := 0
  base : Nat := 0
  rows : Nat := 1
  mode : Nat := 0
  ckpt : Bool := false
  side : Bool := false
  gen : BitVec 16 := 0
  nextGen : BitVec 16 := 1
  faddr : Dword := 0
  steps : Dword := 0
  points : Sparse Byte := []
  wrote : Bool := false
  old : Option (Sparse Byte × Dword) := none
deriving DecidableEq, Repr

/-- The SCAN datapath: its queue, the state fence (R260) and the slots. -/
structure Scan where
  queue : List DIns := []
  fence : List DIns := []
  slots : Vector Slot 32 := Vector.replicate 32 {}
deriving DecidableEq, Repr

/-! ## Intake (chapter 10) -/

/-- The frame a raw stream receives or still writes out (R266 to R271, R291): whether one is open, whether its Frame End has
come, its stamp and counter, its input lines with the mark of those that R266 fills, the rows written of each level (as
values), the flags of its guard record, its damaged rows, the running CRCs of its input and of each level's output, the
next number for frames the intake numbers itself, and whether its embedded line has come. -/
structure Raw where
  active : Bool := false
  ended : Bool := false
  stamp : Dword := 0
  cam : Word := 0
  lines : List (List Byte × Bool) := []
  outs : List (List (List Nat)) := []
  flags : BitVec 16 := 0
  dmg : Option (Nat × Nat) := none
  crc : Word := 0xFFFFFFFF
  bytes : List (List Byte) := []
  overrun : Bool := false
  num : Word := 0
  emb : Bool := false
deriving DecidableEq, Repr

/-- A compressed frame in a stream's DRAM ring (R273 to R275): FRAME, TOTAL, CAPTURE, FCRC, the arrival stamp, its place and
reserved length, the byte ranges that have arrived (first, end), whether it is still open, and whether it has been
discarded. -/
structure CFrame where
  frame : Word
  total : Nat
  capture : Dword
  fcrc : Word
  stamp : Dword
  pos : Nat
  len : Nat
  got : List (Nat × Nat)
  isOpen : Bool
  gone : Bool
deriving DecidableEq, Repr

/-- A compressed stream: its frames in FRAME order with the ordinal of the first, the ring's head, the newest frame that is
no longer open, the frames dropped that are newer than it and those held or dropped that are not, the ordinal the next slot
takes, the ordinals to be dropped on arrival, the reference (frame buffer and counter) and its size as IN_Sn_SIZE gives it, and the frames the host has posted. -/
structure CStream where
  frames : List CFrame := []
  base : Nat := 0
  head : Nat := 0
  newest : Option Word := none
  dropped : List Word := []
  past : List Word := []
  next : Nat := 0
  drops : List Nat := []
  ref : Option (Nat × Word) := none
  refSize : Word := 0
  host : List Word := []
deriving DecidableEq, Repr

/-- How a slot resolved (R283, R291): its flags, the frame buffer its pixels come from, and the fields of its guard
record. -/
structure SlotRes where
  flags : BitVec 16
  buf : Option Nat
  cam : Word
  capture : Dword
  src : Word
  damage : Word
deriving DecidableEq, Repr

/-- A slot of a batch: its stream, sample index, the ordinal of its frame, its resolution, whether it is assembled. -/
structure BSlot where
  stream : Fin 2
  sample : BitVec 40
  ord : Nat
  res : Option SlotRes := none
  asm : Bool := false
deriving DecidableEq, Repr

/-- An outstanding batch (R281). -/
structure Batch where
  bid : Word
  deadline : Dword
  odst : Nat
  opitch : Nat
  gdst : Nat
  slots : List BSlot
deriving DecidableEq, Repr

/-- The intake: raw and compressed streams, outstanding batches in submission order, resolved slots in resolution order
(batch, slot), the slot being decoded and the fc it started on, the spans of fc in which the decoder was busy of late, and
the last 16 assembled batches with their flagged slots. -/
structure Intake where
  raw : Vector Raw 2 := Vector.replicate 2 {}
  comp : Vector CStream 2 := Vector.replicate 2 {}
  batches : List Batch := []
  resolved : List (Word × Nat) := []
  decode : Option (Word × Nat × Nat) := none
  busy : List (Nat × Nat) := []
  past : List (Word × Nat) := []
deriving DecidableEq, Repr

/-! ## Servo engine and drive link (chapter 11) -/

/-- A posted set-point (R298, R299): activation time, REF, AUX, whether the commit gates it, the sequence number or run
identifier of its command, and the fc on which it became eligible. -/
structure SetPoint where
  act : Dword
  ref : Word
  aux : Word
  gated : Bool
  owner : Dword
  el : Nat := 0
deriving DecidableEq, Repr

/-- The newest valid sample of an axis (R320, R321): its 32-byte record, its arrival stamp, the tick number in which it
was first used, and how many ticks had started then. -/
structure Sample where
  rcd : List Byte
  stamp : Dword
  tick : Word
  started : Nat
deriving DecidableEq, Repr

/-- An axis (R299, R304 to R309): its lists, the target (REF and AUX), the slewed set-point, the last OUT, the
integrators, the previous errors, whether it has ever been evaluated, the results of the last evaluation, whether that
finished in the present tick, the bits HELD, SAT and STALE of the last frame and the OUT it carried, the state of its
repetitive controller (0 off, 1 hold, 2 run, 3 clearing) and the state SERVO.LEARN has named for the next tick. -/
structure Axis where
  stage : List SetPoint := []
  pend : List SetPoint := []
  ref : Word := 0
  aux : Word := 0
  s : Word := 0
  out : Word := 0
  i : Vector Dword 4 := Vector.replicate 4 0
  ep : Vector Word 4 := Vector.replicate 4 0
  evald : Bool := false
  sel : Nat := 0
  ff : Word := 0
  held : Bool := false
  sat : Bool := false
  stale : Bool := false
  fin : Bool := false
  bits : BitVec 3 := 0
  sent : Word := 0
  smp : Option Sample := none
  rc : Nat := 0
  rcNext : Option Nat := none
deriving DecidableEq, Repr

/-- Where the engine stands within a tick (R296). With WAITS = 1 it may wait for a sample frame that has begun (R310): with the
axes whose datapath copies will disagree, or whose memories hold an uncorrectable error. -/
inductive TickPhase where
  | idle | started
  | waiting (cmp ecc : BitVec 16)
  | evaluated | handed
deriving DecidableEq, Repr

/-- The servo engine: its loop-table banks (bytes by bank offset), the active bank, whether the other is armed, the next
tick's instant in ns and number, how many ticks have started, the phase and start fc of the present tick, the fc on
which its evaluation ends, the sample frames not yet taken (bytes, stamp and the fc of their EOF), the frame last taken, the axes, the
learning tables (axis × 4096 + entry), and the ring its sample records are bound to. -/
structure Servo where
  banks : Vector Mem 2 := Vector.replicate 2 []
  active : Fin 2 := 0
  armed : Bool := false
  next : Option (Nat × Word) := none
  started : Nat := 0
  phase : TickPhase := .idle
  fc0 : Nat := 0
  evalEnd : Nat := 0
  arrived : List (List Byte × Dword × Nat) := []
  used : Option (List Byte × Dword) := none
  axes : Vector Axis 16 := Vector.replicate 16 {}
  learn : Sparse Word := []
  ring : Option (BitVec 6) := none
deriving DecidableEq, Repr

/-- The states of the drive link's training (R322). -/
inductive DrvState where
  | down | seek | locked | meas | ready | up
deriving DecidableEq, Repr

/-- The drive link: its training state, receive block lock, the token of the MEAS sent and how often it was resent, the
instant training began (2⁻³² ns), whether the next frame carries FIRST, the last command frame sent with its CRC,
the INVALID frames sent since the channel's safe state, and the STS block that followed the last frame. -/
structure Drv where
  state : DrvState := .down
  lock : Bool := false
  token : Word := 0
  tries : Nat := 0
  since : Nat := 0
  first : Bool := false
  frame : List Byte := []
  invalid : Nat := 0
  sts : List Byte := []
deriving DecidableEq, Repr

/-! ## Almanac, freeze (chapter 12) -/

/-- An Almanac (R326 to R343): its banks (bytes by bank offset), which hold accepted images, whether it runs, the bank
last active, the armed switch rule (0 next, 1 timed, 2 stop), the entry open or awaited and whether it is open, the first
boundary at which its gate was met and the planned instant the previous entry leaves it (ns), the first entry whose protected
boundary is still to be applied in this frame (R334), and each class's LINKB charge in this frame. -/
structure Almanac where
  banks : Vector Mem 2 := Vector.replicate 2 []
  loaded : Vector Bool 2 := Vector.replicate 2 false
  running : Bool := false
  active : Fin 2 := 1
  armed : Option Nat := none
  entry : Nat := 0
  isOpen : Bool := false
  gateMet : Option Nat := none
  plan : Nat := 0
  cut : Nat := 0
  linkb : Vector Nat 16 := Vector.replicate 16 0
deriving DecidableEq, Repr

/-- A frozen context (R346 to R349): the command, its sequencer and draw counters, the counters its image records
(register offset and value), the saved rings, the saved accumulator entries (array, entry), its state slots
with the offsets of their sections in the image, the slots the command had written (R253), the state of its engines, the
ring sides it had bound, the pins of its walks, its image (address, length), and what fills the image's header. -/
structure Frozen where
  run : Option RunCmd
  seq : Seq
  draws : Vector (BitVec 48) 3
  counts : List (Nat × Word)
  rings : List (Nat × RingD)
  accs : List (Fin 2 × Nat)
  slots : List (Nat × Nat)
  wrote : List (Nat × Slot)
  arrs : Vector Arr 2
  joint : List Joint
  front : Front
  dma : Dma
  win : Win
  attn : Attn
  scanQ : List DIns
  scanF : List DIns
  binds : List RingD
  insOps : List Nat
  wpins : List (Nat × Nat)
  skipIns : List Nat
  discard : Nat
  restore : List (Nat × Word)
  base : Nat
  len : Nat
deriving DecidableEq, Repr

/-! ## Links and cascade ports (chapter 13) -/

/-- What became of a block at its target (R19, R202, R370). -/
inductive Fate where
  | waiting | accepted | dropped
deriving DecidableEq, Repr

/-- A MOVE.RING or MOVE.HALO at work (R202, R370): the target channel and device, its open slot or halo ring, the first
image row, the bytes, the source address or ring, what became of it, the bytes that have left the source, the part of the
next cascade packet read so far. -/
structure Xfer where
  halo : Bool
  ch : Fin 16
  dev : Nat
  slot : Nat
  row : Nat
  len : Nat
  src : Nat
  ring : Option (BitVec 6)
  tk : BitVec 4
  org : Org
  fate : Fate := .waiting
  pos : Nat := 0
  buf : List Byte := []
deriving DecidableEq, Repr

/-- A collective (R377, R378): reduce-scatter or all-gather, in arrival order or not, tag, source and target addresses, B,
the address of its group descriptor; once started its rank, reduction, members and list CRC, and the ranks whose blocks
have landed, in order, with the blocks of a reduce-scatter. -/
structure Coll where
  rs : Bool
  arrival : Bool
  tag : BitVec 4
  src : Nat
  dst : Nat
  b : Nat
  desc : Nat
  tk : BitVec 4
  org : Org
  started : Bool := false
  rank : Nat := 0
  op : Nat := 0
  members : List Byte := []
  crc : BitVec 24 := 0
  got : List Nat := []
  vals : List (List Byte) := []
deriving DecidableEq, Repr

/-- A block of a collective on its way to a member of the same device (R377): the member, the sender's rank, the tag, the
kind, the list CRC, the bytes, the instruction that sent it, and whether it travels clockwise. -/
structure OutBlk where
  to_ : Fin 16
  rank : Nat
  tag : BitVec 4
  rs : Bool
  crc : BitVec 24
  data : List Byte
  org : Org
  right : Bool
deriving DecidableEq, Repr

/-- A packet on its way over the device ring (R20, R364): from a cascade port's stop to the stop of its target channel or
of the port it leaves by, or from the sender of a collective to its port. -/
structure Transit where
  pkt : Pkt
  to_ : Fin 16
deriving DecidableEq, Repr

/-- A channel's ring stop (R18 to R20, R368 to R379): transfers and collectives in issue order, the blocks of its
collectives on their way, the packets it has set out on the ring, the barrier its sequencer waits at (CNT, mask, arrival
fc), the packets that came by cascade and have reached it, the fc of the last credit return of each outgoing segment, and
the last fc on which the segment had no data waiting. -/
structure Links where
  xfers : List Xfer := []
  colls : List Coll := []
  outbox : List OutBlk := []
  transit : List Transit := []
  bar : Option (BitVec 16 × BitVec 16 × Nat) := none
  inbox : List Pkt := []
  credL : Nat := 0
  credR : Nat := 0
  restL : Nat := 0
  restR : Nat := 0
deriving DecidableEq, Repr

/-- The states of a cascade port's training (R376). -/
inductive CasState where
  | down | seek | locked | meas | ready | up
deriving DecidableEq, Repr

/-- A cascade port (R371 to R376): its training state, lane lock, the token of the MEAS sent and how often it was resent,
the instant training began (2⁻³² ns); the next PSEQ to send and to expect; the packets that wait to be sent, those sent
and not acknowledged with their resends and the instant they were sent, and those received and not delivered with
whether they came late; the credits the far end offered, returned and has been charged on each channel, and those returned to it;
the NAK that stands, the token of the last ECHO, the ALIGN count, and the instants of the last valid beat, of the last
credit, and since which packets have waited to be sent. -/
structure Cas where
  state : CasState := .down
  lock : Bool := false
  token : Word := 0
  tries : Nat := 0
  since : Nat := 0
  txSeq : BitVec 12 := 0
  rxSeq : BitVec 12 := 0
  txq : List Pkt := []
  unacked : List (Pkt × Nat × Nat) := []
  rxq : List (Pkt × Bool) := []
  init0 : Nat := 0
  init1 : Nat := 0
  ret0 : BitVec 16 := 0
  ret1 : BitVec 16 := 0
  used0 : BitVec 16 := 0
  used1 : BitVec 16 := 0
  back0 : BitVec 16 := 0
  back1 : BitVec 16 := 0
  nak : Option (BitVec 12) := none
  echo : Word := 0
  aligns : BitVec 16 := 0
  beat : Nat := 0
  credAt : Nat := 0
  waitAt : Nat := 0
deriving DecidableEq, Repr

/-! ## Time, network, CAN (chapter 14) -/

/-- The time base (R381): seconds, nanoseconds, and the fraction of a nanosecond. -/
structure TimeBase where
  sec : BitVec 48 := 0
  ns : BitVec 30 := 0
  frac : BitVec 32 := 0
deriving DecidableEq, Repr

/-- An armed timed change (R384): AT in ns, the addend and the step in ns it carries, and whether the PTP servo armed it
(R397). -/
structure Timed where
  at_ : Nat
  add : Option Dword
  step : Option Int
  ptp : Bool := false
deriving DecidableEq, Repr

/-- What the next fc of the time base brings (R384): the value set, or the step added; the armed change; the time base
of the fc before; the addend of a barrier packet and the ADDEND packets not yet taken (R385); the fc of the master's
last GLB_SYNC_ARM write, the level of SYNC_OUT, the fc on which SYNC_IN was sampled high and whether that barrier has
been applied (R366); the calibrated addend; and the end of the PPS_OUT pulse (R390). Instants in 2⁻³² ns. -/
structure TimeCtl where
  set : Option (BitVec 48 × BitVec 30) := none
  step : Int := 0
  timed : Option Timed := none
  last : TimeBase := {}
  barAdd : Option Dword := none
  adds : List (List Byte) := []
  armAt : Option Nat := none
  syncOut : Bool := false
  syncAt : Option Nat := none
  applied : Bool := false
  calAdd : Nat := 4772185884
  pps : Option Nat := none
deriving DecidableEq, Repr

/-- An entry of a capture FIFO (R386, R387): the stamp's short time and fraction, and whether the edge rose. -/
structure CapEntry where
  t : Dword
  frac : Word
  rising : Bool
deriving DecidableEq, Repr

/-- A trigger schedule (R389), in ns, the index of its next pulse, and its POL. -/
structure Sched where
  start : Nat
  period : Nat
  width : Nat
  count : Nat
  k : Nat := 0
  pol : Bool := false
deriving DecidableEq, Repr

/-- A trigger output: the schedule that runs, the armed one that takes over at its START, the end of the pulse in
progress (2⁻³² ns), and the POL of the schedule that last took over, none before the first. -/
structure Trg where
  run : Option Sched := none
  next : Option Sched := none
  pulse : Option Nat := none
  pol : Option Bool := none
deriving DecidableEq, Repr

/-- The supervisor's PTP (R396, R397): consecutive offsets below 100 ns, whether the servo holds until RESTEP, and the priority
vector of the newest Announce of each port (system identity, steps removed, source port). -/
structure Ptp where
  good : Nat := 0
  hold : Bool := false
  heard : Vector (Option Nat) 2 := Vector.replicate 2 none
deriving DecidableEq, Repr

/-- A posted CAN message (R403, R404): its record, the token and instruction that wait for its fate, whether it has begun,
whether it waits for its slot's next opening, whether the slot has closed on it, and whether its command is frozen. -/
structure CanMsg where
  rcd : List Byte
  tok : Option (BitVec 4 × Org)
  begun : Bool := false
  wait : Bool := false
  closed : Bool := false
  frz : Bool := false
deriving DecidableEq, Repr

/-- A slot that holds messages: the slot, its message, and the one held behind a message that has begun. -/
structure CanSlot where
  slot : Nat
  cur : CanMsg
  next : Option CanMsg := none
deriving DecidableEq, Repr

/-- A bus controller (R398 to R409): the slots that hold messages, the absolute number of the open slot, what is in a
frame on the bus (none of the slots: the safe message), whether bus-off lasts, whether the safe message is due,
and whether the receive errors have made it error-passive (R401). -/
structure Can where
  slots : List CanSlot := []
  opened : Option Nat := none
  frame : Option (Option Nat) := none
  off : Bool := false
  safe : Bool := false
  recPass : Bool := false
deriving DecidableEq, Repr

/-! ## Safety (chapter 15) -/

/-- A latched checker event that awaits the supervisor's decision (R415): its channel (none: the common block), its
source, the fc of the latch, the number of its fault record, and whether a command or standing run of
its channel was stopped by it. -/
structure Latched where
  ch : Option (Fin 16)
  src : Byte
  at_ : Nat
  rcd : Nat
  stopped : Bool
deriving DecidableEq, Repr

/-! ## Host port, boot, power (chapter 16) -/

/-- A channel's power control (R471 to R475): the last request that was not refused; the point a change in progress goes
to and whether the edge pattern has changed; the highest points that temperature, current and device power allow; the
consecutive samples at or above TH_HI; the fc since which the temperature, the current and the device power have been low
enough to lift; the energy below 1 mJ, in nJ; and the core voltage that the supervisor has set, in mV. -/
structure Pwr where
  req : Nat := 0
  change : Option Nat := none
  applied : Bool := false
  capT : Nat := 0
  capC : Nat := 0
  capP : Nat := 0
  hot : Nat := 0
  coolAt : Option Nat := none
  ampAt : Option Nat := none
  lowAt : Option Nat := none
  nJ : Nat := 0
  mv : Int := 0
deriving DecidableEq, Repr

/-- The supervisor and what it keeps (R456 to R470): the flash (complemented bytes by address, so that an erased byte is
unlisted), the OTP's floor and serial, the flash command and the calibration command at work (operation, address), whether
a report is being signed, the messages that wait for MBX_S2H, the unread records of the event log, the start's duration in
µs and the step at which each channel's start failed, the calibration record applied, whether the part stays in Calm mode,
whether CALM_REQ asks for it, whether a start has begun since the reset, whether VDD_AON has been lost since, whether
VDD_COM is off, whether the function is in D3hot, the packets that supervisors of other devices have sent it (R372), the board
record applied (R470), the part's fused voltage offset in mV (R471), and the port's uncorrectable error status (R447). -/
structure Sup where
  flash : Mem := []
  floor : BitVec 16 := 0
  serial : List Byte := List.replicate 16 0
  flashRun : Option (Nat × Nat) := none
  calRun : Option Nat := none
  attRun : Bool := false
  out : List (List Byte) := []
  log : List (List Byte) := []
  startUs : Word := 0
  steps : List Byte := List.replicate 16 0
  calUsed : List Byte := []
  calm : Bool := false
  calmReq : Bool := false
  begun : Bool := false
  aonLost : Bool := false
  comOff : Bool := false
  d3hot : Bool := false
  pkts : List Pkt := []
  board : List Byte := []
  offset : Int := 0
  aer : Word := 0
deriving DecidableEq, Repr

/-! ## The channel, the device, the outcomes -/

/-- A channel. `latch` and `stage` are the read latches and the staging words of its register pairs on the host's path,
`ownLatch` and `ownStage` those on its own SYS.CSR path (R11), by the offset of the low word; a latch or staging word
that is empty is not listed, and a listed one holds its word plus 2³². `issued` numbers the instructions that reach engine queues, in issue order. `restore` holds the values
that registers written through SYS.CSR for the rest of a command take again at its end (R151). `odd` says that an odd
number of ac edges has been delivered since the channel started running, so that the next is no issue edge (R38). `hostWr` lists the
offsets of the registers that the host has written on this fc (R451). -/
structure Channel where
  regs : Sparse Word := []
  latch : Sparse Nat := []
  stage : Sparse Nat := []
  ownLatch : Sparse Nat := []
  ownStage : Sparse Nat := []
  fenced : Bool := false
  seq : Seq := {}
  pm : PMem := {}
  cmd : CmdSt := {}
  spad : Spad := {}
  acc : Vector Acc 2 := Vector.replicate 2 {}
  rings : Vector RingD 64 := Vector.replicate 64 {}
  dram : Dram := {}
  front : Front := {}
  dma : Dma := {}
  ptu : Ptu := {}
  attn : Attn := {}
  arrs : Vector Arr 2 := Vector.replicate 2 {}
  scan : Scan := {}
  win : Win := {}
  joint : List Joint := []
  issued : Nat := 0
  restore : List (Nat × Word) := []
  raised : List Byte := []
  aside : List Byte := []
  servo : Servo := {}
  drv : Drv := {}
  alm : Almanac := {}
  frz : Option Frozen := none
  link : Links := {}
  cas : Cas := {}
  can : Can := {}
  intake : Intake := {}
  draws : Vector (BitVec 48) 3 := Vector.replicate 3 0
  odd : Bool := false
  hostWr : List Nat := []
deriving DecidableEq, Repr

/-- How the host port completed a request (R445 to R450). -/
inductive RStat where
  | ok | poisoned | abort | unsupported | retry
deriving DecidableEq, Repr

/-- The last completion the host port returned: its status and its data. -/
structure Answer where
  stat : RStat
  data : List Byte
deriving DecidableEq, Repr

/-- The state of the block. `latch` and `stage` are those of the common block's register pairs (R11), as in a channel;
`answer` is the last completion that went to the host, `bar4W` the size of a BAR4 window. `pending` is the queue of the commands that wait, first in, first out. `free` is the model's
own: it counts the free values drawn so far. (DESIGN CHOICE, log entries 4 and 5.) -/
structure State where
  chans : Vector Channel 16 := Vector.replicate 16 {}
  regs : Sparse Word := []
  latch : Sparse Nat := []
  stage : Sparse Nat := []
  answer : Option Answer := none
  bar4W : Nat := 0x200000000
  time : TimeBase := {}
  tc : TimeCtl := {}
  tcap : Vector (List CapEntry) 17 := Vector.replicate 17 []
  trg : Vector Trg 8 := Vector.replicate 8 {}
  ptp : Ptp := {}
  fc : Nat := 0
  hostMem : Mem := []
  msix : Sparse Word := []
  pba : Dword := 0
  latched : List Latched := []
  safeDue : List (Fin 16 × Byte) := []
  devDue : Option Byte := none
  sqLevel : Bool := false
  sqAt : Nat := 0
  linkFc : Nat := 0
  barred : Bool := false
  pwr : Vector Pwr 16 := Vector.replicate 16 {}
  sup : Sup := {}
  free : Nat := 0
  pending : List Instr := []
deriving DecidableEq, Repr

/-- The faults: none. No command of this block stops the machine. -/
inductive Fault where
  /-- Raised by no command: the manual stops the machine nowhere. Safe. -/
  | none
deriving DecidableEq, Repr

/-- The refusals. -/
inductive Refusal where
  /-- Raised by an arm of exec that has no meaning yet, with the row's mnemonic. Safe. -/
  | notModelled (mnemonic : String)
deriving DecidableEq, Repr

/-- The state right after reset. (DESIGN CHOICE, log entry 12.) -/
def State.reset : State := {}

end Sys2Proof.Machine
end

