-- ==== Sys2Proof/Machine/Ops.lean ====
section
/-!
DEFINITION. The shared operations over the state: registers, interrupts, memories with their error correction,
rings, token counters, exceptions, and the issue of an instruction.
-/

namespace Sys2Proof.Machine

open Sys2Proof

/-- The answer of a command. -/
abbrev Out := Host.Outcome State Fault Refusal

/-! ## Channels and registers -/

/-- Channel `c`. -/
def State.chan (s : State) (c : ChId) : Channel := s.chans.get c

/-- Replaces channel `c`. -/
def State.setChan (s : State) (c : ChId) (x : Channel) : State := { s with chans := s.chans.set c.val x c.isLt }

/-- Changes channel `c`. -/
def State.modChan (s : State) (c : ChId) (f : Channel → Channel) : State := s.setChan c (f (s.chan c))

/-- The stored word of a channel register. -/
def Channel.reg (x : Channel) (o : Nat) : Word := sget (chReset o) x.regs o

/-- Stores a channel register word. -/
def Channel.setReg (x : Channel) (o : Nat) (v : Word) : Channel := { x with regs := sset (chReset o) x.regs o v }

/-- The stored 64-bit quantity of a channel register pair. -/
def Channel.reg64 (x : Channel) (o : Nat) : Dword := x.reg (o + 4) ++ x.reg o

/-- Stores a channel register pair. -/
def Channel.setReg64 (x : Channel) (o : Nat) (v : Dword) : Channel :=
  (x.setReg o (v.extractLsb' 0 32)).setReg (o + 4) (v.extractLsb' 32 32)

/-- Sets bits of a channel register. -/
def Channel.orReg (x : Channel) (o : Nat) (v : Word) : Channel := x.setReg o (x.reg o ||| v)

/-- Clears bits of a channel register. -/
def Channel.clrReg (x : Channel) (o : Nat) (v : Word) : Channel := x.setReg o (x.reg o &&& ~~~v)

/-- Advances a counter that stops at 0xFFFF_FFFF. -/
def Channel.bump (x : Channel) (o n : Nat) : Channel := x.setReg o (satAdd32 (x.reg o) n)

/-- Advances a counter that wraps. -/
def Channel.inc (x : Channel) (o n : Nat) : Channel := x.setReg o (x.reg o + BitVec.ofNat 32 n)

/-- Advances a 64-bit counter. -/
def Channel.inc64 (x : Channel) (o n : Nat) : Channel := x.setReg64 o (x.reg64 o + BitVec.ofNat 64 n)

/-- One bit of a channel register. -/
def Channel.bit (x : Channel) (o k : Nat) : Bool := (x.reg o).getLsbD k

/-- The stored word of a common-block register. -/
def State.reg (s : State) (o : Nat) : Word := sget (glReset o) s.regs o

/-- Stores a common-block register word. -/
def State.setReg (s : State) (o : Nat) (v : Word) : State := { s with regs := sset (glReset o) s.regs o v }

/-- The stored 64-bit quantity of a common-block register pair. -/
def State.reg64 (s : State) (o : Nat) : Dword := s.reg (o + 4) ++ s.reg o

/-- Stores a common-block register pair. -/
def State.setReg64 (s : State) (o : Nat) (v : Dword) : State :=
  (s.setReg o (v.extractLsb' 0 32)).setReg (o + 4) (v.extractLsb' 32 32)

/-- Sets bits of a common-block register. -/
def State.orReg (s : State) (o : Nat) (v : Word) : State := s.setReg o (s.reg o ||| v)

/-- Clears bits of a common-block register. -/
def State.clrReg (s : State) (o : Nat) (v : Word) : State := s.setReg o (s.reg o &&& ~~~v)

/-- Advances a common-block counter that wraps. -/
def State.inc (s : State) (o n : Nat) : State := s.setReg o (s.reg o + BitVec.ofNat 32 n)

/-- Advances a common-block counter that stops at 0xFFFF_FFFF. -/
def State.bump (s : State) (o n : Nat) : State := s.setReg o (satAdd32 (s.reg o) n)

/-- One bit of a common-block register. -/
def State.bit (s : State) (o k : Nat) : Bool := (s.reg o).getLsbD k

/-- The point in force of a channel: 0 P0, 1 P1, 2 P2, 3 park. -/
def State.point (s : State) (c : ChId) : Nat := getField (s.reg (PWR_STAT c.val)) 1 0

/-- Whether a channel is in the live mask. -/
def State.live (s : State) (c : ChId) : Bool := s.bit GLB_CHLIVE c.val

/-- Whether a channel has no edges, so that none of its units run and its pins are inert: it is parked (R24), or it is out
of the live mask, its core without power (R4, R430). -/
def State.parked (s : State) (c : ChId) : Bool := s.point c == 3 || !s.live c

/-! ## Host memory and interrupts (R58, R63, R445) -/

/-- A posted write to host memory. -/
def State.hostWrite (s : State) (a : Nat) (bs : List Byte) : State := { s with hostMem := wrBytes s.hostMem a bs }

/-- A word of the MSI-X table. An entry nothing has written is masked. -/
def State.msixWord (s : State) (o : Nat) : Word := sget (if o % 16 == 12 then 1 else 0) s.msix o

/-- Signals MSI-X vector `v`: the message of its table entry is posted, or its pending bit is set while it is masked. -/
def State.signal (s : State) (v : Nat) : State :=
  if (s.msixWord (16 * v + 12)).getLsbD 0 then { s with pba := setBit s.pba v true }
  else s.hostWrite ((s.msixWord (16 * v)).toNat + 0x100000000 * (s.msixWord (16 * v + 4)).toNat)
         (leBytes 4 (s.msixWord (16 * v + 8)).toNat)

/-- A cause of a common-block vector, 32 to 63: pending in GLB_IRQ_STAT, and signalled, when enabled, as it goes from
0 to 1 (R455). -/
def State.cause (s : State) (v : Nat) : State :=
  if s.bit GLB_IRQ_STAT (v - 32) then s
  else
    let s := s.orReg GLB_IRQ_STAT (BitVec.ofNat 32 (2 ^ (v - 32)))
    if s.bit GLB_IRQ_EN (v - 32) then s.signal v else s

/-- Sets error bits of CH_STATUS, signalling vector 2n + 1 when CH_CTRL.ERR_IRQ_EN is 1 (R63). -/
def State.chError (s : State) (c : ChId) (bits : Word) : State :=
  let s := s.modChan c (fun x => x.orReg CH_STATUS bits)
  if (s.chan c).bit CH_CTRL 2 then s.signal (2 * c.val + 1) else s

/-- Raises a checker event: it awaits its latch (R413). -/
def Channel.raise (x : Channel) (src : Byte) : Channel := { x with raised := x.raised ++ [src] }

/-! ## Scratchpad (R70 to R75) -/

/-- Counts a corrected codeword and queues it for Drizzle (R73, R75). -/
def Channel.spadCorrected (x : Channel) (w : Nat) : Channel :=
  let x := (x.bump SPAD_CE_COUNT 1).setReg SPAD_CE_ADDR (BitVec.ofNat 32 (16 * w))
  if x.bit SPAD_SCRUB 31 then
    if x.spad.drizzle.contains w then x
    else if x.spad.drizzle.length < 16 then { x with spad := { x.spad with drizzle := x.spad.drizzle ++ [w] } }
    else x.bump SPAD_DZ_DROP 1
  else x

/-- Records an uncorrectable codeword and raises checker event 0x04 (R73). -/
def Channel.spadBad (x : Channel) (w : Nat) : Channel :=
  (x.setReg SPAD_UE_ADDR (BitVec.ofNat 32 (16 * w))).raise 0x04

/-- What decoding the marked codewords does, in ascending order; answers whether one was uncorrectable.
(DESIGN CHOICE, log entry 29.) -/
def Channel.spadDecode (x : Channel) : List (Nat × Nat) → Channel × Bool
  | [] => (x, false)
  | (w, k) :: r =>
    let x := if k == 2 then x.spadBad w else x.spadCorrected w
    let q := Channel.spadDecode x r
    (q.1, k == 2 || q.2)

/-- Reads `n` bytes of scratchpad: only the codewords that hold them are decoded (R73). -/
def Channel.spadRead (x : Channel) (a n : Nat) : List Byte × Channel × Bool :=
  let q := x.spadDecode (x.spad.err.filter (fun e => a / 16 ≤ e.1 && e.1 * 16 < a + n))
  (rdBytes x.spad.mem a n, q.1, q.2)

/-- Writes the given bytes of a run, leaving the others. -/
def wrSome (m : Mem) (a : Nat) : List (Option Byte) → Mem
  | [] => m
  | none :: r => wrSome m (a + 1) r
  | some b :: r => wrSome (wr8 m a b) (a + 1) r

/-- How many bytes of codeword `w` a masked run from `a` covers. -/
def covered (a : Nat) (bs : List (Option Byte)) (w : Nat) : Nat :=
  ((List.range 16).filter (fun j => a ≤ 16 * w + j && (bs.getD (16 * w + j - a) none).isSome && 16 * w + j - a < bs.length)).length

/-- One bank write access (R74): a run inside one row. A partly covered codeword makes it a partial write, which reads
and corrects the partial codewords first; an uncorrectable one leaves the whole access unwritten. `hold` keeps the
bank's merge buffer taken until the write-back slot. -/
def Channel.spadWriteRow (x : Channel) (a : Nat) (bs : List (Option Byte)) (hold : Bool) : Channel × Bool :=
  let ws := (List.range 8).map (fun j => a / 128 * 8 + j)
  let touched := ws.filter (fun w => covered a bs w != 0)
  let part := touched.filter (fun w => covered a bs w != 16)
  let q := x.spadDecode (x.spad.err.filter (fun e => part.contains e.1))
  if q.2 then (q.1, false)
  else
    let x := q.1
    let sp := x.spad
    let merge := if hold && !part.isEmpty then sp.merge ++ [⟨a / 128 % 32, a / 4096, touched⟩] else sp.merge
    ({ x with spad := { sp with
        mem := wrSome sp.mem a bs
        err := sp.err.filter (fun e => !touched.contains e.1)
        drizzle := sp.drizzle.filter (fun w => !touched.contains w)
        merge := merge } }, true)

/-- A masked write of any extent, cut into rows; answers whether every access was written. -/
def Channel.spadWriteRows (hold : Bool) : Nat → Channel → Nat → List (Option Byte) → Channel × Bool
  | 0, x, _, _ => (x, true)
  | fuel + 1, x, a, bs =>
    if bs.isEmpty then (x, true)
    else
      let n := 128 - a % 128
      let q := x.spadWriteRow a (bs.take n) hold
      let r := Channel.spadWriteRows hold fuel q.1 (a + n) (bs.drop n)
      (r.1, q.2 && r.2)

/-- A masked scratchpad write that leaves its merge buffers taken (R74). -/
def Channel.spadWriteHold (x : Channel) (a : Nat) (bs : List (Option Byte)) : Channel × Bool :=
  Channel.spadWriteRows true (bs.length + 1) x a bs

/-- A scratchpad write by an engine: both slots of its partial writes are done when it completes. -/
def Channel.spadWrite (x : Channel) (a : Nat) (bs : List Byte) : Channel :=
  (Channel.spadWriteRows false (bs.length + 1) x a (bs.map some)).1

/-- Whether a masked run would be a partial write to a bank whose merge buffer is taken (R74). -/
def Channel.mergeBusy (x : Channel) (a : Nat) (bs : List (Option Byte)) : Bool :=
  ((List.range (bs.length / 16 + 2)).map (fun j => a / 16 + j)).any (fun w =>
    let k := covered a bs w
    k != 0 && k != 16 && x.spad.merge.any (fun m => m.bank == w / 8 % 32))

/-! ## DRAM (R94 to R96, R499) -/

/-- The first DRAM address that raises DRAM_RANGE. -/
def Channel.dramTop (x : Channel) : Nat := (x.reg64 DRAM_TOP).toNat

/-- The check buffers on a data read of one region (R499). -/
def Dram.touchRead (d : Dram) (region burst : Nat) : Dram :=
  if d.wbuf == some region && d.dirty.contains burst then d
  else { d with rbuf := some region }

/-- The check buffers on a data write of one burst (R499). -/
def Dram.touchWrite (d : Dram) (region burst : Nat) : Dram :=
  if d.wbuf == some region then { d with dirty := if d.dirty.contains burst then d.dirty else d.dirty ++ [burst] }
  else { d with wbuf := some region, dirty := [burst] }

/-- The check buffers over consecutive bursts. -/
def Dram.touchRun (d : Dram) (wr : Bool) (burst : Nat) : Nat → Dram
  | 0 => d
  | n + 1 => Dram.touchRun (if wr then d.touchWrite (burst / 16) (burst % 16) else d.touchRead (burst / 16) (burst % 16)) wr (burst + 1) n

/-- What decoding the marked halves does (R95); answers whether one was uncorrectable. -/
def Channel.dramDecode (x : Channel) : List (Nat × Nat) → Channel × Bool
  | [] => (x, false)
  | (h, k) :: r =>
    let x := if k == 2 then (x.setReg64 DRAM_UE_ADDR (BitVec.ofNat 64 (32 * h))).raise 0x07
             else (x.bump DRAM_CE_COUNT 1).setReg64 DRAM_CE_ADDR (BitVec.ofNat 64 (32 * h))
    let q := Channel.dramDecode x r
    (q.1, k == 2 || q.2)

/-- Reads `n` bytes of DRAM in 64-byte bursts. -/
def Channel.dramRead (x : Channel) (a n : Nat) : List Byte × Channel × Bool :=
  if n == 0 then ([], x, false)
  else
    let b0 := a / 64
    let b1 := (a + n - 1) / 64
    let q := x.dramDecode (x.dram.err.filter (fun e => 2 * b0 ≤ e.1 && e.1 ≤ 2 * b1 + 1))
    let y := q.1
    (rdBytes x.dram.mem a n, { y with dram := y.dram.touchRun false b0 (b1 + 1 - b0) }, q.2)

/-- The merge read of an end burst (R95, R499): decoded half by half, through the check buffers. -/
def Channel.dramMerge (x : Channel) (b : Nat) : Channel × Bool :=
  let q := x.dramDecode (x.dram.err.filter (fun e => e.1 / 2 == b))
  let y := q.1
  ({ y with dram := y.dram.touchRead (b / 16) (b % 16) }, q.2)

/-- One burst of a write: a burst covered in part is read and merged first, and an uncorrectable half leaves it as it was. -/
def Channel.dramWriteBurst (x : Channel) (a : Nat) (bs : List Byte) : Channel :=
  let b := a / 64
  let q := if bs.length == 64 then (x, false) else x.dramMerge b
  if q.2 then q.1
  else
    let y := q.1
    { y with dram := { y.dram.touchWrite (b / 16) (b % 16) with
        mem := wrBytes y.dram.mem a bs
        err := y.dram.err.filter (fun e => e.1 / 2 != b) } }

/-- A DRAM write of any extent, cut into bursts. -/
def Channel.dramWriteRun : Nat → Channel → Nat → List Byte → Channel
  | 0, x, _, _ => x
  | fuel + 1, x, a, bs =>
    if bs.isEmpty then x
    else Channel.dramWriteRun fuel (x.dramWriteBurst a (bs.take (64 - a % 64))) (a + (64 - a % 64)) (bs.drop (64 - a % 64))

/-- A DRAM write. -/
def Channel.dramWrite (x : Channel) (a : Nat) (bs : List Byte) : Channel := Channel.dramWriteRun (bs.length + 1) x a bs

/-- The DRAM controller serves the first burst of its queue (R96): a read with its check word, corrected, and handed to
the Front; or a write. -/
def Channel.dramServe (x : Channel) (q : DramReq) (r : List DramReq) : Channel :=
  let x := { x with dram := { x.dram with queue := r } }
  match q.data with
  | some bs => x.dramWrite q.addr bs
  | none =>
    let t := x.dramRead q.addr 64
    let y := t.2.1
    { y with front := { y.front with ret := y.front.ret ++ [⟨q.stream, q.half, t.1, t.2.2⟩] } }

/-- Serves the first `n` bursts of the queue. -/
def Channel.dramServes : Nat → Channel → Channel
  | 0, x => x
  | n + 1, x => match x.dram.queue with | [] => x | q :: r => Channel.dramServes n (x.dramServe q r)

/-- A requester's turn at the DRAM (R96): first come, first served, the bursts that wait in the queue are served before its
own. During a refresh hold (R500) nothing is served. (DESIGN CHOICE, log entry 29.) -/
def Channel.dramTurn (x : Channel) : Channel := if x.dram.hold == 0 then x.dramServes x.dram.queue.length else x

/-- Whether a refresh holds the DRAM (R500): no engine's access completes until it ends. -/
def Channel.dramHeld (x : Channel) : Bool := x.dram.hold != 0

/-- A write cut into the bursts of the queue. -/
def writeReqs : Nat → Nat → List Byte → List DramReq
  | 0, _, _ => []
  | fuel + 1, a, bs =>
    if bs.isEmpty then []
    else { stream := 0, half := false, addr := a, data := some (bs.take (64 - a % 64)) } ::
      writeReqs fuel (a + (64 - a % 64)) (bs.drop (64 - a % 64))

/-- A write that its sender does not wait for (R96, R500): it takes its turn at once, or waits in the queue, in order, while a
refresh holds it. (DESIGN CHOICE, log entry 29.) -/
def Channel.dramPost (x : Channel) (a : Nat) (bs : List Byte) : Channel :=
  if x.dramHeld then { x with dram := { x.dram with queue := x.dram.queue ++ writeReqs (bs.length + 1) a bs } }
  else x.dramTurn.dramWrite a bs

/-- Whether `n` bytes at `a` lie inside the populated DRAM (R31). -/
def Channel.dramOk (x : Channel) (a n : Nat) : Bool := decide (a + n ≤ x.dramTop) && decide (a < 0x200000000)

/-! ## Rings (R79 to R84) -/

/-- Ring `r` of the channel. -/
def Channel.ring (x : Channel) (r : BitVec 6) : RingD := x.rings.get r.toFin

/-- Replaces ring `r`. -/
def Channel.setRing (x : Channel) (r : BitVec 6) (d : RingD) : Channel := { x with rings := x.rings.set r.toNat d r.isLt }

/-- Bytes written and not read. -/
def RingD.fill (d : RingD) : Nat := (d.head - d.tail).toNat

/-- Free bytes. -/
def RingD.free (d : RingD) : Nat := d.size.toNat - d.fill

/-- The address of a byte count (R79). -/
def RingD.addr (d : RingD) (c : Word) : Nat := d.base.toNat + c.toNat % d.size.toNat

/-- Cuts a run that starts at count `c` where the ring wraps: the address and length of its first piece. -/
def RingD.first (d : RingD) (c : Word) (n : Nat) : Nat := min n (d.size.toNat - c.toNat % d.size.toNat)

/-- Reads `n` bytes of a ring from count `c`, wrapping to BASE without a break (R83). -/
def Channel.ringRead (x : Channel) (d : RingD) (c : Word) (n : Nat) : List Byte × Channel × Bool :=
  let k := d.first c n
  let p := x.spadRead (d.addr c) k
  let q := p.2.1.spadRead d.base.toNat (n - k)
  (p.1 ++ q.1, q.2.1, p.2.2 || q.2.2)

/-- Writes bytes into a ring from count `c`. -/
def Channel.ringWrite (x : Channel) (d : RingD) (c : Word) (bs : List Byte) : Channel :=
  let k := d.first c bs.length
  (x.spadWrite (d.addr c) (bs.take k)).spadWrite d.base.toNat (bs.drop k)

/-- Whether an engine may bind a side: unbound, or bound by the same engine, behind which it queues (R82). -/
def bindOk (side : Option (Eng × Nat)) (e : Eng) : Bool :=
  match side with | none => true | some (e', _) => e' == e

/-- Adds one binding. -/
def bindAdd (side : Option (Eng × Nat)) (e : Eng) : Option (Eng × Nat) :=
  match side with | none => some (e, 1) | some (_, n) => some (e, n + 1)

/-- Takes one binding away. -/
def bindSub (side : Option (Eng × Nat)) : Option (Eng × Nat) :=
  match side with | none => none | some (e, n) => if n ≤ 1 then none else some (e, n - 1)

/-- Whether a binding belongs to the running command: not the intake's, the servo engine's or a halo's. -/
def Eng.ofCommand : Eng → Bool
  | .intake => false
  | .servo => false
  | .halo => false
  | _ => true

/-- Binds the producer side. -/
def Channel.bindProd (x : Channel) (r : BitVec 6) (e : Eng) : Channel :=
  x.setRing r { x.ring r with prod := bindAdd (x.ring r).prod e, xp := (x.ring r).xp || e.ofCommand }

/-- Binds the consumer side. -/
def Channel.bindCons (x : Channel) (r : BitVec 6) (e : Eng) : Channel :=
  x.setRing r { x.ring r with cons := bindAdd (x.ring r).cons e, xc := (x.ring r).xc || e.ofCommand }

/-- Unbinds the producer side once. -/
def Channel.unbindProd (x : Channel) (r : BitVec 6) : Channel :=
  x.setRing r { x.ring r with prod := bindSub (x.ring r).prod }

/-- Unbinds the consumer side once. -/
def Channel.unbindCons (x : Channel) (r : BitVec 6) : Channel :=
  x.setRing r { x.ring r with cons := bindSub (x.ring r).cons }

/-- Binds the sides that an instruction names, but for those it has bound already; one that is invalid or another engine's marks
the instruction, which will raise RING (R82). -/
def Channel.bindSides (x : Channel) (ce pe : Eng) (cons prod : List (BitVec 6)) (b : Binds) : Channel × Binds :=
  let q := cons.foldl (fun (a : Channel × Binds) r =>
    if a.2.cons.contains r then a
    else if (a.1.ring r).valid && bindOk (a.1.ring r).cons ce then (a.1.bindCons r ce, { a.2 with cons := a.2.cons ++ [r] })
    else (a.1, { a.2 with bad := true })) (x, b)
  prod.foldl (fun (a : Channel × Binds) r =>
    if a.2.prod.contains r then a
    else if (a.1.ring r).valid && bindOk (a.1.ring r).prod pe then (a.1.bindProd r pe, { a.2 with prod := a.2.prod ++ [r] })
    else (a.1, { a.2 with bad := true })) q

/-- Unbinds the sides that an instruction has bound. -/
def Channel.unbindSides (x : Channel) (b : Binds) : Channel :=
  b.prod.foldl (fun (y : Channel) r => y.unbindProd r) (b.cons.foldl (fun (y : Channel) r => y.unbindCons r) x)

/-- The `n` bytes of a record at `a` as they stand in the scratchpad when its instruction issues. The unit reads the record later;
the ring it names is bound from issue (R82). (DEDUCED, log entry 30.) -/
def Channel.rawRec (x : Channel) (a n : Nat) : List Byte := rdBytes x.spad.mem a n

/-- Advances HEAD. -/
def Channel.advHead (x : Channel) (r : BitVec 6) (n : Nat) : Channel :=
  x.setRing r { x.ring r with head := (x.ring r).head + BitVec.ofNat 32 n }

/-- Advances TAIL. -/
def Channel.advTail (x : Channel) (r : BitVec 6) (n : Nat) : Channel :=
  x.setRing r { x.ring r with tail := (x.ring r).tail + BitVec.ofNat 32 n }

/-! ## The sequencer's registers (R30) -/

/-- s[i]; s0 reads 0. -/
def Seq.rs (q : Seq) (i : BitVec 5) : Dword := if i = 0 then 0 else q.s.get i.toFin

/-- Writes s[i]; a write to s0 is discarded. -/
def Seq.ws (q : Seq) (i : BitVec 5) (v : Dword) : Seq := if i = 0 then q else { q with s := q.s.set i.toNat v i.isLt }

/-- a[i]. -/
def Seq.ra (q : Seq) (i : BitVec 4) : Dword := q.a.get i.toFin

/-- Writes a[i]. -/
def Seq.wa (q : Seq) (i : BitVec 4) (v : Dword) : Seq := { q with a := q.a.set i.toNat v i.isLt }

/-- p[i]; p0 reads all ones. -/
def Seq.rp (q : Seq) (i : BitVec 3) : Mask := if i = 0 then BitVec.allOnes 128 else q.p.get i.toFin

/-- Writes p[i]; a write to p0 is discarded. -/
def Seq.wp (q : Seq) (i : BitVec 3) (v : Mask) : Seq := if i = 0 then q else { q with p := q.p.set i.toNat v i.isLt }

/-- v[i]. -/
def Seq.rv (q : Seq) (i : BitVec 4) : VReg := q.v.get i.toFin

/-- Writes v[i]. -/
def Seq.wv (q : Seq) (i : BitVec 4) (v : VReg) : Seq := { q with v := q.v.set i.toNat v i.isLt }

/-- The value of token counter `k`; t15 reads 0. -/
def Seq.rt (q : Seq) (k : BitVec 4) : BitVec 16 := if k = 15 then 0 else q.t.get k.toFin

/-- Sets token counter `k`; t15 discards it. -/
def Seq.wt (q : Seq) (k : BitVec 4) (v : BitVec 16) : Seq := if k = 15 then q else { q with t := q.t.set k.toNat v k.isLt }

/-- Outstanding operations on token counter `k` (R43). -/
def Seq.out (q : Seq) (k : BitVec 4) : Nat := q.outst.get k.toFin

/-- Sets the outstanding operations of token counter `k`. -/
def Seq.setOut (q : Seq) (k : BitVec 4) (n : Nat) : Seq := { q with outst := q.outst.set k.toNat n k.isLt }

/-- Whether no token counter has outstanding work, t15 included (R58). -/
def Seq.quiet (q : Seq) : Bool := q.outst.toList.all (· == 0)

/-- Changes the sequencer. -/
def Channel.modSeq (x : Channel) (f : Seq → Seq) : Channel := { x with seq := f x.seq }

/-- The guard bit that instructions other than VECTOR test (R32, R44). -/
def Seq.guard (q : Seq) (pg : BitVec 3) (pn : Bool) : Bool := (q.rp pg).getLsbD 0 != pn

/-- The lane mask a guard gives a VECTOR instruction (R32). -/
def Seq.lanes (q : Seq) (pg : BitVec 3) (pn : Bool) : Mask := if pn then ~~~(q.rp pg) else q.rp pg

/-! ## Exceptions (R64 to R68) -/

/-- The exception codes of R64 that programs raise. -/
inductive Exc where
  | illegal | pmRange | spadRange | dramRange | align | ring | desc | stack | token | deadlock | page | axis | budget | trap | csr
deriving DecidableEq, Repr

/-- The code of an exception (R64). -/
def Exc.code : Exc → Byte
  | .illegal => 0x01 | .pmRange => 0x02 | .spadRange => 0x03 | .dramRange => 0x04 | .align => 0x05 | .ring => 0x06
  | .desc => 0x07 | .stack => 0x08 | .token => 0x09 | .deadlock => 0x0A | .page => 0x0B | .axis => 0x0C
  | .budget => 0x0D | .trap => 0x0E | .csr => 0x0F

/-- Of the causes that hold, the one with the lowest code (R67). -/
def lowest : List (Bool × Exc) → Option Exc
  | [] => none
  | (b, e) :: r =>
    match lowest r with
    | none => if b then some e else none
    | some e' => if b && decide (e.code.toNat ≤ e'.code.toNat) then some e else some e'

/-- The opcode of an instruction word. -/
def opcOf (w : Dword) : Byte := w.extractLsb' 56 8

/-- The cancellation point of a Front stream (R105): no further request; the credits of unfinished steps go back and
are counted as waste; FRONT_AHEAD records the fill. -/
def Channel.frontCancelPoint (x : Channel) (n : BitVec 4) (ctk : Option (BitVec 4)) (abort : Bool) : Channel :=
  let st := x.front.streams.get n.toFin
  let d := x.ring st.ring
  let st' := { st with cancelling := true, ctk := ctk, abort := abort, waste := (st.claim - d.head).toNat,
                       claim := d.head, half := [] }
  ({ x with front := { x.front with streams := x.front.streams.set n.toNat st' n.isLt } }).setReg
    (FRONT_AHEAD n.toNat) (BitVec.ofNat 32 d.fill)

/-- Cancels every busy Front stream that is not yet cancelling, and drops what waits in the Front's queue. -/
def Channel.frontCancelAll (x : Channel) (abort : Bool) : Channel :=
  let ys := (List.range 16).foldl (fun (y : Channel) k =>
    let n : BitVec 4 := BitVec.ofNat 4 k
    let st := y.front.streams.get n.toFin
    if st.busy && !st.cancelling then y.frontCancelPoint n none abort else y) x
  { ys with front := { ys.front with queue := [] } }

/-- A stop wins over a freeze whose image is being written: the request waits for the command boundary (R67, R352). -/
def Channel.unfreeze (x : Channel) : Channel :=
  if x.bit FRZ_STAT 1 then x.setReg FRZ_STAT ((x.reg FRZ_STAT &&& ~~~0x2) ||| 0x1) else x

/-- Stops the command in the sequencer: its outcome is fixed and its engine work is to drain (R66). -/
def Channel.stopRun (x : Channel) (status : Byte) (code : BitVec 16) : Channel :=
  match x.cmd.run with
  | none => x
  | some r =>
    let x := (x.frontCancelAll false).unfreeze
    { x with
      cmd := { x.cmd with run := some { r with phase := .stopping, status := status, code := code } }
      seq := { x.seq with stall := .none, reps := [] } }

/-- Whether a command is a host Hail check, or a standing run a Hail frame (R53, R330). -/
def Cmd.hail (m : Cmd) : Bool := m.flags.getLsbD 2

/-- The code of an exception in CH_EXC_CODE (R61). -/
def excWord (e : Exc) (w : Dword) (imprecise : Bool) : Word :=
  BitVec.ofNat 32 (e.code.toNat + 256 * (opcOf w).toNat + 65536 * b2n imprecise)

/-- Records an exception: CH_EXC_CODE, CH_EXC_PC, CH_EXC_INSN and CH_EXC_SEQ, and CH_STATUS.EXC (R65). -/
def State.excRecord (s : State) (c : ChId) (e : Exc) (o : Org) (imprecise : Bool) (seq : Dword) : State :=
  (s.modChan c (fun x =>
    (((x.setReg CH_EXC_CODE (excWord e o.word imprecise)).setReg CH_EXC_PC (o.pc.zeroExtend 32)).setReg64
      CH_EXC_INSN o.word).setReg64 CH_EXC_SEQ seq)).chError c 0x80

/-- Takes an exception (R65, R66): it is recorded, and the command stops and will complete INVALID. In a Hail run or a
host Hail check it is checker event 0x0B instead (R438, R440). -/
def State.except (s : State) (c : ChId) (e : Exc) (o : Org) (imprecise : Bool) : State :=
  match (s.chan c).cmd.run with
  | none => s
  | some r =>
    if r.phase = .running ∨ r.phase = .ended then
      let s := s.excRecord c e o imprecise r.cmd.seq
      s.modChan c (fun x =>
        if r.cmd.hail then x.raise 0x0B else x.stopRun 0x02 ((excWord e o.word imprecise).extractLsb' 0 16))
    else s

/-! ## Time (R35) -/

/-- Short time: seconds modulo 2^34 over nanoseconds. -/
def TimeBase.short (t : TimeBase) : Dword := t.sec.extractLsb' 0 34 ++ t.ns

/-- The present short time. -/
def State.now (s : State) : Dword := s.time.short

/-- A short time as a count of ns. -/
def nsOf (t : Dword) : Nat := getField t 63 30 * 1000000000 + getField t 29 0

/-- The short time of a count of ns. -/
def shortOf (n : Nat) : Dword := BitVec.ofNat 34 (n / 1000000000) ++ BitVec.ofNat 30 (n % 1000000000)

/-- The present instant in ns. -/
def State.nowNs (s : State) : Nat := nsOf s.now

/-- The first whole ns at or after the present. -/
def State.gridNow (s : State) : Nat := s.nowNs + b2n (s.time.frac != 0)

/-- The present instant in units of 2⁻³² ns. -/
def State.nowFine (s : State) : Nat := s.nowNs * 2 ^ 32 + s.time.frac.toNat

/-- The time one fc adds, in units of 2⁻³² ns (R382). -/
def State.addend (s : State) : Nat := (s.reg64 TIME_ADDEND).toNat

/-- Whether this fc is the first on which the time base is at or past an instant in ns (R294, R327). -/
def State.crossing (s : State) (n : Nat) : Bool :=
  decide (n * 2 ^ 32 ≤ s.nowFine) && decide (s.nowFine < n * 2 ^ 32 + s.addend)

/-- Whether this fc is the first on which the time base is at or past an instant in ns that a forward step may have passed. -/
def State.arrives (s : State) (n : Nat) : Bool :=
  s.crossing n || (decide (nsOf (s.tc.last.short) < n) && decide (n ≤ s.nowNs))

/-- Draws a free value: the number of the next one. (DESIGN CHOICE, log entry 5.) -/
def State.drawFree (s : State) (n : Nat) : State := { s with free := s.free + n }

/-- `n` free bytes from the `k`-th on. (DESIGN CHOICE, log entry 5.) -/
def freeBytes (k n : Nat) : List Byte := (List.range n).map (fun j => Config.freeByte (k + j))

/-- A checker event of class R (R413): it stops a running command. -/
def classR (src : Byte) : Bool := src.toNat < 0x10 && src != 0x0C && src != 0x0D

/-- Whether a class R event stands that has yet to be latched. -/
def Channel.halted (x : Channel) : Bool := x.raised.any classR

/-- Whether a freeze image is being written: the sequencer and the engines a freeze stops stand still (R346). -/
def Channel.freezing (x : Channel) : Bool := x.bit FRZ_STAT 1

/-- Whether engines work for the channel's command: it runs, no checker event stands, and the channel is not fenced
(R66, R121). -/
def Channel.engineGo (x : Channel) : Bool :=
  !x.halted && !x.fenced &&
    (match x.cmd.run with | some r => r.phase == .running || r.phase == .ended | none => false)

/-- Whether the engines that a freeze stops work for the channel's command (R346). -/
def Channel.engineWork (x : Channel) : Bool := x.engineGo && !x.freezing

/-- Whether the arrays work: as `engineWork`, and on after the command that issued TILE work without a token has ended
(R42, R58, R77), until a stop drains it (R66). (DESIGN CHOICE, log entry 43.) -/
def Channel.arrGo (x : Channel) : Bool :=
  !x.halted && !x.fenced && !x.freezing &&
    (match x.cmd.run with
     | some r => r.phase == .started || r.phase == .running || r.phase == .ended || r.phase == .finished
     | none => true)

/-! ## Token counters (R42, R43) -/

/-- Starts an operation on a token counter. -/
def Seq.begin (q : Seq) (k : BitVec 4) : Seq := q.setOut k (q.out k + 1)

/-- Strikes an operation from the outstanding count without incrementing the counter (R122). -/
def Seq.strike (q : Seq) (k : BitVec 4) : Seq := q.setOut k (q.out k - 1)

/-- Once the program has ended, a token that comes in stamps END (R54). -/
def Channel.endStamp (x : Channel) (t : Dword) : Channel :=
  match x.cmd.run with
  | some r => if r.phase = .ended then { x with cmd := { x.cmd with run := some { r with endT := t } } } else x
  | none => x

/-- An operation of a frozen command has finished: its counter increments in the frozen context (R346). -/
def State.tokenFrozen (s : State) (c : ChId) (k : BitVec 4) : State :=
  s.modChan c (fun x => { x with frz := x.frz.map (fun f =>
    { f with seq := (f.seq.strike k).wt k (if f.seq.rt k = 0xFFFF then 0xFFFF else f.seq.rt k + 1) }) })

/-- An operation has finished: its counter increments, t15 discards the increment, and a counter that would pass
65,535 raises TOKEN, imprecisely. -/
def State.tokenIn (s : State) (c : ChId) (k : BitVec 4) (o : Org) : State :=
  let q := (s.chan c).seq
  let wraps := k ≠ 15 ∧ q.rt k = 0xFFFF
  let s := s.modChan c (fun x => (x.modSeq (fun q =>
    let q := q.strike k
    if wraps then q else q.wt k (q.rt k + 1))).endStamp s.now)
  if wraps then s.except c .token o true else s

/-! ## Issue (R38 to R45, R65 to R68) -/

/-- Whether a program index lies in the images loaded by LOAD_PROG (R64). -/
def PMem.loaded (m : PMem) (i : Nat) : Bool := m.images.any (fun e => e.1 ≤ i && i < e.1 + e.2)

/-- Where the sequencer goes after the instruction at `pc` (R41): the next index, or the start of a repeat body whose
last instruction this was. After index 32,767 the 15-bit counter is at 0; R65 names no place. (DESIGN CHOICE, log entry 53.) -/
def nextPc (pc : BitVec 15) : List Rep → BitVec 15 × List Rep
  | [] => (pc + 1, [])
  | r :: rs =>
    if r.last = pc then
      if r.left > 1 then (r.first, { r with left := r.left - 1 } :: rs) else nextPc pc rs
    else (pc + 1, r :: rs)

/-- The sequencer steps over the instruction at `pc`. -/
def Seq.step (q : Seq) (pc : BitVec 15) : Seq :=
  let n := nextPc pc q.reps
  { q with pc := n.1, reps := n.2, stall := .none }

/-- What issuing an instruction came to. -/
inductive Issue where
  | done (s : State)                       -- its effect; the sequencer steps over it
  | went (s : State)                       -- its effect, the program counter and repeat stack included
  | exc (e : Exc)                          -- a precise exception: the instruction is not issued
  | stall (r : Stall)                      -- it is not issued yet

/-- Whether the channel's sequencer can issue: a program runs, and the channel is neither fenced nor stopped. -/
def Channel.issues (x : Channel) : Bool :=
  !x.fenced && !x.halted && !x.freezing && (match x.cmd.run with | some r => r.phase == .running | none => false)

/-- Issues the instruction word `w` on channel `c`. A channel that cannot issue, or that holds another instruction
stalled (the sequencer issues in program order), is unchanged. A word with a double-bit error raises checker event 0x06
(R36). A program counter outside the loaded images raises PM_RANGE. An illegal word raises ILLEGAL whatever its guard (R68). A word with a guard
that never executes, or that is guarded off as a whole (`skip`), costs its issue edge only (R33, R44).
(DESIGN CHOICE, log entries 6, 7 and 16.) -/
def State.issue (s : State) (c : ChId) (w : Dword) (legal never skip : Bool) (body : State → Issue) : State :=
  let x := s.chan c
  let pc := x.seq.pc
  if !x.issues || (x.seq.stall != .none && x.seq.held != w) then s
  else if sget 0 x.pm.err pc.toNat == 2 then s.modChan c (fun x => x.raise 0x06)
  else if !x.pm.loaded pc.toNat then s.except c .pmRange ⟨pc, sget 0 x.pm.words pc.toNat⟩ false
  else if !legal then s.except c .illegal ⟨pc, w⟩ false
  else if never || skip then s.modChan c (fun x => x.modSeq (·.step pc))
  else match body s with
    | .done t => t.modChan c (fun x => x.modSeq (·.step pc))
    | .went t => t
    | .exc e => s.except c e ⟨pc, w⟩ false
    | .stall r => s.modChan c (fun x => x.modSeq (fun q => { q with stall := r, held := w }))

/-- PG = 0 with PN = 1 never executes (R44). -/
def never (pg : BitVec 3) (pn : Bool) : Bool := pg == 0 && pn

/-- Runs a body behind its exception causes: the lowest code is reported (R67). -/
def guarded (causes : List (Bool × Exc)) (k : Issue) : Issue :=
  match lowest causes with | some e => .exc e | none => k

/-! ## The host port's answers (R445, R461) -/

/-- The host port returns a completion. -/
def State.reply (s : State) (r : RStat) (data : List Byte) : State := { s with answer := some ⟨r, data⟩ }

/-- Whether the part is in its start: the port answers configuration requests with the retry status (R461). -/
def State.starting (s : State) : Bool := getField (s.reg GLB_STATE) 1 0 == 0

/-- Whether the port takes memory requests: not while the part starts, nor in D3hot (R445, R461).
(DESIGN CHOICE, log entry 17.) -/
def State.hostUp (s : State) : Bool := !s.starting && !s.sup.d3hot

/-- A host request that the port completes, or answers Unsupported Request. (DESIGN CHOICE, log entry 17.) -/
def State.atPort (s : State) (f : State → State) : State := if s.hostUp then f s else s.reply .unsupported []

/-- A configuration request that the port answers: with the retry status while the part starts (R461). -/
def State.atConfig (s : State) (f : State → State) : State := if s.starting then s.reply .retry [] else f s

/-- A request on a path: the host's must pass the port. -/
def State.onPath (s : State) (p : Path) (f : State → State) : State := match p with | .host => s.atPort f | .csr _ => f s

end Sys2Proof.Machine
end

