-- ==== Sys2Proof/Machine/Mem.lean ====
section
/-!
DEFINITION. Memory events: the second slot of a partial write, Drizzle, and the DRAM controller (R74 to R76, R95, R96,
R499, R500).
-/

namespace Sys2Proof.Machine

open Sys2Proof

/-- The write-back slot of bank `bank`'s merge buffer: the buffer is free again (R74). -/
def execPartialWriteMerge (ch : ChId) (bank : Fin 32) (s : State) : Out :=
  .next (if s.parked ch then s else s.modChan ch (fun x =>
    { x with spad := { x.spad with merge := x.spad.merge.filter (fun m => m.bank != bank.val) } }))

/-- Drizzle's write-back of the first queued codeword (R75): rewritten with fresh check bits, or, uncorrectable,
recorded, raised as 0x04 and dropped. Its own read of a codeword that it corrects is not counted again in SPAD_CE_COUNT: R73
counts every read, and R75 does not say whether this one is meant. Nothing happens while SPAD_SCRUB.EN is 0. (DESIGN CHOICE, log entry 29.) -/
def execDrizzleWriteback (ch : ChId) (s : State) : Out :=
  .next (if s.parked ch then s else s.modChan ch (fun x =>
    if !x.bit SPAD_SCRUB 31 then x
    else match x.spad.drizzle with
      | [] => x
      | w :: r =>
        let sp := { x.spad with drizzle := r }
        if sget 0 x.spad.err w == 2 then ({ x with spad := sp }).spadBad w
        else { x with spad := { sp with err := sset 0 sp.err w 0 } }))

/-- A sweep visit (R75): the next row of every bank is read and checked; the last row completes a sweep. Nothing
happens while SPAD_SCRUB.EN or PERIOD is 0. -/
def execDrizzleSweepVisit (ch : ChId) (s : State) : Out :=
  .next (if s.parked ch then s else s.modChan ch (fun x =>
    if !x.bit SPAD_SCRUB 31 || getField (x.reg SPAD_SCRUB) 15 0 == 0 then x
    else
      let row := x.spad.sweepRow.toNat
      let x := (x.spadDecode (x.spad.err.filter (fun e => e.1 / 256 == row))).1
      let x := { x with spad := { x.spad with sweepRow := x.spad.sweepRow + 1 } }
      if row == 8191 then x.inc SPAD_SWEEPS 1 else x))

/-- Array `k`'s accumulators. -/
def Channel.accOf (x : Channel) (k : Fin 2) : Acc := x.acc.get k

/-- Replaces array `k`'s accumulators. -/
def Channel.setAcc (x : Channel) (k : Fin 2) (a : Acc) : Channel := { x with acc := x.acc.set k.val a k.isLt }

/-- Drizzle rewrites the first queued accumulator entry of an array (R76), whatever SPAD_SCRUB.EN is: the register is the
scratchpad's, and no rule says that it stops the accumulators' Drizzle. (DESIGN CHOICE, log entry 29.) -/
def execAccDrizzleRewrite (ch : ChId) (arr : Fin 2) (s : State) : Out :=
  .next (if s.parked ch then s else s.modChan ch (fun x =>
    let a := x.accOf arr
    match a.drizzle with
    | [] => x
    | e :: r => x.setAcc arr { a with drizzle := r, err := a.err.filter (fun m => !(m.1 / 128 == e && m.2 == 1)) }))

/-- The DRAM controller serves the first burst of its queue (R96). Nothing is served during a refresh hold (R500). -/
def execDramRequestServe (ch : ChId) (s : State) : Out :=
  .next (if s.parked ch then s else s.modChan ch (fun x =>
    match x.dram.queue with
    | [] => x
    | q :: r => if x.dramHeld then x else x.dramServe q r))

/-- The refresh schedule starts (R500): at the end of training and at a start barrier. The first refresh of rank 0 falls one
interval later and rank 1's half an interval after it. (DEDUCED, log entry 29.) -/
def Dram.schedule (d : Dram) (fc : Nat) : Dram :=
  { d with hold := 0, refreshes := 0, due0 := fc + d.interval, due1 := fc + d.interval + d.interval / 2 }

/-- A refresh of rank 0 (R499, R500): the write buffer's dirty words are written first and the queue is held for 252 fc. The
interval it sets out from is the one the last temperature read called for. Every 256th is followed by a read of the DRAM
temperature, which holds 32 fc more: `hot` is what the devices report. -/
def Channel.refresh0 (x : Channel) (hot : Bool) : Channel :=
  let n := x.dram.refreshes + 1
  let i := x.dram.next
  let temp := n % 256 == 0
  let d := { x.dram with dirty := [], refreshes := n, interval := i, due0 := x.dram.due0 + i, due1 := x.dram.due0 + i / 2 }
  if temp then
    let x := { x with dram := { d with hold := 284, next := if hot then 1755 else 3510 } }
    x.setReg DRAM_TRAIN (setBit (x.reg DRAM_TRAIN) 2 hot)
  else { x with dram := { d with hold := 252 } }

/-- A refresh of rank 1 (R500). -/
def Channel.refresh1 (x : Channel) : Channel :=
  { x with dram := { x.dram with dirty := [], hold := 252, due1 := x.dram.due1 + x.dram.interval } }

/-- A scheduled refresh (R500), not before the fc on which it falls. -/
def execDramRefresh (ch : ChId) (rank1 hot : Bool) (s : State) : Out :=
  .next (if s.parked ch then s else s.modChan ch (fun x =>
    if !x.bit DRAM_TRAIN 0 || (rank1 && getField (x.reg DRAM_CFG) 1 0 < 2) ||
        decide (s.fc < if rank1 then x.dram.due1 else x.dram.due0) then x
    else if rank1 then x.refresh1 else x.refresh0 hot))

/-! ## Errors of the hardware (R72) -/

/-- The mark of a codeword after an error of a kind: two single bits are a double-bit error, and a pattern that passes as clean or
is taken for a single bit hides what was there. -/
def upsetMark (old kind : Nat) : Nat :=
  match kind with
  | 0 => if old == 0 then 1 else 2
  | 1 => 2
  | 2 => 0
  | _ => 1

/-- An error of the hardware in codeword `i` of memory `m`: the mark its decode will meet, and, where the pattern hides itself, data
that no rule gives: free bytes from `k` on. (DESIGN CHOICE, log entries 5 and 9.) -/
def Channel.upset (x : Channel) (m i kind k : Nat) : Channel :=
  let mark (e : Sparse Nat) (j : Nat) : Sparse Nat := sset 0 e j (upsetMark (sget 0 e j) kind)
  let wrong := kind == 2 || kind == 3
  let acc (n : Fin 2) : Channel :=
    let j := i % 524288
    let a := x.accOf n
    x.setAcc n { a with err := mark a.err j, mem := if wrong then sset 0 a.mem j (Config.freeWord k) else a.mem }
  match m with
  | 0 =>
    let j := i % 32768
    { x with pm := { x.pm with
        err := mark x.pm.err j
        words := if wrong then sset 0 x.pm.words j (Config.freeWord k ++ Config.freeWord (k + 1)) else x.pm.words } }
  | 1 =>
    let j := i % 2097152
    { x with spad := { x.spad with
        err := mark x.spad.err j
        mem := if wrong then wrBytes x.spad.mem (16 * j) (freeBytes k 16) else x.spad.mem } }
  | 2 => acc 0
  | 3 => acc 1
  | 5 =>
    if !wrong then x
    else if i % 2 == 0 then { x with servo := { x.servo with learn := sset 0 x.servo.learn (i / 2 % 65536) (Config.freeWord k) } }
    else
      let b : Fin 2 := Fin.ofNat 2 (i / 2)
      { x with servo := { x.servo with
          banks := x.servo.banks.set b.val (wrBytes (x.servo.banks.get b) (i / 4 % 260 * 16) (freeBytes k 16)) b.isLt } }
  | 6 => x
  | _ =>
    let j := i % max 1 (x.dramTop / 32)
    { x with dram := { x.dram with
        err := mark x.dram.err j
        mem := if wrong then wrBytes x.dram.mem (32 * j) (freeBytes k 32) else x.dram.mem } }

end Sys2Proof.Machine
end

