-- ==== Sys2Proof/Machine/Flags.lean ====
section
/-!
DEFINITION. The block has no flags (R48: scalar arithmetic sets none). What other machines keep in flags a Kysoat
keeps in predicate registers; this file gives the conditions that compute them.
-/

namespace Sys2Proof.Machine

open Sys2Proof

/-- COND of format B on 64-bit values: 0 EQ, 1 NE, 2 LT signed, 3 GE signed, 4 LTU, 5 GEU (R46). -/
def condHolds (cond : Nat) (x y : Dword) : Bool :=
  match cond with
  | 0 => x == y
  | 1 => x != y
  | 2 => x.slt y
  | 3 => !x.slt y
  | 4 => x.ult y
  | _ => !x.ult y

/-- All ones or zero: what SCALAR.CMP writes to all 128 bits (R32). -/
def allOrNone (b : Bool) : Mask := if b then BitVec.allOnes 128 else 0

/-- Bitwise logic of PLOG and LOGIC: 0 and, 1 or, 2 xor, 3 and-not (R47). -/
def logicOp {w : Nat} (mod : Nat) (x y : BitVec w) : BitVec w :=
  match mod with
  | 0 => x &&& y
  | 1 => x ||| y
  | 2 => x ^^^ y
  | _ => x &&& ~~~y

end Sys2Proof.Machine
end

