-- ==== Sys2Proof/Machine/Num.lean ====
section
/-!
DEFINITION. Numbers (chapter 06): exact values of the float formats, rounding, saturation, the stochastic generator,
and the functions of R501. Arithmetic is exact on dyadic numbers; narrowing rounds once.
-/

namespace Sys2Proof.Machine

open Sys2Proof

/-- A float value: NaN, an infinity, or ±m × 2^e exactly. -/
inductive FV where
  | nan
  | inf (neg : Bool)
  | fin (neg : Bool) (m : Nat) (e : Int)
deriving DecidableEq, Repr

/-- A float format: exponent bits, mantissa bits, bias; `ieee` is false for E4M3, which has no infinity (R152, R153). -/
structure FFmt where
  eb : Nat
  mb : Nat
  bias : Nat
  ieee : Bool
deriving DecidableEq, Repr

/-- fp32 (R152). -/
def fp32 : FFmt := ⟨8, 23, 127, true⟩
/-- bf16 (R152). -/
def bf16 : FFmt := ⟨8, 7, 127, true⟩
/-- fp8 E4M3 (R152). -/
def e4m3 : FFmt := ⟨4, 3, 7, false⟩
/-- fp8 E5M2 (R152). -/
def e5m2 : FFmt := ⟨5, 2, 15, true⟩

/-- The exponent of the smallest subnormal. -/
def FFmt.qmin (f : FFmt) : Int := 1 - (f.bias : Int) - (f.mb : Int)

/-- The canonical NaN (R153). -/
def FFmt.nan (f : FFmt) : Nat :=
  if f.ieee then (2 ^ f.eb - 1) * 2 ^ f.mb + 2 ^ (f.mb - 1) else 2 ^ (f.eb + f.mb) - 1

/-- The code of an infinity. -/
def FFmt.inf (f : FFmt) (neg : Bool) : Nat := (2 ^ f.eb - 1) * 2 ^ f.mb + (if neg then 2 ^ (f.eb + f.mb) else 0)

/-- The code of the largest finite magnitude. -/
def FFmt.maxCode (f : FFmt) : Nat :=
  if f.ieee then (2 ^ f.eb - 1) * 2 ^ f.mb - 1 else 2 ^ (f.eb + f.mb) - 2

/-- The value of a code (R152, R153). -/
def FFmt.decode (f : FFmt) (code : Nat) : FV :=
  let m := code % 2 ^ f.mb
  let x := code / 2 ^ f.mb % 2 ^ f.eb
  let neg := bitOf code (f.eb + f.mb)
  if f.ieee && x == 2 ^ f.eb - 1 then (if m == 0 then .inf neg else .nan)
  else if !f.ieee && x == 2 ^ f.eb - 1 && m == 2 ^ f.mb - 1 then .nan
  else if x == 0 then .fin neg m f.qmin
  else .fin neg (m + 2 ^ f.mb) (f.qmin + (x : Int) - 1)

/-- Rounding (R159, R160): to nearest, ties to even, or stochastic with the 24-bit draw. -/
inductive Rnd where
  | rne
  | sto (r24 : Nat)
deriving DecidableEq, Repr

/-- Whether `m / 2^k` is rounded up from its floor. -/
def roundUp (rnd : Rnd) (m k : Nat) : Bool :=
  let fl := m / 2 ^ k
  let rem := m % 2 ^ k
  match rnd with
  | .rne => decide (2 * rem > 2 ^ k) || (decide (2 * rem = 2 ^ k) && fl % 2 == 1)
  | .sto r24 => decide (rem * 2 ^ 24 / 2 ^ k > r24)

/-- `m × 2^e` rounded to a multiple of 2^q, in units of 2^q. -/
def quantize (rnd : Rnd) (m : Nat) (e q : Int) : Nat :=
  if e ≥ q then m * 2 ^ (e - q).toNat
  else m / 2 ^ (q - e).toNat + b2n (roundUp rnd m (q - e).toNat)

/-- The exponent of the last kept bit of `m × 2^e` in a format: its precision, subnormals included. -/
def FFmt.ulp (f : FFmt) (m : Nat) (e : Int) : Int := max ((Nat.log2 m : Int) + e - (f.mb : Int)) f.qmin

/-- The code of a rounded magnitude `m × 2^q`, its exponent range unbounded; codes above `maxCode` lie outside the format. -/
def FFmt.code (f : FFmt) (m : Nat) (q : Int) : Nat := (q - f.qmin).toNat * 2 ^ f.mb + m

/-- The code of ±m × 2^e rounded, and whether it rounds above the largest finite magnitude. -/
def FFmt.round (f : FFmt) (rnd : Rnd) (m : Nat) (e : Int) : Nat × Bool :=
  if m == 0 then (0, false)
  else
    let q := f.ulp m e
    let c := f.code (quantize rnd m e q) q
    (c, decide (c > f.maxCode))

/-- The sign bit of a format. -/
def FFmt.signBit (f : FFmt) (neg : Bool) : Nat := if neg then 2 ^ (f.eb + f.mb) else 0

/-- A result: its code or lane word, the VEC_STAT bits it sets (1 SAT, 2 OVF, 4 NAN, 8 CLIP), and whether it clipped (R169). -/
structure NumR where
  w : Nat
  fl : Nat
  clip : Bool
deriving DecidableEq, Repr

/-- An arithmetic result rounded once into a format: it overflows to an infinity, never saturating (R154). -/
def FFmt.arith (f : FFmt) (rnd : Rnd) : FV → NumR
  | .nan => ⟨f.nan, 0, false⟩
  | .inf neg => ⟨f.inf neg, 0, false⟩
  | .fin neg m e =>
    let r := f.round rnd m e
    if r.2 then ⟨f.inf neg, 2, false⟩ else ⟨r.1 + f.signBit neg, 0, false⟩

/-- A conversion into a float format: it saturates (R162). -/
def FFmt.convert (f : FFmt) (rnd : Rnd) : FV → NumR
  | .nan => ⟨f.nan, 0, false⟩
  | .inf neg => if f.ieee then ⟨f.inf neg, 0, false⟩ else ⟨f.maxCode + f.signBit neg, 8, true⟩
  | .fin neg m e =>
    let r := f.round rnd m e
    if r.2 then ⟨f.maxCode + f.signBit neg, 8, true⟩ else ⟨r.1 + f.signBit neg, 0, false⟩

/-- ±m × 2^e rounded to an integer (R159, R160): stochastic rounding counts from the floor. -/
def roundInt (rnd : Rnd) (neg : Bool) (m : Nat) (e : Int) : Int :=
  if e ≥ 0 then
    let v : Int := (m * 2 ^ e.toNat : Nat)
    if neg then -v else v
  else
    let k := (-e).toNat
    match rnd with
    | .rne => let v : Int := (m / 2 ^ k + b2n (roundUp .rne m k) : Nat); if neg then -v else v
    | .sto r24 =>
      if neg then
        let up := (m + 2 ^ k - 1) / 2 ^ k
        let f := up * 2 ^ k - m
        (b2n (decide (f * 2 ^ 24 / 2 ^ k > r24)) : Int) - (up : Int)
      else ((m / 2 ^ k + b2n (roundUp (.sto r24) m k) : Nat) : Int)

/-- A conversion into a two's complement integer of `n` bits, answered as its low 32 bits sign-extended (R162, R163). -/
def convertInt (n : Nat) (rnd : Rnd) (v : FV) : NumR :=
  let hi : Int := (2 : Int) ^ (n - 1) - 1
  let lo : Int := -((2 : Int) ^ (n - 1))
  match v with
  | .nan => ⟨0, 8, true⟩
  | .inf neg => ⟨ofSigned 32 (if neg then lo else hi), 8, true⟩
  | .fin neg m e =>
    let i := roundInt rnd neg m e
    if i > hi then ⟨ofSigned 32 hi, 8, true⟩
    else if i < lo then ⟨ofSigned 32 lo, 8, true⟩
    else ⟨ofSigned 32 i, 0, false⟩

/-- An integer as an exact value. -/
def FV.ofInt (i : Int) : FV := .fin (decide (i < 0)) i.natAbs 0

/-- A value times 2^k (R165). -/
def FV.scale (v : FV) (k : Int) : FV :=
  match v with | .fin s m e => .fin s m (e + k) | w => w

/-- The negated value. -/
def FV.neg : FV → FV
  | .nan => .nan
  | .inf s => .inf !s
  | .fin s m e => .fin (!s) m e

/-- Whether a value is NaN. -/
def FV.isNan : FV → Bool
  | .nan => true
  | _ => false

/-- The exact sum of finite values: a zero sum is −0 only when both are negative zeros. -/
def addFin (s1 : Bool) (m1 : Nat) (e1 : Int) (s2 : Bool) (m2 : Nat) (e2 : Int) : FV :=
  let e := min e1 e2
  let a : Int := (m1 * 2 ^ (e1 - e).toNat : Nat)
  let b : Int := (m2 * 2 ^ (e2 - e).toNat : Nat)
  let t := (if s1 then -a else a) + (if s2 then -b else b)
  if t = 0 then .fin (s1 && s2) 0 0 else .fin (decide (t < 0)) t.natAbs e

/-- The exact sum (R154). -/
def FV.add : FV → FV → FV
  | .fin s1 m1 e1, .fin s2 m2 e2 => addFin s1 m1 e1 s2 m2 e2
  | .inf s1, .inf s2 => if s1 == s2 then .inf s1 else .nan
  | .inf s1, .fin _ _ _ => .inf s1
  | .fin _ _ _, .inf s2 => .inf s2
  | _, _ => .nan

/-- The exact product (R154). -/
def FV.mul : FV → FV → FV
  | .fin s1 m1 e1, .fin s2 m2 e2 => .fin (s1 != s2) (m1 * m2) (e1 + e2)
  | .inf s1, .inf s2 => .inf (s1 != s2)
  | .inf s1, .fin s2 m2 _ => if m2 == 0 then .nan else .inf (s1 != s2)
  | .fin s1 m1 _, .inf s2 => if m1 == 0 then .nan else .inf (s1 != s2)
  | _, _ => .nan

/-- `a < b` as numbers; false with a NaN; −0 equals +0. -/
def FV.lt : FV → FV → Bool
  | .fin s1 m1 e1, .fin s2 m2 e2 =>
    match addFin s1 m1 e1 (!s2) m2 e2 with
    | .fin s m _ => s && m != 0
    | _ => false
  | .inf s1, .inf s2 => s1 && !s2
  | .inf s1, .fin _ _ _ => s1
  | .fin _ _ _, .inf s2 => !s2
  | _, _ => false

/-- Equal as numbers; false with a NaN. -/
def FV.eq (a b : FV) : Bool := !a.isNan && !b.isNan && !a.lt b && !b.lt a

/-- Whether a value carries a minus sign. -/
def FV.sign : FV → Bool
  | .nan => false
  | .inf s => s
  | .fin s _ _ => s

/-- `a` comes before `b` in the order of MIN and MAX, where −0 comes before +0 (R156). -/
def FV.before (a b : FV) : Bool := a.lt b || (!b.lt a && a.sign && !b.sign)

/-- The mixing function of the generator (R160). -/
def mix (x : Dword) : Dword :=
  let x := x ^^^ (x >>> 31)
  let x := x * 0x9E6F1D2B47A3C5B9
  let x := x ^^^ (x >>> 29)
  let x := x * 0xD1B54A32D192ED03
  x ^^^ (x >>> 32)

/-- The draw of a lane or column (R160). -/
def draw (key : Dword) (unit d lane : Nat) : Dword :=
  mix (key ^^^ mix (BitVec.ofNat 64 (unit * 2 ^ 56) ||| BitVec.ofNat 64 (d * 256) ||| BitVec.ofNat 64 lane))

/-- The rounding a draw gives: bits [63:40] are compared (R160). -/
def drawRnd (sr : Bool) (key : Dword) (unit d lane : Nat) : Rnd :=
  if sr then .sto (getField (draw key unit d lane) 63 40) else .rne

/-! ## The functions of R501 -/

/-- `a / b` rounded to the nearest integer, ties to even. -/
def rneDiv (a b : Nat) : Nat :=
  let t := a / b
  let r := a % b
  if 2 * r > b || (2 * r == b && t % 2 == 1) then t + 1 else t

/-- The integer square root, bit by bit. -/
def isqrtFrom (n : Nat) : Nat → Nat → Nat
  | 0, r => r
  | k + 1, r => isqrtFrom n k (if (r + 2 ^ k) * (r + 2 ^ k) ≤ n then r + 2 ^ k else r)

/-- The factorial. -/
def fact : Nat → Nat
  | 0 => 1
  | n + 1 => (n + 1) * fact n

/-- T_R[i] (R501). -/
def tabR (version i : Nat) : Nat :=
  if version == 1 then rneDiv (2 ^ 24 * 512) (513 + 2 * i) else (Config.tableR version i).toNat

/-- T_S[256p + j] (R501). -/
def tabS (version p j : Nat) : Nat :=
  if version == 1 then
    let a := 2 ^ 48 * 512
    let b := (1 + p) * (513 + 2 * j)
    let t := isqrtFrom (a / b) 25 0
    if 4 * a > (2 * t + 1) * (2 * t + 1) * b || (4 * a == (2 * t + 1) * (2 * t + 1) * b && t % 2 == 1) then t + 1 else t
  else (Config.tableS version (256 * p + j)).toNat

/-- The numerator of L over 2^64 (R501); 0xB172_17F7_D1CF_79AC is rne(2^64 × ln 2). -/
def numL (version : Nat) : Nat := if version == 1 then 0xB17217F7D1CF79AC else Config.expL version

/-- The numerator of c_j over 2^62 (R501). -/
def numC (version j : Nat) : Nat := if version == 1 then rneDiv (2 ^ 62) (fact j) else Config.expC version j

/-- VECTOR.RCP of a nonzero finite magnitude m × 2^e: y2 × 2^−e of R501. -/
def rcpExact (version : Nat) (neg : Bool) (m : Nat) (e : Int) : FV :=
  let k := Nat.log2 m
  let mm : FV := .fin false m (-(k : Int))
  let i := (m - 2 ^ k) * 256 / 2 ^ k
  let y0 : FV := .fin false (tabR version i) (-24)
  let two : FV := .fin false 2 0
  let y1 := y0.mul (two.add (mm.mul y0).neg)
  let y2 := y1.mul (two.add (mm.mul y1).neg)
  (y2.scale (-(e + (k : Int)))).mul (.fin neg 1 0)

/-- VECTOR.RSQ of a positive finite m × 2^e: y2 × 2^−q of R501. -/
def rsqExact (version : Nat) (m : Nat) (e : Int) : FV :=
  let k := Nat.log2 m
  let ex := e + (k : Int)
  let p := (ex % 2).toNat
  let q := (ex - (p : Int)) / 2
  let v : FV := .fin false m ((p : Int) - (k : Int))
  let j := (m - 2 ^ k) * 256 / 2 ^ k
  let y0 : FV := .fin false (tabS version p j) (-24)
  let three : FV := .fin false 3 0
  let st : FV → FV := fun y => (y.mul (three.add (v.mul (y.mul y)).neg)).scale (-1)
  (st (st y0)).scale (-q)

/-- The polynomial c_0 + c_1 r + … from c_j on, by Horner's rule. -/
def hornerFrom (version : Nat) (r : FV) (j : Nat) : Nat → FV
  | 0 => .fin false (numC version j) (-62)
  | n + 1 => (FV.fin false (numC version j) (-62)).add (r.mul (hornerFrom version r (j + 1) n))

/-- VECTOR.EXP of a finite value: P × 2^k of R501. -/
def expExact (version : Nat) (neg : Bool) (m : Nat) (e : Int) : FV :=
  let l := numL version
  -- x / L + 1/2 = (2 x 2^64 + l) / (2 l), with x = ± m × 2^e
  let sm : Int := if neg then -(m : Int) else m
  let k : Int :=
    if e + 65 ≥ 0 then (sm * 2 ^ (e + 65).toNat + l) / (2 * (l : Int))
    else (sm + l * 2 ^ (-(e + 65)).toNat) / (2 * (l : Int) * 2 ^ (-(e + 65)).toNat)
  let r := (FV.fin neg m e).add ((FV.fin (decide (k < 0)) (k.natAbs * l) (-64)).neg)
  (hornerFrom version r 0 8).scale k

end Sys2Proof.Machine
end

