-- ==== Sys2Proof/Machine/Operands.lean ====
section
/-!
DEFINITION. The operand forms: the instruction word of each format (R44, R46), the fields an opcode must leave 0
(R45), and the values operands name.
-/

namespace Sys2Proof.Machine

open Sys2Proof

/-- One bit as a bit vector. -/
def bit1 (b : Bool) : BitVec 1 := BitVec.ofBool b

/-- The word of a format S instruction. -/
def wordS (opc : Byte) (f : FmtS) : Dword :=
  opc ++ f.pg ++ bit1 f.pn ++ f.sd ++ f.sa ++ f.sb ++ bit1 f.i ++ f.mod ++ f.imm

/-- The word of a format B instruction. -/
def wordB (opc : Byte) (f : FmtB) : Dword :=
  opc ++ f.pg ++ bit1 f.pn ++ f.sa ++ f.sb ++ f.cond ++ f.rsv ++ f.off

/-- The word of a format V instruction. -/
def wordV (opc : Byte) (f : FmtV) : Dword :=
  opc ++ f.pg ++ bit1 f.pn ++ f.vd ++ f.va ++ f.vb ++ f.vc ++ bit1 f.sr ++ f.ss ++ f.fmt ++ f.mod ++ f.imm

/-- The word of a format D instruction. -/
def wordD (opc : Byte) (f : FmtD) : Dword :=
  opc ++ f.pg ++ bit1 f.pn ++ f.ad ++ f.doff ++ f.count ++ f.tk ++ f.unit ++ f.mod

/-- The word of a format M instruction. -/
def wordM (opc : Byte) (f : FmtM) : Dword :=
  opc ++ f.pg ++ bit1 f.pn ++ f.src ++ f.tgt ++ f.sl ++ f.ctx ++ f.tk ++ f.ring ++ f.mod

/-- The word of a format Y instruction. -/
def wordY (opc : Byte) (f : FmtY) : Dword :=
  opc ++ f.pg ++ bit1 f.pn ++ f.tk ++ f.cnt ++ f.sa ++ f.imm

/-- The second scalar operand: IMM sign-extended with I = 1, else s[SB] (R46). -/
def Seq.opB (q : Seq) (f : FmtS) : Dword := if f.i then f.imm.signExtend 64 else q.rs f.sb

/-- SB and IMM of an instruction with a second operand: the one I does not name is unused and must be 0 (R45). -/
def okB (f : FmtS) : Bool := if f.i then f.sb == 0 else f.imm == 0

/-- No second operand: SB, I and IMM must be 0 (R45). -/
def okNoB (f : FmtS) : Bool := f.sb == 0 && !f.i && f.imm == 0

/-- A field that names an a register: bit 4 must be 0 (R46). -/
def okA (r : BitVec 5) : Bool := !r.getLsbD 4

/-- A field that names a p register: bits 4 and 3 must be 0 (R46). -/
def okP (r : BitVec 5) : Bool := !r.getLsbD 4 && !r.getLsbD 3

/-- The a register a checked 5-bit field names. -/
def aOf (r : BitVec 5) : BitVec 4 := r.extractLsb' 0 4

/-- The p register a checked 5-bit field names. -/
def pOf (r : BitVec 5) : BitVec 3 := r.extractLsb' 0 3

/-- A signed offset added to a 64-bit address, as an integer. -/
def effAddr (a : Dword) (off : Int) : Int := (a.toNat : Int) + off

/-- Whether `n` bytes at `a + off` leave the scratchpad, or `a` is not a scratchpad address (R31). -/
def spadRangeBad (a : Dword) (off : Int) (n : Nat) : Bool :=
  decide (a.toNat ≥ 0x2000000) || decide (effAddr a off < 0) || decide (effAddr a off + (n : Int) > 0x2000000)

/-- COUNT of format D: 0 means 65,536 (R46). -/
def countOf (f : FmtD) : Nat := if f.count == 0 then 65536 else f.count.toNat

/-- The descriptor address of format D: a[AD] + DOFF × 64 (R46). -/
def Seq.descAddr (q : Seq) (f : FmtD) : Nat := (q.ra f.ad).toNat + f.doff.toNat * 64

/-- The exception causes of reaching a 64-byte descriptor: SPAD_RANGE and ALIGN (R31, R46). -/
def Seq.descCauses (q : Seq) (f : FmtD) : List (Bool × Exc) :=
  [(spadRangeBad (q.ra f.ad) (f.doff.toNat * 64 : Nat) 64, .spadRange), (q.descAddr f % 64 != 0, .align)]

end Sys2Proof.Machine
end

