-- ==== Sys2Proof/Machine/Vector.lean ====
section
/-!
DEFINITION. The VECTOR instructions (R47, R153 to R170, R497, R501).
-/

namespace Sys2Proof.Machine

open Sys2Proof

/-- The exact value of a lane word in format FMT (R46): int32, fp32, or bf16 in bits [15:0]. -/
def laneVal (fmt : Nat) (w : Word) : FV :=
  match fmt with
  | 0 => FV.ofInt w.toInt
  | 1 => fp32.decode w.toNat
  | _ => bf16.decode (w.toNat % 65536)

/-- An integer result clamped to int32 (R155). -/
def clampInt (i : Int) : NumR :=
  if i > 2147483647 then ⟨0x7FFFFFFF, 1, false⟩
  else if i < -2147483648 then ⟨0x80000000, 1, false⟩
  else ⟨ofSigned 32 i, 0, false⟩

/-- A float result in lane format FMT; a NaN from operands that are not NaN sets VEC_STAT.NAN (R154). -/
def floatLane (fmt : Nat) (rnd : Rnd) (nanIn : Bool) (v : FV) : NumR :=
  let r := (if fmt == 1 then fp32 else bf16).arith rnd v
  if v.isNan && !nanIn then { r with fl := r.fl ||| 4 } else r

/-- A lane of VECTOR.ADD, SUB, MUL or FMA: exact, then clamped or rounded once (R154, R155). -/
def arithLane (fmt : Nat) (rnd : Rnd) (fi : Int → Int → Int → Int) (ff : FV → FV → FV → FV) (x y z : Word) : NumR :=
  if fmt == 0 then clampInt (fi x.toInt y.toInt z.toInt)
  else
    let a := laneVal fmt x
    let b := laneVal fmt y
    let c := laneVal fmt z
    floatLane fmt rnd (a.isNan || b.isNan || c.isNan) (ff a b c)

/-- The canonical NaN of a lane format. -/
def laneNan (fmt : Nat) : Nat := if fmt == 1 then fp32.nan else bf16.nan

/-- The bits of a lane a format uses: all 32, or [15:0] for bf16. -/
def laneBits (fmt : Nat) (w : Word) : Nat := if fmt == 2 then w.toNat % 65536 else w.toNat

/-- A lane of VECTOR.MIN or MAX (R156). -/
def minmaxLane (fmt : Nat) (isMax : Bool) (x y : Word) : NumR :=
  let a := laneVal fmt x
  let b := laneVal fmt y
  if a.isNan || b.isNan then ⟨laneNan fmt, 0, false⟩
  else
    let first := if isMax then !a.before b else !b.before a
    ⟨laneBits fmt (if first then x else y), 0, false⟩

/-- Writes the enabled lanes of v[vd]; the other lanes keep their values (R32). -/
def Seq.wLanes (q : Seq) (vd : BitVec 4) (mask : Mask) (g : Nat → Word) : Seq :=
  let old := q.rv vd
  q.wv vd (Vector.ofFn (fun i : Fin 128 => if mask.getLsbD i.val then g i.val else old.get i))

/-- The enabled lanes, ascending. -/
def lanesOf (mask : Mask) : List Nat := (List.range 128).filter (fun i => mask.getLsbD i)

/-- The VEC_STAT bits a set of lanes sets. -/
def flagsOf (ls : List Nat) (g : Nat → NumR) : Nat := ls.foldl (fun a i => a ||| (g i).fl) 0

/-- Adds to a pair of clip statistics, saturating at 2^64 − 1 (R169). -/
def Channel.count64 (x : Channel) (o n : Nat) : Channel :=
  let v := (x.reg64 o).toNat + n
  x.setReg64 o (if v ≥ 2 ^ 64 then BitVec.allOnes 64 else BitVec.ofNat 64 v)

/-- Counts conversions at pair `k`: the values converted and the values clipped (R169). -/
def Channel.countPair (x : Channel) (k : Nat) (ls : List Nat) (g : Nat → NumR) : Channel :=
  (x.count64 (QNT_CLIP k) (ls.filter (fun i => (g i).clip)).length).count64 (QNT_TOT k) ls.length

/-- Writes lane results under the guard mask and sets VEC_STAT. -/
def writeLanes (s : State) (c : ChId) (f : FmtV) (g : Nat → NumR) : State :=
  s.modChan c (fun x =>
    let mask := x.seq.lanes f.pg f.pn
    let x := x.orReg VEC_STAT (BitVec.ofNat 32 (flagsOf (lanesOf mask) g))
    x.modSeq (fun q => q.wLanes f.vd mask (fun i => BitVec.ofNat 32 (g i).w)))

/-- The v registers a VECTOR instruction reads or writes: the fields that name one in its opcode (R47, R163, R166, R167, R497).
The second source of a shift or a quantisation is one only where the lanes give the amounts. -/
def vUses (opc : Byte) (f : FmtV) : List (BitVec 4) :=
  match opc.toNat with
  | 0x33 => [f.vd, f.va, f.vb, f.vc]
  | 0x37 => if f.mod.getLsbD 2 then [f.vd, f.va, f.vb] else [f.vd, f.va]
  | 0x38 | 0x39 | 0x3A | 0x3B | 0x3C | 0x3D => [f.vd, f.va]
  | 0x3E => [f.va, f.vb]
  | 0x40 | 0x41 | 0x42 => [f.vd]
  | 0x44 => if f.mod.getLsbD 7 then [f.vd, f.va, f.vb] else [f.vd, f.va]
  | 0x46 => [f.va]
  | _ => [f.vd, f.va, f.vb]

/-- Issues a format V instruction. It is never skipped as a whole (R32). FMT 3 to 15 is reserved, and SR may be 1 only
where `srOk` (R159). FMT 1 and 2 are legal in every format V instruction but SHIFT, also where the result does not depend on it
(LOGIC, SEL, BCAST, PERM, EXTR): R45 does not say whether they use the field. (DESIGN CHOICE, log entry 56.) It waits for v registers an array has yet to write (R40). With SR = 1 the vector unit's draw counter advances by 1 (R161). -/
def issueV (s : State) (c : ChId) (opc : Byte) (f : FmtV) (srOk legal : Bool) (body : State → Issue) : State :=
  s.issue c (wordV opc f) (f.fmt.toNat < 3 && (srOk || !f.sr) && legal) (never f.pg f.pn) false (fun s =>
    if (vUses opc f).any (fun r => (s.chan c).seq.vpend.getLsbD r.toNat) then .stall .unit
    else match body s with
    | .done t => .done (if f.sr then t.modChan c (fun x => { x with draws := x.draws.set 0 (x.draws.get 0 + 1) }) else t)
    | o => o)

/-- The rounding of lane `i`: to nearest, or by the vector unit's draw (R160). -/
def laneRnd (x : Channel) (f : FmtV) (i : Nat) : Rnd := drawRnd f.sr x.seq.key 0 (x.draws.get 0).toNat i

/-- Lane `i` of v[r]. -/
def lane (q : Seq) (r : BitVec 4) (i : Nat) : Word := (q.rv r).toList.getD i 0

/-- Fields that register forms with two sources leave 0: VC, SS, MOD, IMM. -/
def okV2 (f : FmtV) : Bool := f.vc == 0 && f.ss == 0 && f.imm == 0

/-- VECTOR.ADD, SUB, MUL and FMA: one shape; only FMA has a third operand. -/
def vecArith (s : State) (c : ChId) (opc : Byte) (f : FmtV) (legal : Bool) (fi : Int → Int → Int → Int)
    (ff : FV → FV → FV → FV) : State :=
  issueV s c opc f true (legal && f.ss == 0 && f.imm == 0 && f.mod == 0) (fun s =>
    let x := s.chan c
    .done (writeLanes s c f (fun i =>
      arithLane f.fmt.toNat (laneRnd x f i) fi ff (lane x.seq f.va i) (lane x.seq f.vb i) (if opc == 0x33 then lane x.seq f.vc i else 0))))

/-- VECTOR.ADD (R154, R155). -/
def execVectorAdd (ch : ChId) (f : FmtV) (s : State) : Out :=
  .next (vecArith s ch 0x30 f (f.vc == 0) (fun x y _ => x + y) (fun a b _ => a.add b))

/-- VECTOR.SUB (R154, R155). -/
def execVectorSub (ch : ChId) (f : FmtV) (s : State) : Out :=
  .next (vecArith s ch 0x31 f (f.vc == 0) (fun x y _ => x - y) (fun a b _ => a.add b.neg))

/-- VECTOR.MUL (R154, R155). -/
def execVectorMul (ch : ChId) (f : FmtV) (s : State) : Out :=
  .next (vecArith s ch 0x32 f (f.vc == 0) (fun x y _ => x * y) (fun a b _ => a.mul b))

/-- VECTOR.FMA (R154, R155): one rounding. -/
def execVectorFma (ch : ChId) (f : FmtV) (s : State) : Out :=
  .next (vecArith s ch 0x33 f true (fun x y z => x * y + z) (fun a b c => (a.mul b).add c))

/-- VECTOR.MIN and MAX: one shape. -/
def vecMinmax (s : State) (c : ChId) (opc : Byte) (f : FmtV) (isMax : Bool) : State :=
  issueV s c opc f false (okV2 f && f.mod == 0) (fun s =>
    let q := (s.chan c).seq
    .done (writeLanes s c f (fun i => minmaxLane f.fmt.toNat isMax (lane q f.va i) (lane q f.vb i))))

/-- VECTOR.MIN (R156). -/
def execVectorMin (ch : ChId) (f : FmtV) (s : State) : Out := .next (vecMinmax s ch 0x34 f false)

/-- VECTOR.MAX (R156). -/
def execVectorMax (ch : ChId) (f : FmtV) (s : State) : Out := .next (vecMinmax s ch 0x35 f true)

/-- A lane result that sets no status. -/
def plain (w : Word) : NumR := ⟨w.toNat, 0, false⟩

/-- VECTOR.LOGIC (R47). -/
def execVectorLogic (ch : ChId) (f : FmtV) (s : State) : Out :=
  .next (issueV s ch 0x36 f false (okV2 f && f.mod.toNat < 4) (fun s =>
    let q := (s.chan ch).seq
    .done (writeLanes s ch f (fun i => plain (logicOp f.mod.toNat (lane q f.va i) (lane q f.vb i))))))

/-- A lane shift (R497): an amount of 32 or more gives 0, or copies of the sign bit for an arithmetic right shift. -/
def shiftLane (kind : Nat) (w : Word) (n : Nat) : Word :=
  match kind with
  | 0 => if n ≥ 32 then 0 else w <<< n
  | 1 => if n ≥ 32 then 0 else w >>> n
  | _ => w.sshiftRight (min n 31)

/-- VECTOR.SHIFT (R497). -/
def execVectorShift (ch : ChId) (f : FmtV) (s : State) : Out :=
  let byLane := f.mod.getLsbD 2
  .next (issueV s ch 0x37 f false
    (f.mod.toNat % 4 != 3 && f.mod.toNat < 8 && f.fmt == 0 && f.vc == 0 && f.imm == 0 &&
      (if byLane then f.ss == 0 else f.vb == 0)) (fun s =>
    let q := (s.chan ch).seq
    .done (writeLanes s ch f (fun i => plain (shiftLane (f.mod.toNat % 4) (lane q f.va i)
      (if byLane then (lane q f.vb i).toNat else (q.rs f.ss).toNat))))))

/-- A conversion to the target TGT of R163, as the written lane. -/
def convertTgt (tgt : Nat) (rnd : Rnd) (v : FV) : NumR :=
  let se8 : NumR → NumR := fun r => { r with w := ofSigned 32 (toSigned 8 r.w) }
  match tgt with
  | 0 => convertInt 32 rnd v
  | 1 => fp32.convert rnd v
  | 2 => bf16.convert rnd v
  | 3 => convertInt 16 rnd v
  | 4 => convertInt 8 rnd v
  | 5 => convertInt 4 rnd v
  | 6 => se8 (e4m3.convert rnd v)
  | _ => se8 (e5m2.convert rnd v)

/-- Whether a conversion from FMT to TGT can clip, and is counted at pair 6 (R169). -/
def canClip (fmt tgt : Nat) : Bool :=
  match fmt with
  | 0 => tgt ≥ 3
  | 1 => tgt != 1
  | _ => tgt != 1 && tgt != 2

/-- Packs int4 lanes: lane i below 64 holds the nibbles of source lanes 2i and 2i + 1, a disabled one giving 0 (R163). -/
def packLane (mask : Mask) (g : Nat → NumR) (i : Nat) : Word :=
  let nib := fun j => if mask.getLsbD j then (g j).w % 16 else 0
  BitVec.ofNat 32 (ofSigned 32 (toSigned 8 (nib (2 * i) + 16 * nib (2 * i + 1))))

/-- The destination lanes PACK writes. -/
def packMask (mask : Mask) : Nat → Bool := fun i => i < 64 && (mask.getLsbD (2 * i) || mask.getLsbD (2 * i + 1))

/-- Writes converted lanes, packed with PACK, sets VEC_STAT, and counts at pair `k` when asked (R163, R169). -/
def writeConverted (s : State) (c : ChId) (f : FmtV) (pack : Bool) (pair : Option Nat) (g : Nat → NumR) : State :=
  let mask := (s.chan c).seq.lanes f.pg f.pn
  let s := if pack then
      s.modChan c (fun x =>
        let x := x.orReg VEC_STAT (BitVec.ofNat 32 (flagsOf (lanesOf mask) g))
        x.modSeq (fun q =>
          let old := q.rv f.vd
          q.wv f.vd (Vector.ofFn (fun i : Fin 128 => if packMask mask i.val then packLane mask g i.val else old.get i))))
    else writeLanes s c f g
  match pair with
  | none => s
  | some k => s.modChan c (fun x => x.countPair k (lanesOf mask) g)

/-- VECTOR.CVT (R162, R163): with TGT = FMT the lanes are copied unchanged. -/
def execVectorCvt (ch : ChId) (f : FmtV) (s : State) : Out :=
  let tgt := f.mod.toNat % 8
  let pack := f.mod.getLsbD 3
  .next (issueV s ch 0x38 f true
    (f.mod.toNat < 16 && (!pack || tgt == 5) && f.vb == 0 && f.vc == 0 && f.ss == 0 && f.imm == 0) (fun s =>
    let x := s.chan ch
    let fmt := f.fmt.toNat
    if tgt == fmt then .done (writeLanes s ch f (fun i => plain (lane x.seq f.va i)))
    else .done (writeConverted s ch f pack (if canClip fmt tgt then some 6 else none) (fun i =>
      convertTgt tgt (laneRnd x f i) (laneVal fmt (lane x.seq f.va i))))))

/-- An fp32 result of R501 taken to the lane format: bf16 rounds it once more (R157). -/
def specialLane (fmt : Nat) (r : NumR) : NumR :=
  if fmt == 1 then r
  else
    let t := bf16.arith .rne (fp32.decode r.w)
    ⟨t.w, t.fl ||| r.fl, false⟩

/-- VECTOR.EXP of a value, with the special values of R157. -/
def expValue (version : Nat) : FV → NumR
  | .nan => ⟨fp32.nan, 0, false⟩
  | .inf neg => if neg then ⟨0, 0, false⟩ else ⟨fp32.inf false, 0, false⟩
  | .fin neg m e =>
    let x : FV := .fin neg m e
    if m == 0 then ⟨0x3F800000, 0, false⟩
    else if !x.lt (fp32.decode 0x42B17218) then ⟨fp32.inf false, 2, false⟩
    else if !(FV.fin true 13627829 (-17)).lt x then ⟨0, 0, false⟩
    else fp32.arith .rne (expExact version neg m e)

/-- VECTOR.RCP of a value, with the special values of R157. -/
def rcpValue (version : Nat) : FV → NumR
  | .nan => ⟨fp32.nan, 0, false⟩
  | .inf neg => ⟨fp32.signBit neg, 0, false⟩
  | .fin neg m e =>
    if m == 0 then ⟨fp32.inf neg, 0, false⟩
    else if !(FV.fin false 1 (-128)).lt (.fin false m e) then ⟨fp32.inf neg, 2, false⟩
    else fp32.arith .rne (rcpExact version neg m e)

/-- VECTOR.RSQ of a value, with the special values of R157. -/
def rsqValue (version : Nat) : FV → NumR
  | .nan => ⟨fp32.nan, 0, false⟩
  | .inf neg => if neg then ⟨fp32.nan, 4, false⟩ else ⟨0, 0, false⟩
  | .fin neg m e =>
    if m == 0 then ⟨fp32.inf neg, 0, false⟩
    else if neg then ⟨fp32.nan, 4, false⟩
    else fp32.arith .rne (rsqExact version m e)

/-- VECTOR.EXP, RCP and RSQ: one shape; FMT = 0 is ILLEGAL (R157). -/
def vecSpecial (s : State) (c : ChId) (opc : Byte) (f : FmtV) (g : Nat → FV → NumR) : State :=
  issueV s c opc f false (f.fmt != 0 && f.vb == 0 && okV2 f && f.mod == 0) (fun s =>
    let x := s.chan c
    let version := getField (x.reg NUM_LIB) 15 0
    .done (writeLanes s c f (fun i => specialLane f.fmt.toNat (g version (laneVal f.fmt.toNat (lane x.seq f.va i))))))

/-- VECTOR.EXP (R157, R501). -/
def execVectorExp (ch : ChId) (f : FmtV) (s : State) : Out := .next (vecSpecial s ch 0x39 f expValue)

/-- VECTOR.RCP (R157, R501). -/
def execVectorRcp (ch : ChId) (f : FmtV) (s : State) : Out := .next (vecSpecial s ch 0x3A f rcpValue)

/-- VECTOR.RSQ (R157, R501). -/
def execVectorRsq (ch : ChId) (f : FmtV) (s : State) : Out := .next (vecSpecial s ch 0x3B f rsqValue)

/-- The most negative value of a lane format, which an empty RMAX gives (R48). -/
def laneLowest (fmt : Nat) : Word :=
  match fmt with | 0 => 0x80000000 | 1 => 0xFF800000 | _ => 0x0000FF80

/-- The maximum over words, NaN giving the canonical NaN (R156). -/
def maxOver (fmt : Nat) : List Word → Word
  | [] => laneLowest fmt
  | w :: ws => BitVec.ofNat 32 (minmaxLane fmt true w (maxOver fmt ws)).w

/-- One level of the reduction tree: adjacent pairs are added, each node rounded to the lane format (R158). -/
def sumPairs (fmt : Nat) : List NumR → List NumR
  | a :: b :: r =>
    let t := arithLane fmt .rne (fun x y _ => x + y) (fun u v _ => u.add v) (BitVec.ofNat 32 a.w) (BitVec.ofNat 32 b.w) 0
    ⟨t.w, t.fl ||| a.fl ||| b.fl, false⟩ :: sumPairs fmt r
  | l => l

/-- The 7-level tree over 128 lanes. -/
def sumTree (fmt : Nat) : Nat → List NumR → List NumR
  | 0, l => l
  | n + 1, l => sumTree fmt n (sumPairs fmt l)

/-- Writes a reduction's word to every enabled lane of vd and, zero-extended, to s[SS], whatever the mask (R32, R497). -/
def writeReduced (s : State) (c : ChId) (f : FmtV) (r : NumR) : State :=
  s.modChan c (fun x =>
    let x := x.orReg VEC_STAT (BitVec.ofNat 32 r.fl)
    x.modSeq (fun q =>
      (q.wLanes f.vd (q.lanes f.pg f.pn) (fun _ => BitVec.ofNat 32 r.w)).ws f.ss (BitVec.ofNat 64 r.w)))

/-- VECTOR.RMAX (R156, R497). -/
def execVectorRmax (ch : ChId) (f : FmtV) (s : State) : Out :=
  .next (issueV s ch 0x3C f false (f.vb == 0 && f.vc == 0 && f.imm == 0 && f.mod == 0) (fun s =>
    let q := (s.chan ch).seq
    let ws := (lanesOf (q.lanes f.pg f.pn)).map (lane q f.va)
    let m := maxOver f.fmt.toNat ws
    .done (writeReduced s ch f ⟨laneBits f.fmt.toNat m, 0, false⟩)))

/-- VECTOR.RSUM (R158, R497): disabled lanes enter as +0. (DEDUCED, log entry 14.) -/
def execVectorRsum (ch : ChId) (f : FmtV) (s : State) : Out :=
  .next (issueV s ch 0x3D f false (f.vb == 0 && f.vc == 0 && f.imm == 0 && f.mod == 0) (fun s =>
    let q := (s.chan ch).seq
    let mask := q.lanes f.pg f.pn
    let leaves := (List.range 128).map (fun i =>
      if mask.getLsbD i then (⟨laneBits f.fmt.toNat (lane q f.va i), 0, false⟩ : NumR) else ⟨0, 0, false⟩)
    .done (writeReduced s ch f ((sumTree f.fmt.toNat 7 leaves).headD ⟨0, 0, false⟩))))

/-- A lane comparison (R156, R497): LTU and GEU compare the raw words. -/
def cmpLane (fmt cond : Nat) (x y : Word) : Bool :=
  let a := laneVal fmt x
  let b := laneVal fmt y
  match cond with
  | 0 => a.eq b
  | 1 => !a.eq b
  | 2 => a.lt b
  | 3 => b.lt a || a.eq b
  | 4 => x.ult y
  | _ => !x.ult y

/-- A mask from its bits. -/
def maskOf (g : Nat → Bool) : Nat → Nat
  | 0 => 0
  | n + 1 => maskOf g n + (if g n then 2 ^ n else 0)

/-- VECTOR.CMP (R497): the bit of a disabled lane keeps its value. -/
def execVectorCmp (ch : ChId) (f : FmtV) (s : State) : Out :=
  .next (issueV s ch 0x3E f false (okV2 f && f.mod.toNat < 6 && !f.vd.getLsbD 3) (fun s =>
    seqDone' s ch (fun q =>
      let mask := q.lanes f.pg f.pn
      let pd : BitVec 3 := f.vd.extractLsb' 0 3
      let old := q.rp pd
      q.wp pd (BitVec.ofNat 128 (maskOf (fun i =>
        if mask.getLsbD i then cmpLane f.fmt.toNat f.mod.toNat (lane q f.va i) (lane q f.vb i) else old.getLsbD i) 128)))))
where
  seqDone' (s : State) (c : ChId) (f : Seq → Seq) : Issue := .done (s.modChan c (fun x => x.modSeq f))

/-- VECTOR.SEL (R156): moves bits unchanged; VC[2:0] names the predicate and VC[3] is 0. -/
def execVectorSel (ch : ChId) (f : FmtV) (s : State) : Out :=
  .next (issueV s ch 0x3F f false (f.ss == 0 && f.imm == 0 && f.mod == 0 && !f.vc.getLsbD 3) (fun s =>
    let q := (s.chan ch).seq
    let p := q.rp (f.vc.extractLsb' 0 3)
    .done (writeLanes s ch f (fun i => plain (if p.getLsbD i then lane q f.va i else lane q f.vb i)))))

/-- Bytes per lane of VECTOR.LD and ST: MOD[1:0] 0 gives 4, 1 gives 2, 2 gives 1. -/
def elemSize (f : FmtV) : Nat := match f.mod.toNat % 4 with | 0 => 4 | 1 => 2 | _ => 1

/-- The legal forms of VECTOR.LD and ST (R164). -/
def okMem (f : FmtV) : Bool :=
  f.mod.toNat < 8 && f.mod.toNat % 4 != 3 && (!f.mod.getLsbD 2 || (f.fmt != 0 && elemSize f == 1)) &&
  !(f.fmt == 2 && elemSize f == 4) && f.vb == 0 && f.vc == 0 && f.ss == 0

/-- The address of a memory vector: a[VA] + IMM × size (R497). -/
def vecAddr (q : Seq) (f : FmtV) : Int := effAddr (q.ra f.va) (f.imm.toInt * (128 * elemSize f : Nat))

/-- The exception causes of a memory vector (R31, R497). -/
def vecMemCauses (q : Seq) (f : FmtV) : List (Bool × Exc) :=
  [(spadRangeBad (q.ra f.va) (f.imm.toInt * (128 * elemSize f : Nat)) (128 * elemSize f), .spadRange),
   (vecAddr q f % 16 != 0, .align)]

/-- The fp8 format of a 1-byte float element: MOD[2] = 1 selects E5M2 (R164). -/
def fp8Of (f : FmtV) : FFmt := if f.mod.getLsbD 2 then e5m2 else e4m3

/-- Widens a memory element to its lane word (R164): always exact; a NaN becomes the canonical NaN (R153). -/
def widen (f : FmtV) (v : Nat) : Word :=
  let n := elemSize f
  if n == 4 then BitVec.ofNat 32 v
  else match f.fmt.toNat with
    | 0 => BitVec.ofNat 32 (ofSigned 32 (toSigned (8 * n) v))
    | 1 => BitVec.ofNat 32 (fp32.convert .rne ((if n == 2 then bf16 else fp8Of f).decode v)).w
    | _ => if n == 2 then BitVec.ofNat 32 v else BitVec.ofNat 32 (bf16.convert .rne ((fp8Of f).decode v)).w

/-- Narrows a lane word to its memory element (R164). -/
def narrow (f : FmtV) (rnd : Rnd) (w : Word) : NumR :=
  let n := elemSize f
  if n == 4 then plain w
  else match f.fmt.toNat with
    | 0 => convertInt (8 * n) rnd (FV.ofInt w.toInt)
    | 1 => (if n == 2 then bf16 else fp8Of f).convert rnd (laneVal 1 w)
    | _ => if n == 2 then ⟨w.toNat % 65536, 0, false⟩ else (fp8Of f).convert rnd (laneVal 2 w)

/-- VECTOR.LD (R164, R497). -/
def execVectorLd (ch : ChId) (f : FmtV) (s : State) : Out :=
  .next (issueV s ch 0x40 f false (okMem f) (fun s =>
    let x := s.chan ch
    guarded (vecMemCauses x.seq f) (
      let n := elemSize f
      let r := x.spadRead (vecAddr x.seq f).toNat (128 * n)
      .done (s.setChan ch (r.2.1.modSeq (fun q =>
        q.wLanes f.vd (q.lanes f.pg f.pn) (fun i => widen f (field r.1 (n * i) n))))))))

/-- The masked bytes of a vector store. -/
def storeBytes (mask : Mask) (n : Nat) (g : Nat → NumR) : List (Option Byte) :=
  ((List.range 128).map (fun i =>
    if mask.getLsbD i then (leBytes n (g i).w).map some else List.replicate n none)).flatten

/-- VECTOR.ST (R164, R497): disabled lanes are not stored; a partial write waits for its bank's merge buffer (R74). -/
def execVectorSt (ch : ChId) (f : FmtV) (s : State) : Out :=
  .next (issueV s ch 0x41 f true (okMem f) (fun s =>
    let x := s.chan ch
    guarded (vecMemCauses x.seq f) (
      let n := elemSize f
      let mask := x.seq.lanes f.pg f.pn
      let g : Nat → NumR := fun i => narrow f (laneRnd x f i) (lane x.seq f.vd i)
      let bs := storeBytes mask n g
      let a := (vecAddr x.seq f).toNat
      if x.mergeBusy a bs then .stall .merge
      else
        let x := (x.spadWriteHold a bs).1
        let raw := n == 4 || (f.fmt == 2 && n == 2)
        let x := x.orReg VEC_STAT (BitVec.ofNat 32 (flagsOf (lanesOf mask) g))
        .done (s.setChan ch (if raw then x else x.countPair 6 (lanesOf mask) g)))))

/-- VECTOR.BCAST (R47). -/
def execVectorBcast (ch : ChId) (f : FmtV) (s : State) : Out :=
  .next (issueV s ch 0x42 f false (f.va == 0 && f.vb == 0 && f.vc == 0 && f.imm == 0 && f.mod == 0) (fun s =>
    let q := (s.chan ch).seq
    .done (writeLanes s ch f (fun _ => plain ((q.rs f.ss).extractLsb' 0 32)))))

/-- The larger of two values, NaN ignored. -/
def maxIgnore (a b : FV) : FV := if a.isNan then b else if b.isNan then a else if a.lt b then b else a

/-- The smallest s in [k, 127] with m × 2^−s ≤ Qmax, or 127 (R166). -/
def smallestShift (m : FV) (qmax : FV) (k : Int) : Nat → Int
  | 0 => 127
  | n + 1 => if !qmax.lt (m.scale (-k)) then k else smallestShift m qmax (k + 1) n

/-- The shift of one row (R166). -/
def rowShift (m : FV) (tgt bias : Nat) : Int :=
  let qmax : FV := .fin false (match tgt with | 3 => 32767 | 4 => 127 | 5 => 7 | 6 => 448 | _ => 57344) 0
  let s0 : Int := match m with
    | .fin _ 0 _ => 0
    | .inf _ => 127
    | _ => smallestShift m qmax (-128) 255
  max (-128) (s0 - (bias : Int))

/-- VECTOR.QSHIFT (R166). -/
def execVectorQshift (ch : ChId) (f : FmtV) (s : State) : Out :=
  let tgt := f.mod.toNat % 8
  .next (issueV s ch 0x43 f false (3 ≤ tgt && f.mod.toNat < 32 && f.vc == 0 && f.imm == 0) (fun s =>
    let q := (s.chan ch).seq
    let ls := lanesOf (q.lanes f.pg f.pn)
    let m := ls.foldl (fun m i => maxIgnore (maxIgnore m (laneVal f.fmt.toNat (lane q f.va i)))
      (laneVal f.fmt.toNat (lane q f.vb i)).neg) (.fin false 0 0)
    let sh := rowShift m tgt (f.mod.toNat / 8)
    .done (s.modChan ch (fun x => x.modSeq (fun q =>
      (q.wLanes f.vd (q.lanes f.pg f.pn) (fun _ => BitVec.ofInt 32 sh)).ws f.ss (BitVec.ofInt 64 sh))))))

/-- A shift clamped to −128 … 127 (R167). -/
def clampShift (i : Int) : Int := max (-128) (min 127 i)

/-- VECTOR.QUANT (R167): convert(va × 2^−shift), counted at pair MOD[6:4]. -/
def execVectorQuant (ch : ChId) (f : FmtV) (s : State) : Out :=
  let tgt := f.mod.toNat % 8
  let pack := f.mod.getLsbD 3
  let byLane := f.mod.getLsbD 7
  let pair := f.mod.toNat / 16 % 8
  .next (issueV s ch 0x44 f true
    (2 ≤ tgt && (!pack || tgt == 5) && pair < 6 && f.mod.toNat < 256 && f.vc == 0 && f.imm == 0 &&
      (if byLane then f.ss == 0 else f.vb == 0)) (fun s =>
    let x := s.chan ch
    .done (writeConverted s ch f pack (some pair) (fun i =>
      let sh := clampShift (if byLane then (lane x.seq f.vb i).toInt else (x.seq.rs f.ss).toInt)
      convertTgt tgt (laneRnd x f i) ((laneVal f.fmt.toNat (lane x.seq f.va i)).scale (-sh))))))

/-- VECTOR.PERM (R47): lane i is va lane (vb lane i mod 128). -/
def execVectorPerm (ch : ChId) (f : FmtV) (s : State) : Out :=
  .next (issueV s ch 0x45 f false (okV2 f && f.mod == 0) (fun s =>
    let q := (s.chan ch).seq
    .done (writeLanes s ch f (fun i => plain (lane q f.va ((lane q f.vb i).toNat % 128))))))

/-- VECTOR.EXTR (R497): s[SS] is written only when the guard enables lane IMM[6:0]. -/
def execVectorExtr (ch : ChId) (f : FmtV) (s : State) : Out :=
  .next (issueV s ch 0x46 f false (f.vd == 0 && f.vb == 0 && f.vc == 0 && f.mod == 0 && f.imm.toNat < 128) (fun s =>
    let q := (s.chan ch).seq
    if (q.lanes f.pg f.pn).getLsbD f.imm.toNat then
      .done (s.modChan ch (fun x => x.modSeq (fun q => q.ws f.ss ((lane q f.va f.imm.toNat).zeroExtend 64))))
    else .done s))

end Sys2Proof.Machine
end

