-- ==== Sys2Proof/Machine/ArrOps.lean ====
section
/-!
DEFINITION. The datapath of the arrays (R124 to R147): fp32 tree arithmetic, accumulator access with its error
correction (R76), loading, one vector, check windows, and the conversion of a drain (R136).
(DESIGN CHOICE, log entry 30.)
-/

namespace Sys2Proof.Machine

open Sys2Proof

/-! ## fp32 words -/

/-- The value of an fp32 word. -/
def f32 (w : Word) : FV := fp32.decode w.toNat

/-- A value rounded to an fp32 word (R124). -/
def f32r (v : FV) : Word := BitVec.ofNat 32 (fp32.arith .rne v).w

/-- fp32 addition, rounded to nearest even. -/
def fadd (a b : Word) : Word := f32r ((f32 a).add (f32 b))

/-- fp32 multiplication. -/
def fmul (a b : Word) : Word := f32r ((f32 a).mul (f32 b))

/-- fp32 multiply-add with one rounding. -/
def ffma (a b c : Word) : Word := f32r (((f32 a).mul (f32 b)).add (f32 c))

/-- The magnitude of an fp32 word. -/
def fabs (w : Word) : Word := w &&& 0x7FFFFFFF

/-- Whether an fp32 word is an infinity or NaN. -/
def nonFinite (w : Word) : Bool := getField w 30 23 == 255

/-- One level of the fixed tree: neighbours in index order (R124). -/
def treePairs (f : Word → Word → Word) : List Word → List Word
  | a :: b :: r => f a b :: treePairs f r
  | l => l

/-- The tree of R124 and R158 over 2^n leaves. -/
def tree (f : Word → Word → Word) : Nat → List Word → Word
  | 0, l => l.headD 0
  | n + 1, l => tree f n (treePairs f l)

/-- The seven-level fp32 tree over 128 leaves. -/
def ftree (g : Nat → Word) : Word := tree fadd 7 ((List.range 128).map g)

/-- The sum of integers. -/
def isum (n : Nat) (g : Nat → Int) : Int := (List.range n).foldl (fun a k => a + g k) 0

/-- An integer modulo 2^32. -/
def wordOf (i : Int) : Word := BitVec.ofInt 32 i

/-! ## Accumulators (R76) -/

/-- What decoding the marked words of an entry does; answers whether one was uncorrectable. A read that does not rewrite
queues a corrected entry for Drizzle; a correction that finds the four places taken is counted and not queued, where R76 names
no effect. (DESIGN CHOICE, log entry 29.) -/
def Channel.accDecode (x : Channel) (k : Fin 2) (rew : Bool) : List (Nat × Nat) → Channel × Bool
  | [] => (x, false)
  | (w, m) :: r =>
    let y :=
      if m == 2 then
        (x.setReg ACC_UE_INFO (BitVec.ofNat 32 (w / 128 + 4096 * (w % 128) + 524288 * k.val))).raise 0x05
      else
        let y := x.bump ACC_CE_COUNT 1
        let a := y.accOf k
        if rew || a.drizzle.contains (w / 128) || a.drizzle.length ≥ 4 then y
        else y.setAcc k { a with drizzle := a.drizzle ++ [w / 128] }
    let q := Channel.accDecode y k rew r
    (q.1, m == 2 || q.2)

/-- Reads the first `cols` words of entry `e` of array `k`. -/
def Channel.accRead (x : Channel) (k : Fin 2) (e cols : Nat) (rew : Bool) : List Word × Channel × Bool :=
  let a := x.accOf k
  let q := x.accDecode k rew (a.err.filter (fun m => m.1 / 128 == e && m.1 % 128 < cols))
  ((List.range cols).map (fun j => sget 0 a.mem (128 * e + j)), q.1, q.2)

/-- Writes the first words of an entry, with fresh check bits. -/
def Channel.accWrite (x : Channel) (k : Fin 2) (e : Nat) (ws : List Word) : Channel :=
  let a := x.accOf k
  x.setAcc k { a with
    mem := ssets 0 a.mem (128 * e) ws
    err := a.err.filter (fun m => !(m.1 / 128 == e && m.1 % 128 < ws.length)) }

/-! ## Stationary operands (R126, R131) -/

/-- Array `k`. -/
def Channel.arr (x : Channel) (k : Fin 2) : Arr := x.arrs.get k

/-- Replaces array `k`. -/
def Channel.setArr (x : Channel) (k : Fin 2) (a : Arr) : Channel := { x with arrs := x.arrs.set k.val a k.isLt }

/-- Bytes of a stored row (R131). -/
def rowBytes (mode cbn : Nat) (wide : Bool) : Nat :=
  match mode with
  | 0 => if wide then 64 else 128
  | 1 => 64
  | 2 => if cbn == 0 then 64 else if cbn == 1 then 48 else 32
  | 3 => 128
  | _ => 256

/-- Elements per vector (R126). -/
def modeK (mode : Nat) : Nat := if mode == 1 then 256 else 128

/-- Bytes of an activation vector (R126). -/
def vecBytes (mode : Nat) : Nat := if mode == 4 then 256 else 128

/-- The signed nibble of column `j`: the low nibble is the even one. -/
def nibble (bs : List Byte) (j : Nat) : Int :=
  toSigned 4 (if j % 2 == 0 then (byteAt bs (j / 2)).toNat % 16 else (byteAt bs (j / 2)).toNat / 16)

/-- The code of column `j` of a stored row. -/
def codeAt (mode cbn : Nat) (wide : Bool) (bs : List Byte) (j : Nat) : BitVec 16 :=
  match mode with
  | 0 => BitVec.ofInt 16 (if wide then nibble bs j else (byteAt bs j).toInt)
  | 1 => BitVec.ofInt 16 (nibble bs j)
  | 2 =>
    let n := 4 - cbn
    BitVec.ofNat 16 (bitsOf (leNat bs) (n * j + n - 1) (n * j))
  | 3 => (byteAt bs j).zeroExtend 16
  | _ => BitVec.ofNat 16 (field bs (2 * j) 2)

/-- The weight codes of row `r`: columns beyond those in use latch zero. -/
def Arr.loadRow (a : Arr) (wide : Bool) (r : Nat) (bs : List Byte) : Arr :=
  { a with w := ssets 0 a.w (128 * r) ((List.range 128).map (fun j => if j < a.cols then codeAt a.mode a.cbn wide bs j else 0)) }

/-- W[r][j] as an integer, the selected codebook entry in codebook mode (R140). -/
def Arr.wInt (a : Arr) (r j : Nat) : Int :=
  let c := sget 0 a.w (128 * r + j)
  if a.mode == 2 then (byteAt a.cb c.toNat).toInt else c.toInt

/-- An fp8 code widened to fp32. -/
def fp8Word (e5 : Bool) (b : Byte) : Word := f32r ((if e5 then e5m2 else e4m3).decode b.toNat)

/-- W[r][j] as an fp32 word. -/
def Arr.wF (a : Arr) (r j : Nat) : Word :=
  let c := sget 0 a.w (128 * r + j)
  if a.mode == 3 then fp8Word false (c.extractLsb' 0 8) else (c ++ (0 : BitVec 16))

/-- Whether the mode is a float mode. -/
def floatMode (mode : Nat) : Bool := mode ≥ 3

/-- The checksum column formed at load (R141): c_k, and in float modes c′_k. -/
def Arr.checkColumn (a : Arr) : Arr :=
  if floatMode a.mode then
    { a with
      ck := (List.range 128).map (fun r => ftree (fun j => if r < a.rows && j < a.cols then a.wF r j else 0))
      ca := (List.range 128).map (fun r => ftree (fun j => if r < a.rows && j < a.cols then fabs (a.wF r j) else 0)) }
  else
    { a with
      ck := (List.range (modeK a.mode)).map (fun r => wordOf (if r < a.rows then isum a.cols (a.wInt r) else 0)), ca := [] }

/-! ## One vector (R124, R134, R143) -/

/-- Activation element `r` as an integer. -/
def actInt (mode : Nat) (bs : List Byte) (r : Nat) : Int := if mode == 1 then nibble bs r else (byteAt bs r).toInt

/-- Activation element `r` as an fp32 word. -/
def actF (mode : Nat) (e5 : Bool) (bs : List Byte) (r : Nat) : Word :=
  if mode == 3 then fp8Word e5 (byteAt bs r) else BitVec.ofNat 32 (field bs (2 * r) 2 * 65536)

/-- The output of column `j`: rows at or beyond the row count give +0 (R127). -/
def Arr.colOut (a : Arr) (e5 : Bool) (bs : List Byte) (j : Nat) : Word :=
  if floatMode a.mode then ftree (fun r => if r < a.rows then fmul (actF a.mode e5 bs r) (a.wF r j) else 0)
  else wordOf (isum a.rows (fun r => actInt a.mode bs r * a.wInt r j))

/-- cc_v of a vector (R141). -/
def Arr.ccOut (a : Arr) (e5 : Bool) (bs : List Byte) : Word :=
  if floatMode a.mode then ftree (fun r => if r < a.rows then fmul (actF a.mode e5 bs r) (a.ck.getD r 0) else 0)
  else (List.range a.rows).foldl (fun t r => t + wordOf (actInt a.mode bs r) * a.ck.getD r 0) 0

/-- t_v of a vector's outputs (R141). -/
def Arr.tOut (a : Arr) (ys : List Word) : Word :=
  if floatMode a.mode then ftree (fun j => ys.getD j 0) else ys.foldl (· + ·) 0

/-- m_v of a vector in a float mode (R141). -/
def Arr.mOut (a : Arr) (e5 : Bool) (bs : List Byte) : Word :=
  ftree (fun r => if r < a.rows then fmul (fabs (actF a.mode e5 bs r)) (a.ca.getD r 0) else 0)

/-- The exponent of ulp(x) of R143. -/
def ulpExp (w : Word) : Int := if getField w 30 23 == 0 then -149 else (getField w 30 23 : Int) - 150

/-- |p − q| ≤ k × ulp(m) (R143). -/
def within (p q m : Word) (k : Nat) : Bool :=
  match (f32 p).add (f32 q).neg with
  | .fin _ d e => !(FV.lt (.fin false k (ulpExp m)) (.fin false d e))
  | _ => true

/-- What a relation comes to. -/
inductive Rel where
  | pass
  | fail
  | skip
deriving DecidableEq, Repr

/-- U of MA_CHK_TOL; 0 acts as 1. -/
def Channel.chkU (x : Channel) : Nat := let u := getField (x.reg MA_CHK_TOL) 15 0; if u == 0 then 1 else u

/-- A vector relation (R143, R144). -/
def relVector (float : Bool) (u : Nat) (cc t m : Word) : Rel :=
  if float then
    if nonFinite cc || nonFinite t || nonFinite m then .skip else if within cc t m (17 * u) then .pass else .fail
  else if cc == t then .pass else .fail

/-- A window relation (R143, R144). -/
def CheckWin.rel (w : CheckWin) (u : Nat) : Rel :=
  if w.float then
    if nonFinite w.cc || nonFinite w.sc || nonFinite w.m then .skip
    else if within w.cc w.sc w.m ((w.n + 16) * u) then .pass else .fail
  else if w.cc == w.sc then .pass else .fail

/-- A failed relation or adder check of array `k` (R147): CHK_FAIL and the first failure's record, and the checker
event. -/
def Channel.chkFail (x : Channel) (k : Fin 2) (kind vec : Nat) (float : Bool) : Channel :=
  let y := if x.bit (MA_STAT k.val) 15 then x
           else x.setReg (MA_CHK_INFO k.val) (BitVec.ofNat 32 (kind + 4 * (vec % 65536) + 262144 * b2n float))
  (y.orReg (MA_STAT k.val) 0x8000).raise (BitVec.ofNat 8 (kind + 1))

/-- One accumulator word: add with saturation in integer modes, fp32 addition in float modes; whether it saturated. -/
def accAdd (float : Bool) (v y : Word) : Word × Bool :=
  if float then (fadd v y, false)
  else
    let t := v.toInt + y.toInt
    if t > 2147483647 then (0x7FFFFFFF, true) else if t < -2147483648 then (0x80000000, true) else (wordOf t, false)

/-- Adds tree outputs into entry `e`, or overwrites it. An uncorrectable word stops the add. -/
def Channel.accumulate (x : Channel) (k : Fin 2) (float : Bool) (e : Nat) (ovw : Bool) (ys : List Word) : Channel :=
  if ovw then x.accWrite k e ys
  else
    let p := x.accRead k e ys.length true
    if p.2.2 then p.2.1
    else
      let rs := (List.range ys.length).map (fun j => accAdd float (p.1.getD j 0) (ys.getD j 0))
      let n := (rs.filter (·.2)).length
      let y := p.2.1.accWrite k e (rs.map (·.1))
      if n == 0 then y else (y.orReg (MA_STAT k.val) 0x4000).bump (MA_SATCNT k.val) n

/-- Opens a check window (R142). -/
def Arr.openWin (a : Arr) : Arr :=
  { a with cc := 0, sk := List.replicate (modeK a.mode) 0, ak := if floatMode a.mode then List.replicate 128 0 else [] }

/-- The window's sums after one more vector (R142, R143). -/
def Arr.sumVector (a : Arr) (e5 : Bool) (bs : List Byte) (cc : Word) : Arr :=
  if floatMode a.mode then
    { a with cc := fadd a.cc cc
             sk := (List.range 128).map (fun r => fadd (a.sk.getD r 0) (actF a.mode e5 bs r))
             ak := (List.range 128).map (fun r => fadd (a.ak.getD r 0) (fabs (actF a.mode e5 bs r))) }
  else
    { a with cc := a.cc + cc
             sk := (List.range (modeK a.mode)).map (fun r => a.sk.getD r 0 + wordOf (actInt a.mode bs r)) }

/-- One vector through array `k`: its column outputs, the window's sums and the vector relation. `vec` is its index in the
window, and `fault` a fault of the hardware on it. -/
def Channel.streamVector (x : Channel) (k : Fin 2) (e5 : Bool) (bs : List Byte) (vec : Nat) (fault : ArrFault) :
    List Word × Channel :=
  let a := x.arr k
  let fl := floatMode a.mode
  let ys := (List.range a.cols).map (a.colOut e5 bs)
  let cc := a.ccOut e5 bs
  let m := if fl then a.mOut e5 bs else 0
  let y := (x.setArr k (a.sumVector e5 bs cc)).inc64 (MA_MAC_AC k.val) (if a.mode == 4 then 2 else 1)
  let v : BitVec 16 := BitVec.ofNat 16 vec
  (ys, match relVector fl x.chkU cc (a.tOut ys) m with
    | .skip => if fault = .adder v then (y.bump (MA_CHK_SKIP k.val) 1).chkFail k 2 vec fl else y.bump (MA_CHK_SKIP k.val) 1
    | .fail => y.chkFail k 0 vec fl
    | .pass =>
      if fault = .vector v then y.chkFail k 0 vec fl else if fault = .adder v then y.chkFail k 2 vec fl else y)

/-- One vector through array `k` into entry `e`. -/
def Channel.macVector (x : Channel) (k : Fin 2) (e : Nat) (ovw e5 : Bool) (bs : List Byte) (vec : Nat)
    (fault : ArrFault) : Channel :=
  let p := x.streamVector k e5 bs vec fault
  p.2.accumulate k (floatMode (x.arr k).mode) e ovw p.1

/-- Closes the window of `n` vectors (R142): it waits for its verdict. -/
def Channel.closeWin (x : Channel) (k : Fin 2) (no n : Nat) : Channel :=
  let a := x.arr k
  let fl := floatMode a.mode
  let sc := if fl then ftree (fun r => fmul (a.sk.getD r 0) (a.ck.getD r 0))
            else (List.range (modeK a.mode)).foldl (fun t r => t + a.sk.getD r 0 * a.ck.getD r 0) 0
  let m := if fl then ftree (fun r => fmul (a.ak.getD r 0) (a.ca.getD r 0)) else 0
  (x.setArr k { a with wins := a.wins ++ [⟨no, n, fl, a.cc, sc, m⟩] }).inc (MA_CHK_WIN k.val) 1

/-- Closes a window, first forming the oldest verdict where the verdict queue is full (R145). -/
def Channel.closeConvWin (x : Channel) (k : Fin 2) (no n : Nat) : Channel :=
  let a := x.arr k
  let y := match a.wins with
    | w :: r =>
      if a.wins.length < 8 then x
      else
        let z := x.setArr k { a with wins := r }
        match w.rel z.chkU with
        | .skip => z.bump (MA_CHK_SKIP k.val) 1
        | .fail => z.chkFail k 1 0 w.float
        | .pass => z
    | [] => x
  y.closeWin k no n

/-- Whether a CONV instruction that names array `k` was issued earlier and has not finished (R175). -/
def Channel.convEarlier (x : Channel) (k : Fin 2) (no : Nat) : Bool :=
  let hit : DIns → Bool := fun i => i.no < no && i.unit.getLsbD k.val
  x.win.queue.any hit || x.win.slots.toList.any (fun o => match o with | some i => hit i | none => false)

/-! ## Drains (R135, R136) -/

/-- Bytes of an element of the output format. -/
def ofmtSize (fmt : Nat) : Nat := match fmt with | 0 => 4 | 1 => 2 | 2 => 1 | 3 => 4 | 4 => 2 | _ => 1

/-- The conversion target of R163 that an output format names. -/
def ofmtTgt (fmt : Nat) : Nat := match fmt with | 0 => 0 | 1 => 3 | 2 => 4 | 3 => 1 | 4 => 2 | _ => 6

/-- One output element (R136): bias, shift, clamp, conversion; its code and whether it counts as clipped (R169). -/
def drainElem (afmt fmt : Nat) (clamp0 : Bool) (bias : Option Word) (sh : Int) (rnd : Rnd) (w : Word) : Nat × Bool :=
  if afmt == 0 then
    let b := match bias with | none => (w, false) | some b => accAdd false w b
    let v := b.1.toInt
    let t : Int := if sh ≥ 0 then roundInt rnd (decide (v < 0)) v.natAbs (-sh) else v * 2 ^ (-sh).toNat
    let u := max (-2147483648) (min 2147483647 t)
    let z := if clamp0 && decide (u < 0) then 0 else u
    let r := convertTgt (ofmtTgt fmt) rnd (FV.ofInt z)
    (r.w, b.2 || decide (u ≠ t) || r.clip)
  else
    let v := match bias with | none => f32 w | some b => f32 (fadd w b)
    let r := match v with
      | .fin _ _ _ => fp32.convert rnd (v.scale (-sh))
      | _ => fp32.arith .rne v
    let t := f32 (BitVec.ofNat 32 r.w)
    let z : FV := if clamp0 && t.lt (.fin false 0 0) then .fin false 0 0 else t
    let o := if fmt == 3 then fp32.arith .rne z else convertTgt (ofmtTgt fmt) rnd z
    (o.w, r.clip || o.clip)

end Sys2Proof.Machine
end

