-- ==== Sys2Proof/Machine/Move.lean ====
section
/-!
DEFINITION. The MOVE instructions of the Front and of ring descriptors (R80, R81, R97, R98, R105).
-/

namespace Sys2Proof.Machine

open Sys2Proof

/-- Issues a format M instruction. -/
def issueM (s : State) (c : ChId) (opc : Byte) (f : FmtM) (legal : Bool) (body : State → Issue) : State :=
  s.issue c (wordM opc f) legal (never f.pg f.pn) (!(s.chan c).seq.guard f.pg f.pn) body

/-- The instruction the sequencer is issuing, for the engine work it starts (R65). -/
def Channel.org (x : Channel) (w : Dword) : Org := ⟨x.seq.pc, w⟩

/-- The extent in bytes of rows of `rowLen` bytes at `pitch`. -/
def rowsExtent (rowLen rows pitch : Nat) : Nat := if rows == 0 then 0 else (rows - 1) * pitch + rowLen

/-- MOVE.FRONT (R97, R98): queues a stream and binds the producer side of its ring. -/
def execMoveFront (ch : ChId) (f : FmtM) (s : State) : Out :=
  let strided := f.mod.getLsbD 0
  .next (issueM s ch 0x88 f (f.mod.toNat < 2 && f.tgt == 0 && !(strided && f.sl == 31)) (fun s =>
    let x := s.chan ch
    let a := x.seq.ra f.src
    let l := x.seq.rs f.sl
    let l1 := x.seq.rs (f.sl + 1)
    let rowLen := if strided then getField l 31 0 else l.toNat
    let rows := if strided then getField l 63 32 else 1
    let pitch := if strided then getField l1 31 0 else 0
    let d := x.ring f.ring
    guarded
      [(strided && getField l1 63 32 != 0, .illegal),
       (decide (a.toNat % 64 ≠ 0) || decide (rowLen % 128 ≠ 0) || rowLen == 0 || rows == 0 ||
          (strided && (decide (pitch % 64 ≠ 0) || decide (pitch < rowLen))), .align),
       (!x.dramOk a.toNat (rowsExtent rowLen rows pitch), .dramRange),
       (!d.valid || !bindOk d.prod .front, .ring)]
      (if x.front.queue.length ≥ 8 then .stall .unit
       else
        let i : FrontIns := ⟨false, f.ctx, f.tk, f.ring, a.toNat, rowLen * rows, strided, rowLen, pitch, x.org (wordM 0x88 f)⟩
        let x := { x with front := { x.front with queue := x.front.queue ++ [i] }, seq := x.seq.begin f.tk }
        .done (s.setChan ch (x.bindProd f.ring .front)))))

/-- MOVE.FCANCEL (R105): queued behind the Front's earlier instructions. -/
def execMoveFcancel (ch : ChId) (f : FmtM) (s : State) : Out :=
  .next (issueM s ch 0x89 f (f.src == 0 && f.tgt == 0 && f.sl == 0 && f.ring == 0 && f.mod == 0) (fun s =>
    let x := s.chan ch
    if x.front.queue.length ≥ 8 then .stall .unit
    else
      let i : FrontIns := ⟨true, f.ctx, f.tk, 0, 0, 0, false, 0, 0, x.org (wordM 0x89 f)⟩
      .done (s.setChan ch { x with front := { x.front with queue := x.front.queue ++ [i] }, seq := x.seq.begin f.tk })))

/-- MOVE.RDESC (R80): writes a ring descriptor, or invalidates it when s[SL] is 0. -/
def execMoveRdesc (ch : ChId) (f : FmtM) (s : State) : Out :=
  .next (issueM s ch 0x92 f (f.tgt == 0 && f.ctx == 0 && f.tk == 0 && f.mod.toNat < 4) (fun s =>
    let x := s.chan ch
    let a := x.seq.ra f.src
    let n := (x.seq.rs f.sl).toNat
    let d := x.ring f.ring
    let bound := d.prod.isSome || d.cons.isSome
    if n == 0 then guarded [(bound, .ring)] (.done (s.setChan ch (x.setRing f.ring {})))
    else
      guarded
        [(decide (a.toNat % 128 ≠ 0), .align),
         (decide (a.toNat ≥ 0x2000000) || decide (a.toNat + n > 0x2000000), .spadRange),
         (decide (n % 128 ≠ 0) || bound, .ring)]
        (.done (s.setChan ch (x.setRing f.ring
          { base := a.extractLsb' 0 25, size := BitVec.ofNat 26 n,
            head := if f.mod.getLsbD 1 then BitVec.ofNat 32 n else 0, tail := 0,
            valid := true, live := f.mod.getLsbD 0 })))))

/-- MOVE.RADV (R81): advances HEAD (MOD 0) or TAIL (MOD 1) of a side no engine has bound. -/
def execMoveRadv (ch : ChId) (f : FmtM) (s : State) : Out :=
  .next (issueM s ch 0x93 f (f.src == 0 && f.tgt == 0 && f.ctx == 0 && f.tk == 0 && f.mod.toNat < 2) (fun s =>
    let x := s.chan ch
    let n := (x.seq.rs f.sl).toNat
    let d := x.ring f.ring
    let tailSide := f.mod.getLsbD 0
    guarded
      [(!d.valid || decide (n % 128 ≠ 0) ||
        (if tailSide then decide (n > d.fill) || d.cons.isSome else decide (n > d.free) || d.prod.isSome), .ring)]
      (.done (s.setChan ch (if tailSide then x.advTail f.ring n else x.advHead f.ring n)))))

end Sys2Proof.Machine
end

