-- ==== Sys2Proof/Machine/PtuOps.lean ====
section
/-!
DEFINITION. The operations of the PTU on descriptors, the free ring, page lists and sequence entries (R206 to R221).
(DEDUCED, log entry 26.)
-/

namespace Sys2Proof.Machine

open Sys2Proof

/-- Why an engine's work fails: an exception of R64, and for PAGE its cause and index (R221). -/
structure PErr where
  exc : Exc
  cause : Nat
  index : Nat
deriving DecidableEq, Repr

/-- What an operation of the PTU comes to: the channel with it applied; or, with nothing applied but what its reads have done (R73,
R95), its fault, or none when a word it needs is uncorrectable. -/
abbrev PRes (α : Type) := Except (Option PErr × Channel) α

/-- An operation fails: what its reads have done stays. -/
def Channel.pfail {α : Type} (x : Channel) (e : PErr) : PRes α := .error (some e, x)

/-- A PAGE fault (R221). -/
def pageErr (cause index : Nat) : PErr := ⟨.page, cause, index⟩

/-- A little-endian number of `n` bytes read from DRAM. -/
def Channel.dle (x : Channel) (a n : Nat) : Nat := rdLe x.dram.mem a n

/-- A number of `n` bytes that an operation reads, with the controller's effects (R95, R499); an uncorrectable word ends the
operation. -/
def Channel.pread (x : Channel) (a n : Nat) : PRes (Channel × Nat) :=
  let p := x.dramRead a n
  if p.2.2 then .error (none, p.2.1) else .ok (p.2.1, leNat p.1)

/-- Writes bytes of a burst that the operation has read: the whole burst is written, and nothing is read for it again (R214). -/
def Channel.burstPut (x : Channel) (a : Nat) (bs : List Byte) : Channel :=
  let b := a / 64 * 64
  x.dramWrite b (rdBytes x.dram.mem b (a - b) ++ bs ++ rdBytes x.dram.mem (a + bs.length) (b + 64 - (a + bs.length)))

/-- Writes a little-endian number of `n` bytes to DRAM. -/
def Channel.dput (x : Channel) (a n v : Nat) : Channel := x.dramWrite a (leBytes n v)

/-- The address of descriptor `h` (R208). -/
def Channel.descAt (x : Channel) (h : Nat) : Nat := (x.reg64 PTU_DESC_BASE).toNat + 8 * h

/-- Descriptor `h`. -/
def Channel.pdesc (x : Channel) (h : Nat) : Dword := BitVec.ofNat 64 (x.dle (x.descAt h) 8)

/-- Writes descriptor `h`, which the operation has read: an update costs one 64-byte read and one 64-byte write (R214). -/
def Channel.setPdesc (x : Channel) (h : Nat) (d : Dword) : Channel := x.burstPut (x.descAt h) (leBytes 8 d.toNat)

/-- PPN, REF, PIN, FMT and GEN of a descriptor (R208). -/
def pdPpn (d : Dword) : Nat := getField d 20 0
def pdRef (d : Dword) : Nat := getField d 36 21
def pdPin (d : Dword) : Nat := getField d 44 37
def pdFmt (d : Dword) : Nat := getField d 48 45
def pdGen (d : Dword) : Nat := getField d 56 49
def pdCow (d : Dword) : Bool := d.getLsbD 57
def pdPinned (d : Dword) : Bool := d.getLsbD 58
def pdAlloc (d : Dword) : Bool := d.getLsbD 59

/-- Counts an applied operation (R241). -/
def Channel.ptuCount (x : Channel) : Channel := x.inc64 PTU_OPS 1

/-- Stores a descriptor after an operation; a page with ALLOC and no count left is freed by that same operation (R217). -/
def Channel.ptuStore (x : Channel) (h : Nat) (d : Dword) : Channel :=
  let x := x.ptuCount
  if pdAlloc d && pdRef d == 0 && pdPin d == 0 && !pdPinned d then
    let d := setField (setBit (setBit d 59 false) 57 false) 56 49 (pdGen d + 1)
    let head := (x.reg PTU_FREE_HEAD).toNat
    let slot := head % 2 ^ getField (x.reg PTU_FREE_SIZE) 4 0
    (((x.dput ((x.reg64 PTU_FREE_BASE).toNat + 4 * slot) 4 h).inc PTU_FREE_HEAD 1).inc PTU_FREES 1).setPdesc h d
  else x.setPdesc h d

/-- The checks of a list entry (R220): the handle below PTU_NDESC, the frame inside the populated DRAM, the page
allocated and of the entry's generation; reserved bits are 0 (R498). -/
def Channel.ptuEntry (x : Channel) (h gen : Nat) : PRes (Channel × Dword) :=
  if h ≥ getField (x.reg PTU_NDESC) 21 0 then x.pfail ⟨.dramRange, 0, h⟩
  else do
    let p ← x.pread (x.descAt h) 8
    let d : Dword := BitVec.ofNat 64 p.2
    if getField d 63 60 != 0 then p.1.pfail ⟨.illegal, 0, h⟩
    else if !x.dramOk (pdPpn d * 4096) 4096 then p.1.pfail ⟨.dramRange, 0, h⟩
    else if !pdAlloc d || pdGen d != gen then p.1.pfail (pageErr 1 h)
    else .ok (p.1, d)

/-- A lookup (R220). -/
def Channel.ptuLookup (x : Channel) (h gen : Nat) : PRes (Channel × Dword) := do
  let q ← x.ptuEntry h gen
  pure (q.1.ptuCount, q.2)

/-- A pin (R215). -/
def Channel.ptuPin (x : Channel) (h gen : Nat) : PRes Channel := do
  let q ← x.ptuEntry h gen
  if pdPin q.2 == 255 then q.1.pfail (pageErr 4 h) else pure (q.1.ptuStore h (setField q.2 44 37 (pdPin q.2 + 1)))

/-- An unpin (R215). -/
def Channel.ptuUnpin (x : Channel) (h gen : Nat) : PRes Channel := do
  let q ← x.ptuEntry h gen
  if pdPin q.2 == 0 then q.1.pfail (pageErr 4 h) else pure (q.1.ptuStore h (setField q.2 44 37 (pdPin q.2 - 1)))

/-- An increment: REF + 1, and COW is set (R216). -/
def Channel.ptuInc (x : Channel) (h gen : Nat) : PRes Channel := do
  let q ← x.ptuEntry h gen
  if pdRef q.2 == 65535 then q.1.pfail (pageErr 3 h)
  else pure (q.1.ptuStore h (setBit (setField q.2 36 21 (pdRef q.2 + 1)) 57 true))

/-- A decrement (R216). -/
def Channel.ptuDec (x : Channel) (h gen : Nat) : PRes Channel := do
  let q ← x.ptuEntry h gen
  if pdRef q.2 == 0 then q.1.pfail (pageErr 3 h) else pure (q.1.ptuStore h (setField q.2 36 21 (pdRef q.2 - 1)))

/-- PINNED set or clear (R223). -/
def Channel.ptuPinned (x : Channel) (h gen : Nat) (b : Bool) : PRes Channel := do
  let q ← x.ptuEntry h gen
  pure (q.1.ptuStore h (setBit q.2 58 b))

/-- HANDLE and GEN of a page-list entry (R209). -/
def entHandle (e : Nat) : Nat := bitsOf e 20 0
def entGen (e : Nat) : Nat := bitsOf e 28 21

/-- The page-list entry naming a handle of a generation. -/
def mkEntry (h gen : Nat) : Nat := h + gen * 2 ^ 21

/-- Whether the reserved bits of a page-list entry are 0 (R209, R498). -/
def pageEntOk (e : Nat) : Bool := e < 2 ^ 29

/-- Takes a handle from the free ring and writes its new descriptor (R211, R218). -/
def Channel.ptuTake (x : Channel) (fmt : Nat) : PRes (Channel × Nat) :=
  let head := x.reg PTU_FREE_HEAD
  let tail := x.reg PTU_FREE_TAIL
  if head == tail then x.pfail (pageErr 2 0)
  else do
    let slot := tail.toNat % 2 ^ getField (x.reg PTU_FREE_SIZE) 4 0
    let p ← x.pread ((x.reg64 PTU_FREE_BASE).toNat + 4 * slot) 4
    let h := p.2
    if h ≥ getField (x.reg PTU_NDESC) 21 0 then p.1.pfail ⟨.dramRange, 0, h⟩
    else
      let q ← p.1.pread (x.descAt h) 8
      let old : Dword := BitVec.ofNat 64 q.2
      let d := setBit (setField (setField (setField (setBit (setBit old 57 false) 58 false) 36 21 1) 44 37 0) 48 45 fmt) 59 true
      .ok ((((q.1.ptuCount.inc PTU_FREE_TAIL 1).inc PTU_ALLOCS 1).setPdesc h d), h)

/-- A fresh allocation writes the list entry with it (R218). -/
def Channel.ptuAlloc (x : Channel) (fmt entry : Nat) : PRes Channel := do
  let q ← x.ptuTake fmt
  pure (q.1.dput entry 4 (mkEntry q.2 (pdGen (q.1.pdesc q.2))))

/-- Whether a write into a page copies it (R219). -/
def mustCopy (d : Dword) : Bool := pdRef d ≥ 2 || pdCow d

/-- The allocation of a copy-on-write (R218, stage 1): a copy pin on P, a new page Q of P's format, and the copy is
started; the list entry still names P. -/
def Channel.ptuCow (x : Channel) (h gen entry src : Nat) : PRes Channel := do
  let q ← x.ptuEntry h gen
  if pdPin q.2 == 255 then q.1.pfail (pageErr 4 h)
  else
    let t ← q.1.ptuTake (pdFmt q.2)
    let y := t.1.setPdesc h (setField q.2 44 37 (pdPin q.2 + 1))
    pure { y with ptu := { y.ptu with copies := y.ptu.copies ++ [⟨h, t.2, entry, src, 0⟩] } }

/-- The copy itself (R218, stage 2): the page's 4,096 bytes and its shift record. -/
def Channel.ptuCopyBytes (x : Channel) (p q : Nat) : Channel :=
  let r := x.dramRead (pdPpn (x.pdesc p) * 4096) 4096
  let y := r.2.1.dramWrite (pdPpn (x.pdesc q) * 4096) r.1
  let sh := (y.reg64 PTU_SHIFT_BASE).toNat
  let t := y.dramRead (sh + 128 * p) 128
  (t.2.1.dramWrite (sh + 128 * q) t.1).inc PTU_COPIES 1

/-- The release step (R218, stage 3): the entry names Q, and REF and PIN of P fall by 1. -/
def Channel.releaseOp (x : Channel) (c : PtuCopy) : PRes Channel := do
  let q ← x.pread (x.descAt c.q) 8
  let p ← q.1.pread (x.descAt c.p) 8
  let y := p.1.dput c.entry 4 (mkEntry c.q (pdGen (BitVec.ofNat 64 q.2)))
  let d : Dword := BitVec.ofNat 64 p.2
  pure (y.ptuStore c.p (setField (setField d 36 21 (pdRef d - 1)) 44 37 (pdPin d - 1)))

/-- The release step is applied; one that meets an uncorrectable word has only read. -/
def Channel.ptuRelease (x : Channel) (c : PtuCopy) : Channel := match x.releaseOp c with | .ok y => y | .error q => q.2

/-- The address of sequence entry `i` (R210). -/
def Channel.seqAt (x : Channel) (i : Nat) : Nat := (x.reg64 PTU_SEQ_BASE).toNat + 32 * i

/-- A field of a sequence entry. -/
def Channel.seqField (x : Channel) (i off n : Nat) : Nat := x.dle (x.seqAt i + off) n

/-- The checks of a sequence that must be LIVE with a generation (R221, cause 5); reserved bits are 0 (R498). -/
def Channel.seqLive (x : Channel) (i gen : Nat) : PRes Channel :=
  if i ≥ getField (x.reg PTU_NSEQ) 16 0 then x.pfail (pageErr 5 i)
  else do
    let p ← x.pread (x.seqAt i) 32
    let y := p.1
    if y.seqField i 17 1 ≥ 64 || y.seqField i 19 1 ≥ 2 || y.seqField i 28 4 != 0 then y.pfail ⟨.illegal, 0, i⟩
    else if !bitOf (y.seqField i 19 1) 0 || y.seqField i 18 1 != gen then y.pfail (pageErr 5 i)
    else .ok y

/-- Twice the bytes of an element of a page format (R206). -/
def pageE2 (tag : Nat) : Nat := match tag with | 1 => 1 | 4 => 4 | _ => 2

/-- The head dimension of GEOM's D field (R210). -/
def geomD (g : Nat) : Nat := 64 * 2 ^ (g % 4)

/-- Tokens of a page (R206). -/
def pageT (d tag : Nat) : Nat := 4096 / (d * pageE2 tag)

/-- `a / b` rounded up. -/
def ceilDiv (a b : Nat) : Nat := (a + b - 1) / b

/-- The PTU's record of a PAGE fault (R241): the first after PAGE_ERR was last cleared. `src` is 0 for the DMA engine,
1 for the attention unit and 2 for the PTU's queue. -/
def Channel.pageRecord (x : Channel) (e : PErr) (src : Nat) : Channel :=
  if e.exc ≠ .page then x
  else
    let x := if e.cause == 2 then x.orReg PTU_STAT 0x40 else x
    if x.bit PTU_STAT 7 then x
    else (x.setReg PTU_ERR_INFO (BitVec.ofNat 32 (e.cause + 16 * (e.index % 2 ^ 21) + 2 ^ 25 * src))).orReg PTU_STAT 0x80

/-- A fault of engine work: recorded, and raised imprecisely (R65, R221). -/
def State.engineFault (s : State) (c : ChId) (e : PErr) (src : Nat) (o : Org) : State :=
  (s.modChan c (fun x => x.pageRecord e src)).except c e.exc o true

/-- Engine work whose operation has not been applied: its reads' effects stay, and its fault is raised, if it has one. -/
def State.engineStop (s : State) (c : ChId) (q : Option PErr × Channel) (src : Nat) (o : Org) : State :=
  match q.1 with
  | none => s.setChan c q.2
  | some e => (s.setChan c q.2).engineFault c e src o

end Sys2Proof.Machine
end

