-- ==== Sys2Proof/Machine/Dma.lean ====
section
/-!
DEFINITION. The DMA engine (R110 to R122): MOVE.DMA, MOVE.PLIST, the operations that walks present to the PTU, and the events of
its transfers.
(DESIGN CHOICE, log entries 25 and 31.)
-/

namespace Sys2Proof.Machine

open Sys2Proof

/-- Context `k`. -/
def Channel.dctx (x : Channel) (k : BitVec 3) : DmaCtx := x.dma.ctx.get k.toFin

/-- Replaces context `k`. -/
def Channel.setDctx (x : Channel) (k : BitVec 3) (d : DmaCtx) : Channel :=
  { x with dma := { x.dma with ctx := x.dma.ctx.set k.toNat d k.isLt } }

/-! ## A transfer's geometry (R113, R118) -/

/-- The sides of a MOVE.DMA. -/
def DmaSet.srcDram (d : DmaSet) : Bool := d.mod.toNat % 16 == 0 || d.mod.toNat % 16 == 2
def DmaSet.dstDram (d : DmaSet) : Bool := d.mod.toNat % 16 == 1 || d.mod.toNat % 16 == 2
def DmaSet.dstRing (d : DmaSet) : Bool := d.mod.getLsbD 4
def DmaSet.srcRing (d : DmaSet) : Bool := d.mod.getLsbD 5
def DmaSet.twoD (d : DmaSet) : Bool := d.mod.getLsbD 6

/-- Bytes in a row. -/
def DmaSet.rowLen (d : DmaSet) : Nat := if d.twoD then getField d.len 31 0 else d.len.toNat

/-- Rows. -/
def DmaSet.rows (d : DmaSet) : Nat := if d.twoD then getField d.len 63 32 else 1

/-- Bytes in the transfer. -/
def DmaSet.total (d : DmaSet) : Nat := if d.plist then d.len.toNat else d.rowLen * d.rows

/-- The address of byte `i` of the plain source. -/
def DmaSet.srcAt (d : DmaSet) (i : Nat) : Nat := d.src.toNat + i / d.rowLen * getField d.pitch 31 0 + i % d.rowLen

/-- The address of byte `i` of the plain target. -/
def DmaSet.dstAt (d : DmaSet) (i : Nat) : Nat := d.dst.toNat + i / d.rowLen * getField d.pitch 63 32 + i % d.rowLen

/-- The next block of a transfer that has moved `i` bytes: a 128-byte step where a ring takes the bytes, else up to the next
128-byte boundary of the target, 64-byte bursts for DRAM to DRAM, within the row and the step of a source ring (R115, R117). R115 gives
the most a block holds, not where it is cut. (DESIGN CHOICE, log entry 31.) -/
def DmaSet.block (d : DmaSet) (i : Nat) : Nat :=
  if d.dstRing then 128
  else
    let g := if d.srcDram && d.dstDram then 64 else 128
    let n := min (min (g - d.dstAt i % g) (d.rowLen - i % d.rowLen)) (d.total - i)
    if d.srcRing then min n (128 - i % 128) else n

/-- Reads `n` plain source bytes from byte `i`, row by row; `fuel` bounds the rows. -/
def Channel.dmaGather (d : DmaSet) : Nat → Channel → Nat → Nat → List Byte × Channel × Bool
  | 0, x, _, _ => ([], x, false)
  | fuel + 1, x, i, n =>
    if n == 0 then ([], x, false)
    else
      let k := min n (d.rowLen - i % d.rowLen)
      let p := if d.srcDram then x.dramRead (d.srcAt i) k else x.spadRead (d.srcAt i) k
      let q := Channel.dmaGather d fuel p.2.1 (i + k) (n - k)
      (p.1 ++ q.1, q.2.1, p.2.2 || q.2.2)

/-- Writes plain target bytes from byte `i`, row by row. -/
def Channel.dmaScatter (d : DmaSet) : Nat → Channel → Nat → List Byte → Channel
  | 0, x, _, _ => x
  | fuel + 1, x, i, bs =>
    if bs.isEmpty then x
    else
      let k := min bs.length (d.rowLen - i % d.rowLen)
      let y := if d.dstDram then x.dramWrite (d.dstAt i) (bs.take k) else x.spadWrite (d.dstAt i) (bs.take k)
      Channel.dmaScatter d fuel y (i + k) (bs.drop k)

/-- What an attempt at a block came to: it has moved, a ring has no fill or space for it, or an uncorrectable codeword stopped it. -/
inductive Moved where
  | moved | waits | bad
deriving DecidableEq, Repr

/-- Moves one block of a MOVE.DMA (R115). The TAIL of a source ring advances with the last byte of its step (R82). A block whose
partial write meets an uncorrectable codeword has not moved (R74, R95). -/
def Channel.dmaBlock (x : Channel) (d : DmaSet) (i : Nat) : Channel × Moved :=
  let n := d.block i
  if (d.srcRing && (x.ring d.ring).fill < 128) || (d.dstRing && (x.ring d.ring).free < n) then (x, .waits)
  else
    let p := if d.srcRing then x.ringRead (x.ring d.ring) ((x.ring d.ring).tail + BitVec.ofNat 32 (i % 128)) n
             else x.dmaGather d (n + 1) i n
    if p.2.2 then (p.2.1, .bad)
    else
      let y := if d.dstRing then (p.2.1.ringWrite (p.2.1.ring d.ring) (p.2.1.ring d.ring).head p.1).advHead d.ring n
               else p.2.1.dmaScatter d (n + 1) i p.1
      if y.raised.length != p.2.1.raised.length then (y, .bad)
      else (if d.srcRing && (i + n) % 128 == 0 then y.advTail d.ring 128 else y, .moved)

/-- Moves blocks until the transfer has moved all its bytes or cannot go on; answers the bytes moved. -/
def Channel.dmaRun (d : DmaSet) : Nat → Channel → Nat → Channel × Nat × Moved
  | 0, x, i => (x, i, .waits)
  | fuel + 1, x, i =>
    if i ≥ d.total then (x, i, .moved)
    else
      let q := x.dmaBlock d i
      if q.2 = .moved then Channel.dmaRun d fuel q.1 (i + d.block i) else (q.1, i, q.2)

/-- Whether byte `i` of a transfer does not lie at a 128-byte boundary of its target (R117). -/
def DmaSet.offEdge (d : DmaSet) (i : Nat) : Bool := !d.dstRing && d.dstAt i % 128 != 0

/-- Moves at most `n` blocks more, and not the last: how far a transfer is that something stops while it runs. With `edge` it goes
on to the next 128-byte boundary of the target, or, where none is left, to its end (R117). -/
def Channel.dmaPart (d : DmaSet) (edge : Bool) : Nat → Nat → Channel → Nat → Channel × Nat
  | 0, _, x, i => (x, i)
  | fuel + 1, n, x, i =>
    if i ≥ d.total || (!(edge && d.offEdge i) && (n == 0 || i + d.block i ≥ d.total)) then (x, i)
    else
      let q := x.dmaBlock d i
      if q.2 = .moved then Channel.dmaPart d edge fuel (n - 1) q.1 (i + d.block i) else (q.1, i)

/-! ## Walks (R118 to R120, R213, R220) -/

/-- A walk presents an operation to the PTU, at most one per fc. -/
def Channel.present (x : Channel) (k : BitVec 3) (op : WalkKind) (fc : Nat) : Channel :=
  let at_ := max fc (x.ptu.wfc + 1)
  { x with ptu := { x.ptu with walk := x.ptu.walk ++ [⟨k, op, at_⟩], wfc := at_ } }

/-- Where the walk on context `k` stands. -/
def Channel.setWalk (x : Channel) (k : BitVec 3) (w : WalkSt) : Channel := x.setDctx k { x.dctx k with walk := w }

/-- The pins that a walk on context `k` holds or has asked for (R220). -/
def Channel.walkPins (x : Channel) (k : BitVec 3) : Nat :=
  (x.ptu.wpins.filter (fun p => p.1 == k.toNat)).length +
    (x.ptu.walk.filter (fun o => o.ctx == k && match o.kind with | .pin _ => true | _ => false)).length

/-- The PTU applies a walk's operation (R213, R220): a lookup or a pin that lands lets the walk read on. -/
def Channel.walkApply (x : Channel) (o : WalkOp) : PRes Channel :=
  match o.kind with
  | .seq i gen => (x.seqLive i gen).map (fun y => y.ptuCount.setWalk o.ctx (.ready 0))
  | .look e => (x.ptuLookup (entHandle e) (entGen e)).map (fun q => q.1.setWalk o.ctx (.ready e))
  | .pin e => (x.ptuPin (entHandle e) (entGen e)).map (fun y =>
      ({ y with ptu := { y.ptu with wpins := y.ptu.wpins ++ [(o.ctx.toNat, e)] } }).setWalk o.ctx (.ready e))
  | .unpin e => (x.ptuUnpin (entHandle e) (entGen e)).map (fun y =>
      { y with ptu := { y.ptu with wpins := y.ptu.wpins.erase (o.ctx.toNat, e) } })

/-- What a step of a walk comes to. -/
inductive WalkRes where
  | on (x : Channel)                      -- it has gone on, and can go on
  | wait (x : Channel)                    -- it waits: for the PTU, for ring space, or stopped by a checker event
  | fault (x : Channel) (e : PErr) (src : Nat)
deriving DecidableEq, Repr

/-- An uncorrectable read stops the running transfer (R121). -/
def Channel.dmaStick (x : Channel) : Channel := { x with dma := { x.dma with stuck := true } }

/-- The page-list entry at `a`: of the burst of 16 entries that the walk on context `k` has read ahead, or of the one it reads now
(R118). -/
def Channel.walkEntry (x : Channel) (k : BitVec 3) (a : Nat) : Nat × Channel × Bool :=
  let b := a / 64 * 64
  match (x.dctx k).ahead with
  | some (c, bs) =>
    if c == b then (field bs (a % 64) 4, x, false)
    else
      let p := x.dramRead b 64
      (field p.1 (a % 64) 4, p.2.1.setDctx k { p.2.1.dctx k with ahead := some (b, p.1) }, p.2.2)
  | none =>
    let p := x.dramRead b 64
    (field p.1 (a % 64) 4, p.2.1.setDctx k { p.2.1.dctx k with ahead := some (b, p.1) }, p.2.2)

/-- A walk takes the page-list entry at `a` and presents its page's operation (R119, R220). -/
def Channel.walkAsk (x : Channel) (k : BitVec 3) (a : Nat) (pin : Bool) (fc : Nat) : WalkRes :=
  if pin && x.walkPins k ≥ 4 then .wait x
  else
    let p := x.walkEntry k a
    let e := p.1
    let x := p.2.1
    if p.2.2 then .wait x.dmaStick
    else if !pageEntOk e then .fault x ⟨.illegal, 0, 0⟩ 0
    else .wait ((x.present k (if pin then .pin e else .look e) fc).setWalk k .asked)

/-- Copies the next steps of 128 bytes of `bs`, from byte `i` on, into a ring as far as its space allows (R82); answers the byte
reached. -/
def Channel.walkCopy (x : Channel) (r : BitVec 6) (bs : List Byte) (i : Nat) : Channel × Nat :=
  let n := min (bs.length - i) ((x.ring r).free / 128 * 128)
  if n == 0 then (x, i) else ((x.ringWrite (x.ring r) (x.ring r).head ((bs.drop i).take n)).advHead r n, i + n)

/-- A step of a page-list walk that has moved DONE bytes: the operation of the page it reaches, or, once that has landed, the page's
bytes as far as the ring has space, and the unpin after its last. -/
def Channel.plistStep (x : Channel) (k : BitVec 3) (d : DmaSet) (fc : Nat) : WalkRes :=
  let i := (x.dctx k).done
  let off := getField d.dst 11 0 + i
  let pin := d.mod.getLsbD 0
  match (x.dctx k).walk with
  | .asked => .wait x
  | .idle => x.walkAsk k (d.src.toNat + 4 * (off / 4096)) pin fc
  | .ready e =>
    let page := pdPpn (x.pdesc (entHandle e)) * 4096
    let n := min (min (4096 - off % 4096) (d.total - i)) ((x.ring d.ring).free / 128 * 128)
    if n == 0 then .wait x
    else
      let p := x.dramRead (page + off % 4096) n
      let y := p.2.1
      if p.2.2 then .wait y.dmaStick
      else
        let y := (y.ringWrite (y.ring d.ring) (y.ring d.ring).head p.1).advHead d.ring n
        let y := y.setDctx k { y.dctx k with done := i + n }
        if (off + n) % 4096 == 0 || i + n ≥ d.total then
          .on ((if pin then y.present k (.unpin e) fc else y).setWalk k .idle)
        else .on y

/-- Steps of a page-list walk until it has moved all its bytes or cannot go on. -/
def Channel.plistRun (k : BitVec 3) (d : DmaSet) (fc : Nat) : Nat → Channel → WalkRes
  | 0, x => .wait x
  | fuel + 1, x =>
    if (x.dctx k).done ≥ d.total then .on x
    else match x.plistStep k d fc with
      | .on y => Channel.plistRun k d fc fuel y
      | o => o

/-! ## Instructions -/

/-- Queues a DMA instruction and binds its ring. While DMA_CTRL.EN is 0 it is dropped on arrival (R122). -/
def dmaQueue (s : State) (c : ChId) (ctx : BitVec 3) (d : DmaSet) (prod cons : Bool) : Issue :=
  let x := s.chan c
  if !x.bit DMA_CTRL 0 then .done (s.setChan c (x.orReg DMA_STATUS 2))
  else if x.dma.queue.length ≥ 8 then .stall .unit
  else
    let x := { x with dma := { x.dma with queue := x.dma.queue ++ [(ctx, d)] }, issued := x.issued + 1, seq := x.seq.begin d.tk }
    let x := if prod then x.bindProd d.ring .dma else x
    .done (s.setChan c (if cons then x.bindCons d.ring .dma else x))

/-- The causes of one plain side (R31, R114). An empty transfer has no extent, but its address is one. -/
def Channel.sideCauses (x : Channel) (dram : Bool) (a : Dword) (n : Nat) : List (Bool × Exc) :=
  if dram then [(!x.dramOk a.toNat (max 1 n), .dramRange)]
  else [(decide (a.toNat ≥ 0x2000000) || decide (a.toNat + n > 0x2000000), .spadRange)]

/-- MOVE.DMA (R113, R114): a transfer for its context's shadow set. A length of more than 33 bits raises ILLEGAL, as the other
fields of R113 that must be 0 do. (DESIGN CHOICE, log entry 31.) -/
def execMoveDma (ch : ChId) (f : FmtM) (s : State) : Out :=
  let dir := f.mod.toNat % 16
  let tr := f.mod.getLsbD 4
  let sr := f.mod.getLsbD 5
  let twoD := f.mod.getLsbD 6
  let legal := f.mod.toNat < 128 && dir < 4 && f.ctx.toNat < 8 && !(tr && sr) &&
    !(tr && (dir == 1 || dir == 2)) && !(sr && (dir == 0 || dir == 2)) &&
    (!sr || f.src == 0) && (!tr || f.tgt == 0) && (sr || tr || f.ring == 0) && !(twoD && f.sl == 31)
  .next (issueM s ch 0x8A f legal (fun s =>
    let x := s.chan ch
    let q := x.seq
    let d : DmaSet :=
      ⟨x.issued, false, false, if sr then 0 else q.ra f.src, if tr then 0 else q.ra f.tgt, q.rs f.sl,
       if twoD then q.rs (f.sl + 1) else 0, f.mod, f.ring, f.tk, x.org (wordM 0x8A f)⟩
    let ringBad := (tr || sr) && (!(x.ring f.ring).valid ||
      !bindOk (if tr then (x.ring f.ring).prod else (x.ring f.ring).cons) .dma || d.total % 128 != 0)
    let big : Bool := if twoD then (sr && getField d.pitch 31 0 != 0) || (tr && getField d.pitch 63 32 != 0)
               else getField d.len 63 33 != 0
    guarded
      ((if sr then [] else x.sideCauses d.srcDram d.src (if d.total == 0 then 0 else rowsExtent d.rowLen d.rows (getField d.pitch 31 0))) ++
       (if tr then [] else x.sideCauses d.dstDram d.dst (if d.total == 0 then 0 else rowsExtent d.rowLen d.rows (getField d.pitch 63 32))) ++
       [(ringBad, .ring), (big, .illegal)])
      (dmaQueue s ch (f.ctx.extractLsb' 0 3) d tr sr)))

/-- MOVE.PLIST (R118): walks a page list into a ring. An a[AS] that is not 4-byte aligned raises ALIGN, where R118 names no
exception. (DESIGN CHOICE, log entry 31.) -/
def execMovePlist (ch : ChId) (f : FmtM) (s : State) : Out :=
  .next (issueM s ch 0x8B f (f.mod.toNat < 2 && f.ctx.toNat < 8) (fun s =>
    let x := s.chan ch
    let q := x.seq
    let d : DmaSet := ⟨x.issued, false, true, q.ra f.src, q.ra f.tgt, q.rs f.sl, 0, f.mod, f.ring, f.tk, x.org (wordM 0x8B f)⟩
    let entries := if d.len.toNat == 0 then 0 else (getField d.dst 11 0 + d.len.toNat + 4095) / 4096
    guarded
      ([(d.src.toNat % 4 != 0 || d.dst.toNat % 128 != 0, .align), (getField d.dst 63 12 != 0, .illegal),
        (!(x.ring f.ring).valid || !bindOk (x.ring f.ring).prod .dma || d.len.toNat % 128 != 0, .ring)] ++
       x.sideCauses true d.src (4 * entries))
      (dmaQueue s ch (f.ctx.extractLsb' 0 3) d true false)))

/-! ## Events -/

/-- Loads a context's shadow set (R110). -/
def Channel.dmaLoad (x : Channel) (k : BitVec 3) (d : DmaSet) : Channel :=
  let cx := x.dctx k
  x.setDctx k { cx with shadow := some d, last := if d.att then cx.last else some d, undef := none }

/-- The instruction at the head of the engine's queue loads its context's shadow set (R110). It waits while the shadow set is
full. -/
def execDmaContextLoad (ch : ChId) (s : State) : Out :=
  .next (s.modChan ch (fun x =>
    match x.dma.queue with
    | [] => x
    | (k, d) :: r =>
      if (x.dctx k).shadow.isSome then x else ({ x with dma := { x.dma with queue := r } }).dmaLoad k d))

/-- A shadow set passes to an empty active set (R110, R111). -/
def DmaCtx.pass (cx : DmaCtx) : DmaCtx :=
  if cx.active.isNone && cx.shadow.isSome then { cx with active := cx.shadow, shadow := none, done := 0, walk := .idle, ahead := none } else cx

/-- Each fc the shadow sets whose active set is empty pass to it (R110, R111). -/
def Channel.dmaTick (x : Channel) : Channel := { x with dma := { x.dma with ctx := x.dma.ctx.map DmaCtx.pass } }

/-- The context whose transfer is next: of the active sets, the one whose instruction issued first (R111). -/
def Channel.dmaNext (x : Channel) : Option (BitVec 3 × DmaSet) :=
  ((List.range 8).map (BitVec.ofNat 3)).foldl (fun o k =>
    match (x.dctx k).active, o with
    | none, _ => o
    | some d, some (_, e) => if d.no < e.no then some (k, d) else o
    | some d, none => some (k, d)) none

/-- Whether an instruction issued before `no` has a transfer that is not loaded yet: in the engine's queue, or an ATTN.APPEND or
ATTN.PAGE whose transfer the attention unit has yet to hand over (R111, R225, R231). -/
def Channel.dmaAhead (x : Channel) (no : Nat) : Bool :=
  x.dma.queue.any (fun q => q.2.no < no) ||
    x.attn.queue.any (fun i => i.no < no && (i.opc == 0x70 || i.opc == 0x71) && i.rcd.isEmpty)

/-- The next transfer of the start order begins, four fc after the one before has ended (R111). What PTU_WPIN kept of the context
through the disable bit (R241) goes with it: R241 does not say when its entries turn invalid. (DESIGN CHOICE, log entry 31.) -/
def execDmaTransferStart (ch : ChId) (s : State) : Out :=
  .next (s.modChan ch (fun x =>
    match x.dmaNext with
    | none => x
    | some (k, d) =>
      if x.dma.running.isSome || !x.engineWork || !x.bit DMA_CTRL 0 || decide (s.fc < x.dma.gap) || x.dmaAhead d.no then x
      else { x with
        dma := { x.dma with running := some k }
        ptu := { x.ptu with lost := x.ptu.lost.filter (fun p => p.1 != k.toNat) } }))

/-- Unbinds the ring of a transfer. -/
def Channel.dmaUnbind1 (x : Channel) (d : DmaSet) : Channel :=
  if d.plist || d.dstRing then x.unbindProd d.ring else if d.srcRing then x.unbindCons d.ring else x

/-- A transfer is over on fc `fc`: its ring is unbound and its active set empty (R111). The page ring of an ATTN.PAGE stays bound until
its token (R82). -/
def Channel.dmaEnd (x : Channel) (k : BitVec 3) (d : DmaSet) (fc : Nat) : Channel :=
  let x := ({ x with dma := { x.dma with running := none, gap := fc + 4, stuck := false } }).setDctx k { x.dctx k with active := none }
  if d.att then x else x.dmaUnbind1 d

/-- Whether a transfer reaches DRAM. -/
def DmaSet.onDram (d : DmaSet) : Bool := d.att || d.plist || d.srcDram || d.dstDram

/-- The running transfer of MOVE.DMA or MOVE.PLIST moves what its rings and the PTU allow; when its last byte is written its token
increments (R111, R112). A fault of a walk is raised imprecisely (R120). -/
def State.dmaMove (s : State) (ch : ChId) (k : BitVec 3) (d : DmaSet) : State :=
  let x := if d.onDram then (s.chan ch).dramTurn else s.chan ch
  let endOf (y : Channel) : State := (s.setChan ch (y.dmaEnd k d s.fc)).tokenIn ch d.tk d.org
  if d.plist then
    match Channel.plistRun k d s.fc (d.total / 128 + 1) x with
    | .on y => endOf y
    | .wait y => s.setChan ch y
    | .fault y e src => (s.setChan ch y).engineFault ch e src d.org
  else
    let r := Channel.dmaRun d (d.total + 1) x (x.dctx k).done
    let y := r.1.setDctx k { r.1.dctx k with done := r.2.1 }
    match r.2.2 with
    | .moved => endOf y
    | .waits => s.setChan ch y
    | .bad => s.setChan ch y.dmaStick

/-- The transfer at work and its context. -/
def Channel.dmaActive (x : Channel) : Option (BitVec 3 × DmaSet) :=
  match x.dma.running with
  | none => none
  | some k => (x.dctx k).active.map (fun d => (k, d))

/-- Every transfer and instruction the engine holds, the running one first. -/
def Channel.dmaHeld (x : Channel) : List DmaSet :=
  (x.dma.ctx.toList.filterMap (·.active)) ++ (x.dma.ctx.toList.filterMap (·.shadow)) ++ x.dma.queue.map (·.2)

/-- Unbinds the rings of dropped transfers. -/
def Channel.dmaUnbind (x : Channel) : List DmaSet → Channel
  | [] => x
  | d :: r => (x.dmaUnbind1 d).dmaUnbind r

/-- Strikes the outstanding operations of dropped transfers. -/
def Channel.dmaStrike (x : Channel) : List DmaSet → Channel
  | [] => x
  | d :: r => (x.modSeq (·.strike d.tk)).dmaStrike r

/-- The target range of a dropped transfer holds undefined bytes, and a source ring's TAIL may have advanced over bytes
that never reached their target (R122). -/
def Channel.dmaScramble (x : Channel) (k : Nat) (d : DmaSet) : Channel × Nat :=
  if d.att && !d.plist then (x, k)
  else if d.plist || d.dstRing then
    let n := min d.total (x.ring d.ring).free
    (x.ringWrite (x.ring d.ring) (x.ring d.ring).head (freeBytes k n), k + n)
  else
    let y := x.dmaScatter d (d.rows + 1) 0 (freeBytes k d.total)
    if d.srcRing then
      (y.advTail d.ring (128 * (Config.freeNat (k + d.total) % (min d.total (y.ring d.ring).fill / 128 + 1))), k + d.total + 1)
    else (y, k + d.total)

/-- The undefined targets of several dropped transfers. -/
def Channel.dmaScrambleAll (x : Channel) (k : Nat) : List DmaSet → Channel × Nat
  | [] => (x, k)
  | d :: r => let q := x.dmaScramble k d; q.1.dmaScrambleAll q.2 r

/-- The contexts after a drop: empty, DONE and STAT undefined where a transfer was dropped (R122). -/
def DmaCtx.dropped (cx : DmaCtx) (k : Nat) : DmaCtx :=
  if cx.active.isNone && cx.shadow.isNone then cx
  else { cx with active := none, shadow := none, walk := .idle, ahead := none, done := (Config.freeWord k).toNat, undef := some (Config.freeWord (k + 1)) }

/-- An ATTN instruction whose transfer is dropped goes with it: it leaves the attention unit's queue and the arrays', and the
page ring's consumer side is free. (DEDUCED, log entry 31.) -/
def Channel.attDrop (x : Channel) : List DmaSet → Channel
  | [] => x
  | d :: r =>
    if !d.att then x.attDrop r
    else
      let y := if d.plist then x.unbindCons d.ring else x
      let y := { y with
        attn := { y.attn with queue := y.attn.queue.filter (fun i => i.no != d.no), page := if d.plist then none else y.attn.page }
        arrs := y.arrs.map (fun (a : Arr) => { a with queue := a.queue.filter (fun i => i.no != d.no) }) }
      y.attDrop r

/-- Everything in the engine is dropped (R122). The operations that walks have presented and the PTU has not applied go too: R122 and
R123 speak of pins taken alone. (DESIGN CHOICE, log entry 31.) -/
def State.dmaDrop (s : State) (c : ChId) : State :=
  let x := s.chan c
  let held := x.dmaHeld
  if held.isEmpty then s
  else
    let q := (x.dmaUnbind held).dmaScrambleAll s.free held
    let x := ((q.1.dmaStrike held).attDrop held).orReg DMA_STATUS 2
    let x := { x with ptu := { x.ptu with lost := x.ptu.lost ++ x.ptu.wpins, wpins := [], walk := [] } }
    let ctx := Vector.ofFn (fun (i : Fin 8) => (x.dma.ctx.get i).dropped (q.2 + 2 * i.val))
    { s.setChan c { x with dma := { x.dma with queue := [], ctx := ctx, running := none, discarding := x.dma.running.isSome, stuck := false } }
      with free := q.2 + 16 }

/-- A write of DMA_CTRL.EN (R122): 0 drops all work at once, 1 lets the engine run. -/
def State.dmaEnWrite (s : State) (c : ChId) (en : Bool) : State :=
  let s := s.modChan c (fun x => x.setReg DMA_CTRL (if en then 1 else 0))
  if en then s else s.dmaDrop c

/-- Software writes DMA_CTRL.EN (R122). -/
def execDmaCtrlEnWrite (ch : ChId) (en : Bool) (s : State) : Out := .next (s.dmaEnWrite ch en)

/-- The last discarded read has returned (R122): DMA_STATUS.BUSY reads 0. -/
def execDmaDiscardSettled (ch : ChId) (s : State) : Out :=
  .next (s.modChan ch (fun x => { x with dma := { x.dma with discarding := false } }))

/-- Releases the pins of drained walks. -/
def Channel.walkUnpin (x : Channel) : List (Nat × Nat) → Channel
  | [] => { x with ptu := { x.ptu with wpins := [] } }
  | (_, e) :: r =>
    match x.ptuUnpin (entHandle e) (entGen e) with
    | .error q => q.2.walkUnpin r
    | .ok y => y.walkUnpin r

/-- What stops while it runs is some way on (R117, R121): a running MOVE.DMA has moved some of its blocks, DONE is exact. How far is
free, but one that an uncorrectable codeword stopped requests nothing more. (DESIGN CHOICE, log entry 31.) -/
def State.dmaStop (s : State) (c : ChId) (edge : Bool) : State :=
  let x := s.chan c
  match x.dmaActive with
  | none => s
  | some (k, d) =>
    if d.att || d.plist || x.dma.stuck then s
    else
      let q := Channel.dmaPart d edge (d.total + 1) (Config.freeNat s.free % (d.total + 1)) x (x.dctx k).done
      { s.setChan c (q.1.setDctx k { q.1.dctx k with done := q.2 }) with free := s.free + 1 }

/-- A context without transfers: its registers and DONE stay (R117, R121). -/
def DmaCtx.empty (cx : DmaCtx) : DmaCtx := { cx with active := none, shadow := none, walk := .idle, ahead := none }

/-- The drain of a stopped command (R121, R237): unstarted transfers are discarded, rings unbound, and the pins of the walks
released; DMA_CTXn_DONE stays exact. DRAIN is set when there was work. -/
def Channel.dmaDrain (x : Channel) : Channel :=
  let held := x.dmaHeld
  let y := if held.isEmpty then x else ((x.dmaUnbind held).dmaStrike held).orReg DMA_STATUS 4
  let y := { y with
    dma := { y.dma with queue := [], ctx := y.dma.ctx.map DmaCtx.empty, running := none, stuck := false }, ptu := { y.ptu with walk := [] } }
  y.walkUnpin y.ptu.wpins

end Sys2Proof.Machine
end

