-- ==== Sys2Proof/Machine/Ptu.lean ====
section
/-!
DEFINITION. The PTU instructions and the PTU's events (R212, R213, R217, R218, R222 to R227).
(DEDUCED, log entry 26.)
-/

namespace Sys2Proof.Machine

open Sys2Proof

/-- Issues a format D instruction: the record's address is checked at issue (R46, R65). -/
def issueD (s : State) (c : ChId) (opc : Byte) (f : FmtD) (legal : Bool) (body : State → Nat → Issue) : State :=
  s.issue c (wordD opc f) legal (never f.pg f.pn) (!(s.chan c).seq.guard f.pg f.pn) (fun s =>
    let q := (s.chan c).seq
    guarded (q.descCauses f) (body s (q.descAddr f)))

/-- The queue entry of a format D instruction. -/
def mkDIns (s : State) (c : ChId) (opc : Byte) (f : FmtD) (desc : Nat) : DIns :=
  { opc := opc, mod := f.mod, desc := desc, count := countOf f, tk := f.tk, org := ⟨(s.chan c).seq.pc, wordD opc f⟩, no := (s.chan c).issued, unit := f.unit, fc := s.fc }

/-- Queues a PTU instruction, or raises PAGE while PTU_CTRL.EN is 0 (R212). -/
def ptuIssue (s : State) (c : ChId) (opc : Byte) (f : FmtD) (legal : Bool) : State :=
  issueD s c opc f (f.unit == 0 && legal) (fun s desc =>
    let x := s.chan c
    let i := mkDIns s c opc f desc
    if !x.bit PTU_CTRL 0 then .done (s.engineFault c (pageErr 10 0) 2 i.org)
    else if x.ptu.queue.length ≥ 8 then .stall .unit
    else .done (s.setChan c { x with ptu := { x.ptu with queue := x.ptu.queue ++ [i] }, issued := x.issued + 1, seq := x.seq.begin f.tk }))

/-- ATTN.REF (R223). -/
def execAttnRef (ch : ChId) (f : FmtD) (s : State) : Out := .next (ptuIssue s ch 0x72 f (f.mod.toNat < 2))

/-- ATTN.PIN (R223). -/
def execAttnPin (ch : ChId) (f : FmtD) (s : State) : Out := .next (ptuIssue s ch 0x73 f (f.mod.toNat < 4))

/-- ATTN.COW (R224). -/
def execAttnCow (ch : ChId) (f : FmtD) (s : State) : Out := .next (ptuIssue s ch 0x74 f (f.mod == 0))

/-- A word with MOD[1:0] fixed, as the operation of ATTN.SEQ selects it. -/
def withMod (f : FmtD) (k : Nat) : FmtD := { f with mod := setField f.mod 1 0 k }

/-- ATTN.SEQ create (R222). -/
def execAttnSeqCreate (ch : ChId) (f : FmtD) (s : State) : Out :=
  .next (ptuIssue s ch 0x75 (withMod f 0) ((withMod f 0).mod.toNat < 3))

/-- ATTN.SEQ fork (R222). -/
def execAttnSeqFork (ch : ChId) (f : FmtD) (s : State) : Out :=
  .next (ptuIssue s ch 0x75 (withMod f 1) ((withMod f 1).mod.toNat < 3))

/-- ATTN.SEQ release (R222). -/
def execAttnSeqRelease (ch : ChId) (f : FmtD) (s : State) : Out :=
  .next (ptuIssue s ch 0x75 (withMod f 2) ((withMod f 2).mod.toNat < 3))

/-! ## Operations -/

/-- Whether bytes [lo, hi) of a record are all 0. -/
def zeroBytes (b : List Byte) (lo hi : Nat) : Bool := (List.range (hi - lo)).all (fun j => byteAt b (lo + j) == 0)

/-- The error of a list of checks: of those that hold, the first with the lowest code (R67). -/
def lowErr : List (Bool × PErr) → Except PErr Unit
  | [] => .ok ()
  | (b, e) :: r =>
    match lowErr r with
    | .ok () => if b then .error e else .ok ()
    | .error f => if b && decide (e.exc.code.toNat ≤ f.exc.code.toNat) then .error e else .error f

/-- The checks of a record, of which the first that holds with the lowest code is raised. -/
def Channel.plow (x : Channel) (l : List (Bool × PErr)) : PRes Unit :=
  match lowErr l with | .ok () => .ok () | .error e => x.pfail e

/-- An exception without a PAGE record. -/
def plainErr (e : Exc) : PErr := ⟨e, 0, 0⟩

/-- Whether the operations of an instruction are counting operations (R227). -/
def counting (i : DIns) : Bool := i.opc == 0x72 || i.opc == 0x73 || i.opc == 0x75

/-- Pages of `len` tokens over all heads: ceil(LEN ÷ T) × HKV (R209). -/
def seqPages (len geom hkv : Nat) : Nat :=
  let t := pageT (geomD geom) (bitsOf geom 5 2)
  if t == 0 then 0 else ceilDiv len t * hkv

/-- Whether a GEOM byte is in range: D 0 to 2, tag 0 to 4. -/
def geomOk (g : Nat) : Bool := g % 4 < 3 && bitsOf g 5 2 < 5

/-- The address of entry `k` of the list at `list`, which must lie in the populated DRAM. -/
def Channel.listEntry (x : Channel) (list k : Nat) : PRes Nat :=
  if x.dramOk (list + 4 * k) 4 then .ok (list + 4 * k) else x.pfail ⟨.dramRange, 0, k⟩

/-- What the record of an instruction says and how many operations it presents (R222 to R224). -/
def Channel.ptuPlan (x : Channel) (i : DIns) (b : List Byte) : PRes Nat :=
  let n := i.count
  if i.opc == 0x72 || i.opc == 0x73 then do
    let l := field b 0 4
    x.plow [(!zeroBytes b 4 64, plainErr .illegal), (l ≥ 0x2000000 || l + 4 * n > 0x2000000, plainErr .spadRange),
              (l % 4 != 0, plainErr .align)]
    pure n
  else if i.opc == 0x74 then do
    x.plow [(!zeroBytes b 3 4 || !zeroBytes b 8 64, plainErr .illegal)]
    pure (n + 1)
  else
    let seq := field b 0 2
    let pseq := field b 2 2
    let geom := field b 5 1
    let hkv := field b 6 1
    let flen := field b 20 4
    let nseq := getField (x.reg PTU_NSEQ) 16 0
    let err : List (Bool × PErr) :=
      [(!zeroBytes b 7 8 || !zeroBytes b 24 64, plainErr .illegal), (n != 1, plainErr .desc)]
    match i.mod.toNat with
    | 0 => do
      x.plow (err ++
        [(!zeroBytes b 2 5 || flen != 0 || geom ≥ 64, plainErr .illegal), (field b 8 8 % 64 != 0, plainErr .align),
         (hkv == 0 || hkv > 64 || !geomOk geom, plainErr .desc)])
      pure 1
    | 1 => do
      let q ← if pseq < nseq then x.pread (x.seqAt pseq) 32 else pure (x, 0)
      q.1.plow (err ++
        [(geom != 0 || hkv != 0, plainErr .illegal), (field b 8 8 % 64 != 0, plainErr .align),
         (pseq < nseq && flen > x.seqField pseq 12 4, plainErr .desc)])
      pure (seqPages flen (x.seqField pseq 17 1) (x.seqField pseq 16 1) + 2)
    | _ => do
      x.plow (err ++ [(pseq != 0 || geom != 0 || hkv != 0 || !zeroBytes b 8 24, plainErr .illegal)])
      pure (x.seqField seq 24 4 + 2)

/-- Writes a sequence entry, which the operation has read (R210). -/
def Channel.putSeq (x : Channel) (k list cap len hkv geom gen flags promo ahw : Nat) : Channel :=
  x.burstPut (x.seqAt k) (leBytes 8 list ++ leBytes 4 cap ++ leBytes 4 len ++ leBytes 1 hkv ++ leBytes 1 geom ++
    leBytes 1 gen ++ leBytes 1 flags ++ leBytes 4 promo ++ leBytes 4 ahw ++ leBytes 4 0)

/-- Operation `k` of ATTN.REF and ATTN.PIN: entry `k` of the list in scratchpad (R223). -/
def Channel.ptuListOp (x : Channel) (i : DIns) (b : List Byte) (k : Nat) : PRes Channel :=
  let p := x.spadRead (field b 0 4 + 4 * k) 4
  let e := leNat p.1
  let x := p.2.1
  if p.2.2 then .error (none, x)
  else if !pageEntOk e then x.pfail (plainErr .illegal)
  else if i.opc == 0x72 then
    if i.mod.getLsbD 0 then x.ptuDec (entHandle e) (entGen e) else x.ptuInc (entHandle e) (entGen e)
  else match i.mod.toNat with
    | 0 => x.ptuPin (entHandle e) (entGen e)
    | 1 => x.ptuUnpin (entHandle e) (entGen e)
    | 2 => x.ptuPinned (entHandle e) (entGen e) true
    | _ => x.ptuPinned (entHandle e) (entGen e) false

/-- The page-list entry at `a`, read by an operation; its reserved bits are 0 (R209, R498). -/
def Channel.readEnt (x : Channel) (a : Nat) : PRes (Channel × Nat) := do
  let p ← x.pread a 4
  if pageEntOk p.2 then .ok p else p.1.pfail (plainErr .illegal)

/-- The page operation of a copy-on-write at list entry `k` of a sequence: a page R219 says must be copied is allocated
a copy, any other is looked up. -/
def Channel.privateOp (x : Channel) (seq k src : Nat) : PRes Channel := do
  let a ← x.listEntry (x.seqField seq 0 8) k
  let p ← x.readEnt a
  let q ← p.1.ptuEntry (entHandle p.2) (entGen p.2)
  if mustCopy q.2 then p.1.ptuCow (entHandle p.2) (entGen p.2) a src else .ok q.1.ptuCount

/-- Operation `k` of ATTN.COW (R224): the sequence entry, then one page each. -/
def Channel.ptuCowOp (x : Channel) (b : List Byte) (k : Nat) : PRes Channel :=
  let seq := field b 0 2
  if k == 0 then (x.seqLive seq (field b 2 1)).map (·.ptuCount)
  else
    let e := field b 4 4 + (k - 1)
    if e ≥ x.seqField seq 8 4 then x.pfail (pageErr 6 e) else x.privateOp seq e 2

/-- The entry of a sequence that is to be created: it must not be LIVE (R221, cause 9). -/
def Channel.seqFresh (x : Channel) (seq : Nat) : PRes Channel :=
  if seq ≥ getField (x.reg PTU_NSEQ) 16 0 then x.pfail (pageErr 5 seq)
  else do
    let p ← x.pread (x.seqAt seq) 32
    if bitOf (p.1.seqField seq 19 1) 0 then p.1.pfail (pageErr 9 seq) else .ok p.1

/-- The one operation of a create (R222). -/
def Channel.seqCreate (x : Channel) (b : List Byte) : PRes Channel := do
  let seq := field b 0 2
  let y ← x.seqFresh seq
  pure (y.putSeq seq (field b 8 8) (field b 16 4) 0 (field b 6 1) (field b 5 1) ((x.seqField seq 18 1 + 1) % 256) 1 0 0).ptuCount

/-- Operation `k` of a fork of `n` operations (R222): the parent's entry, one copied entry and increment each, the
child's entry. -/
def Channel.seqFork (x : Channel) (b : List Byte) (n k : Nat) : PRes Channel :=
  let seq := field b 0 2
  let pseq := field b 2 2
  let list := field b 8 8
  if k == 0 then do
    let y ← x.seqFresh seq
    if n - 2 > field b 16 4 then y.pfail (pageErr 6 (field b 16 4))
    else (y.seqLive pseq (field b 4 1)).map (·.ptuCount)
  else if k + 1 == n then do
    let p ← x.pread (x.seqAt seq) 32
    pure (p.1.putSeq seq list (field b 16 4) (field b 20 4) (x.seqField pseq 16 1)
      (x.seqField pseq 17 1) ((x.seqField seq 18 1 + 1) % 256) 1 0 (n - 2)).ptuCount
  else do
    let a ← x.listEntry (x.seqField pseq 0 8) (k - 1)
    let a' ← x.listEntry list (k - 1)
    let p ← x.readEnt a
    (p.1.dput a' 4 p.2).ptuInc (entHandle p.2) (entGen p.2)

/-- Operation `k` of a release of `n` operations (R222). -/
def Channel.seqRelease (x : Channel) (b : List Byte) (n k : Nat) : PRes Channel :=
  let seq := field b 0 2
  if k == 0 then (x.seqLive seq (field b 4 1)).map (·.ptuCount)
  else if k + 1 == n then do
    let p ← x.pread (x.seqAt seq) 32
    pure (p.1.putSeq seq (x.seqField seq 0 8) (x.seqField seq 8 4) 0 (x.seqField seq 16 1) (x.seqField seq 17 1)
      ((x.seqField seq 18 1 + 1) % 256) 0 (x.seqField seq 20 4) 0).ptuCount
  else do
    let a ← x.listEntry (x.seqField seq 0 8) (k - 1)
    let p ← x.readEnt a
    p.1.ptuDec (entHandle p.2) (entGen p.2)

/-- Operation `k` of a PTU instruction. -/
def Channel.ptuApply (x : Channel) (i : DIns) (b : List Byte) (k : Nat) : PRes Channel :=
  if i.opc == 0x74 then x.ptuCowOp b k
  else if i.opc == 0x75 then
    match i.mod.toNat with
    | 0 => x.seqCreate b
    | 1 => x.seqFork b i.n k
    | _ => x.seqRelease b i.n k
  else x.ptuListOp i b k

/-- The class of an instruction's next operation (R213). -/
def ptuClass (i : DIns) : Nat :=
  match i.opc.toNat, i.mod.toNat with
  | 0x72, m => if m == 0 then 3 else 4
  | 0x73, m => if m == 0 then 1 else if m == 2 then 3 else 4
  | 0x74, _ => if i.i == 0 then 1 else 2
  | _, 0 => 2
  | _, 1 => if i.i == 0 then 1 else 3
  | _, _ => if i.i == 0 then 1 else 4

/-! ## ATTN.APPEND's operations (R225) -/

/-- What an append's record says and how many operations it presents. -/
def Channel.appendPlan (x : Channel) (i : DIns) (b : List Byte) : PRes Nat := do
  let seq := field b 8 2
  let src := field b 0 4
  let sh := field b 4 4
  let pos := field b 12 4
  x.plow
    [(!zeroBytes b 16 64 || field b 11 1 ≥ 8, plainErr .illegal), (src ≥ 0x2000000 || sh ≥ 0x2000000, plainErr .spadRange),
     (src % 16 != 0 || sh % 2 != 0, plainErr .align)]
  let x ← x.seqLive seq (field b 10 1)
  let geom := x.seqField seq 17 1
  let t := pageT (geomD geom) (bitsOf geom 5 2)
  let hkv := x.seqField seq 16 1
  let bytes := 2 * geomD geom * pageE2 (bitsOf geom 5 2) / 2
  x.plow
    [(pos > x.seqField seq 12 4, pageErr 8 seq),
     (src + i.count * hkv * bytes > 0x2000000 || sh + i.count * hkv * 2 > 0x2000000, plainErr .spadRange)]
  pure (((pos + i.count - 1) / t - pos / t + 1) * hkv + 1)

/-- Operation `k` of an append: the sequence entry, then each page in list order, reused (and copied where R219 demands)
below AHW, else allocated, which raises AHW. -/
def Channel.appendOp (x : Channel) (b : List Byte) (k : Nat) : PRes Channel :=
  let seq := field b 8 2
  if k == 0 then (x.seqLive seq (field b 10 1)).map (·.ptuCount)
  else
    let geom := x.seqField seq 17 1
    let t := pageT (geomD geom) (bitsOf geom 5 2)
    let e := field b 12 4 / t * x.seqField seq 16 1 + (k - 1)
    if e < x.seqField seq 24 4 then x.privateOp seq e 1
    else if e ≥ x.seqField seq 8 4 then x.pfail (pageErr 6 e)
    else do
      let a ← x.listEntry (x.seqField seq 0 8) e
      let y ← x.ptuAlloc (bitsOf geom 5 2) a
      pure (y.dput (y.seqAt seq + 24) 4 (e + 1))

/-! ## Events -/

/-- The record of an instruction is read from scratchpad when its unit takes it. -/
def Channel.takeRec (x : Channel) (i : DIns) : List Byte × Channel × Bool := x.spadRead i.desc 64

/-- An operation has been applied on fc `fc`: the next is presented on a later one (R213). -/
def DIns.applied (i : DIns) (fc : Nat) : DIns := { i with i := i.i + 1, fc := max fc (i.fc + 1) }

/-- An instruction that stops, on a fault or an uncorrectable word: it presents nothing more. -/
def DIns.stopped (i : DIns) : DIns := { i with rcd := if i.rcd.isEmpty then [0] else i.rcd, n := i.i }

/-- Applies the next operation of the PTU queue's first instruction. In a re-execution, operations the command has
already had applied are discarded, unapplied and unchecked (R227). -/
def ptuHeadOp (s : State) (c : ChId) (i : DIns) (r : List DIns) : State :=
  let x := s.chan c
  let put : Channel → DIns → Channel := fun x i => { x with ptu := { x.ptu with queue := i :: r } }
  match if counting i then x.ptu.skipIns.head? else none with
  | some m =>
    let x := put x ({ i with n := m, rcd := if i.rcd.isEmpty then [0] else i.rcd }.applied s.fc)
    let x := if i.i == 0 then { x with ptu := { x.ptu with insOps := x.ptu.insOps ++ [m] } } else x
    s.setChan c (if i.i + 1 ≥ m then { x with ptu := { x.ptu with skipIns := x.ptu.skipIns.tail } } else x)
  | none =>
    let p : List Byte × Channel × Bool := if i.rcd.isEmpty then x.takeRec i else (i.rcd, x, false)
    let y := p.2.1
    if p.2.2 then s.setChan c (put y i.stopped)
    else
      match if i.rcd.isEmpty then y.ptuPlan i p.1 else .ok i.n with
      | .error e => s.engineStop c (e.1, put e.2 i.stopped) 2 i.org
      | .ok n =>
        let y := if i.rcd.isEmpty && counting i then { y with ptu := { y.ptu with insOps := y.ptu.insOps ++ [n] } } else y
        let i := { i with rcd := p.1, n := n }
        let next := i.applied s.fc
        if counting i && y.ptu.discard > 0 then
          s.setChan c (put { y with ptu := { y.ptu with discard := y.ptu.discard - 1 } } next)
        else
          match y.ptuApply i i.rcd i.i with
          | .error e => s.engineStop c (e.1, put e.2 i.stopped) 2 i.org
          | .ok z => s.setChan c (put (if counting i then z.inc PTU_CMD_OPS 1 else z) next)

/-- The transfer of an append on its context (R225): the DMA engine's place in the order of R111 while the attention unit
writes the tokens. -/
def appendSet (i : DIns) (b : List Byte) : DmaSet :=
  ⟨i.no, true, false, BitVec.ofNat 64 (field b 0 4), 0, 0, 0, 0, 0, i.tk, i.org⟩

/-- The DMA context that the record of ATTN.APPEND (byte 11) or ATTN.PAGE (byte 23) names. -/
def walkCtx (i : DIns) (b : List Byte) : BitVec 3 := BitVec.ofNat 3 (field b (if i.opc == 0x71 then 11 else 23) 1)

/-- Applies the next operation of the append at the head of the attention unit's queue. With the first its transfer is loaded,
and it waits while the context's shadow set is full (R110). -/
def attnHeadOp (s : State) (c : ChId) (i : DIns) (r : List DIns) : State :=
  let x := s.chan c
  let put : Channel → DIns → Channel := fun x i => { x with attn := { x.attn with queue := i :: r } }
  let p : List Byte × Channel × Bool := if i.rcd.isEmpty then x.takeRec i else (i.rcd, x, false)
  let y := p.2.1
  if p.2.2 then s.setChan c (put y i.stopped)
  else
    let k := walkCtx i p.1
    match if i.rcd.isEmpty then y.appendPlan i p.1 else .ok i.n with
    | .error e => s.engineStop c (e.1, put e.2 i.stopped) 1 i.org
    | .ok n =>
      if i.rcd.isEmpty && (y.dctx k).shadow.isSome then s.setChan c y
      else
        let y := if i.rcd.isEmpty then y.dmaLoad k (appendSet i p.1) else y
        let i := { i with rcd := p.1, n := n }
        match y.appendOp i.rcd i.i with
        | .error e => s.engineStop c (e.1, put e.2 i.stopped) 1 i.org
        | .ok z => s.setChan c (put z (i.applied s.fc))

/-- The PTU's next operation in the order of R213: by fc, class and source. -/
inductive PtuPick where
  | walk (o : WalkOp)
  | release (k : PtuCopy)
  | head (i : DIns)
  | append (i : DIns)
deriving DecidableEq, Repr

/-- The place of an operation in the total order. -/
def PtuPick.key : PtuPick → Nat
  | .walk o => o.fc * 64 + (match o.kind with | .unpin _ => 4 | _ => 1) * 8
  | .release k => k.fc * 64 + 4 * 8 + k.src
  | .head i => i.fc * 64 + ptuClass i * 8 + 2
  | .append i => i.fc * 64 + (if i.i == 0 then 1 else 2) * 8 + 1

/-- Whether an append has yet to be taken and cannot be: its context's shadow set is full (R110), or a freeze is taken. -/
def Channel.appendHeld (x : Channel) (i : DIns) : Bool :=
  i.rcd.isEmpty && (x.freezing || (x.dctx (walkCtx i (rdBytes x.spad.mem i.desc 64))).shadow.isSome)

/-- The operations presented now. -/
def Channel.presented (x : Channel) : List PtuPick :=
  x.ptu.walk.map .walk ++ x.ptu.releases.map .release ++
  (if !x.engineGo then [] else
    (match x.ptu.queue with
     | i :: _ => if i.rcd.isEmpty || i.i < i.n then [PtuPick.head i] else []
     | [] => []) ++
    (match x.attn.queue with
     | i :: _ => if i.opc == 0x71 && (i.rcd.isEmpty || i.i < i.n) && !x.appendHeld i then [PtuPick.append i] else []
     | [] => []))

/-- An append that cannot be taken on this fc presents its first operation later (R213). -/
def Channel.ptuTick (x : Channel) (fc : Nat) : Channel :=
  match x.attn.queue with
  | i :: r => if i.opc == 0x71 && x.appendHeld i then { x with attn := { x.attn with queue := { i with fc := fc + 1 } :: r } } else x
  | [] => x

/-- The instruction that has come to the head of a queue presents its first operation from fc `fc` on (R213). -/
def headAt (fc : Nat) : List DIns → List DIns
  | [] => []
  | i :: r => { i with fc := fc } :: r

/-- The first of the operations presented. -/
def firstPick : List PtuPick → Option PtuPick
  | [] => none
  | p :: r => match firstPick r with | none => some p | some q => if p.key ≤ q.key then some p else some q

/-- The instruction whose walk runs on context `k`. -/
def Channel.walkOrg (x : Channel) (k : BitVec 3) : Org :=
  match (x.dctx k).active with | some d => d.org | none => ⟨0, 0⟩

/-- Applies an operation presented to the PTU. -/
def State.ptuPick (s : State) (c : ChId) : PtuPick → State
  | .walk o =>
    let x := s.chan c
    let x := { x with ptu := { x.ptu with walk := x.ptu.walk.erase o } }
    match x.walkApply o with
    | .error e => s.engineStop c e 0 (x.walkOrg o.ctx)
    | .ok y => s.setChan c y
  | .release k =>
    let x := s.chan c
    s.setChan c (({ x with ptu := { x.ptu with releases := x.ptu.releases.erase k } }).ptuRelease k)
  | .head i => ptuHeadOp s c i (s.chan c).ptu.queue.tail
  | .append i => attnHeadOp s c i (s.chan c).attn.queue.tail

/-- The PTU applies one operation (R213). While PTU_CTRL.EN is 0 it applies none (R212). -/
def execPtuOperation (ch : ChId) (s : State) : Out :=
  .next (
    let s := s.modChan ch Channel.dramTurn
    let x := s.chan ch
    if !x.bit PTU_CTRL 0 || x.dramHeld then s
    else match firstPick x.presented with
      | none => s
      | some p => s.ptuPick ch p)

/-- The oldest copy's last write has entered the DRAM queue: the PTU presents its release step (R218). -/
def execCowCopyComplete (ch : ChId) (s : State) : Out :=
  .next (s.modChan ch (fun x =>
    let x := x.dramTurn
    match x.ptu.copies with
    | [] => x
    | k :: r =>
      if x.dramHeld then x else
      let y := x.ptuCopyBytes k.p k.q
      { y with ptu := { y.ptu with copies := r, releases := y.ptu.releases ++ [{ k with fc := s.fc }] } }))

/-- A write of PTU_CTRL.EN (R212). -/
def execPtuCtrlEnWrite (ch : ChId) (en : Bool) (s : State) : Out :=
  .next (s.modChan ch (fun x => x.setReg PTU_CTRL (if en then 1 else 0)))

/-- A PTU instruction's last operation has reached the DRAM queue and its copies are released: its token increments
(R222, R224). -/
def ptuComplete (s : State) (c : ChId) : State :=
  let x := s.chan c
  match x.ptu.queue with
  | [] => s
  | i :: r =>
    if i.rcd.isEmpty || i.i < i.n || !x.engineGo ||
        (i.opc == 0x74 && (x.ptu.copies.any (·.src == 2) || x.ptu.releases.any (·.src == 2))) then s
    else
      (s.setChan c { x with ptu := { x.ptu with queue := headAt s.fc r } }).tokenIn c i.tk i.org

/-- Puts an operation into its place in the order of R213. -/
def insertPick (p : PtuPick) : List PtuPick → List PtuPick
  | [] => [p]
  | q :: r => if p.key ≤ q.key then p :: q :: r else q :: insertPick p r

/-- Whether an operation is presented by fc `fc`. -/
def PtuPick.dueBy (fc : Nat) : PtuPick → Bool
  | .walk o => decide (o.fc ≤ fc)
  | .release _ => true
  | .head i => decide (i.fc ≤ fc)
  | .append i => decide (i.fc ≤ fc)

/-- The operations that are presented when a command stops: its walks', the release steps, and the next ones of the PTU's queue and of
an append. -/
def Channel.presentedAt (x : Channel) (fc : Nat) : List PtuPick :=
  let more : Option DIns → Bool := fun o => match o with | some i => i.rcd.isEmpty || decide (i.i < i.n) | none => false
  let head := x.ptu.queue.head?
  let app := x.attn.queue.head?.filter (fun i => i.opc == 0x71 && !x.appendHeld i)
  (x.ptu.walk.map PtuPick.walk ++ x.ptu.releases.map PtuPick.release ++ (if more head then head.toList.map PtuPick.head else []) ++
    (if more app then app.toList.map PtuPick.append else [])).filter (PtuPick.dueBy fc)

/-- The operations that a stopped command has presented complete, in their order (R213, R237); those not yet presented are
discarded. -/
def State.ptuFinish (s : State) (c : ChId) : State :=
  if !(s.chan c).bit PTU_CTRL 0 then s
  else (((s.chan c).presentedAt s.fc).foldr insertPick []).foldl (fun (t : State) p => t.ptuPick c p) s

end Sys2Proof.Machine
end

