-- ==== Sys2Proof/Machine/ScanOps.lean ====
section
/-!
DEFINITION. State slots (R242 to R259): their entries, row words, points, sections, and the row operations of the SCAN
datapath (R248 to R250, R257).
(DESIGN CHOICE, log entry 28.)
-/

namespace Sys2Proof.Machine

open Sys2Proof

/-- Slot `n`. -/
def Channel.slot (x : Channel) (n : Nat) : Slot := x.scan.slots.get (Fin.ofNat 32 n)

/-- Replaces slot `n`. -/
def Channel.setSlot (x : Channel) (n : Nat) (t : Slot) : Channel :=
  { x with scan := { x.scan with slots := x.scan.slots.set (Fin.ofNat 32 n).val t (Fin.ofNat 32 n).isLt } }

/-- Entries of a row: two in pair mode (R243). -/
def Slot.per (t : Slot) : Nat := if t.mode == 1 then 2 else 1

/-- Entries of a side. -/
def Slot.sideLen (t : Slot) : Nat := t.rows * t.per

/-- Entries of the slot, both sides when protected. -/
def Slot.entries (t : Slot) : Nat := t.sideLen * (1 + b2n t.ckpt)

/-- Whether two entry ranges meet. -/
def meet (a n b m : Nat) : Bool := a < b + m && b < a + n

/-- Whether entries [e, e + n) of array `k` lie in a LIVE slot (R246). -/
def Channel.slotOwns (x : Channel) (k : Fin 2) (e n : Nat) : Bool :=
  x.scan.slots.toList.any (fun t => t.state == 1 && t.array == k && meet e n t.base t.entries)

/-- The side the running command reads and writes once it has written the slot (R253). -/
def Slot.workSide (t : Slot) : Bool := if t.ckpt && t.wrote then !t.side else t.side

/-- The first entry of row `b` on a side. -/
def Slot.entry (t : Slot) (side : Bool) (b : Nat) : Nat := t.base + b2n side * t.sideLen + b * t.per

/-- F of row `b`; 0 in a float slot (R244). -/
def Slot.point (t : Slot) (b : Nat) : Int := if t.mode == 2 then 0 else (sget 0 t.points b).toInt

/-- Sets F of row `b`. -/
def Slot.setPoint (t : Slot) (b : Nat) (f : Int) : Slot :=
  if t.mode == 2 then t else { t with points := sset 0 t.points b (BitVec.ofInt 8 f) }

/-- Copies entries, decoding what it reads; answers whether a word was uncorrectable. -/
def Channel.accCopy (k : Fin 2) (src dst : Nat) : Nat → Channel → Channel × Bool
  | 0, x => (x, false)
  | n + 1, x =>
    let p := x.accRead k (src + n) 128 false
    let q := Channel.accCopy k src dst n (p.2.1.accWrite k (dst + n) p.1)
    (q.1, p.2.2 || q.2)

/-- The first write of a command to a slot: a protected slot's other side takes over its state (R253). -/
def Channel.slotTouch (x : Channel) (n : Nat) : Channel × Bool :=
  let t := x.slot n
  if t.wrote then (x, false)
  else
    let y := x.setSlot n { t with wrote := true, old := if t.ckpt then some (t.points, t.steps) else none }
    if t.ckpt then Channel.accCopy t.array (t.entry t.side 0) (t.entry (!t.side) 0) t.sideLen y else (y, false)

/-- A command has completed: its protected slots flip side on DONE, and keep side, points and steps otherwise (R253). -/
def Slot.settle (done : Bool) (t : Slot) : Slot :=
  let t' := if t.ckpt && t.wrote then
      if done then { t with side := !t.side }
      else match t.old with | some o => { t with points := o.1, steps := o.2 } | none => t
    else t
  { t' with wrote := false, old := none }

/-- Settles every slot at a command's completion. -/
def Channel.scanCommit (x : Channel) (done : Bool) : Channel :=
  { x with scan := { x.scan with slots := x.scan.slots.map (Slot.settle done) } }

/-- After a checker event, an unprotected slot the command wrote is LOST (R254). -/
def Channel.scanLost (x : Channel) : Channel :=
  let hit := x.scan.slots.toList.any (fun t => t.wrote && !t.ckpt && t.state == 1)
  let y := { x with scan := { x.scan with
    slots := x.scan.slots.map (fun t => if t.wrote && !t.ckpt && t.state == 1 then { t with state := 3 } else t) } }
  if hit then y.orReg SCAN_STAT 0x400 else y

/-! ## Order on an array's accumulators and operands (R77, R128) -/

/-- The array whose accumulators a SCAN instruction reaches: none for a release, nor while its slot is not LIVE. -/
def Channel.scanArr (x : Channel) (i : DIns) : Option (Fin 2) :=
  let b := if i.rcd.isEmpty then x.rawRec i.desc 64 else i.rcd
  let t := x.slot (field b 0 1)
  if i.opc == 0x82 then
    match i.mod.toNat % 4 with
    | 1 => none
    | 2 => if t.state == 1 then some t.array else none
    | _ => some (if field b 2 1 == 0 then 0 else 1)
  else if t.state == 1 then some t.array else none

/-- Whether a SCAN instruction streams vectors through its array: SCAN.STEP in MODE M (R247). -/
def Channel.scanStreams (x : Channel) (i : DIns) : Bool :=
  i.opc == 0x80 && !bitOf (field (if i.rcd.isEmpty then x.rawRec i.desc 64 else i.rcd) 1 1) 0

/-- Whether a SCAN instruction that reaches array `k`'s accumulators was issued before `no` and has not finished (R77). -/
def Channel.accEarlier (x : Channel) (k : Fin 2) (no : Nat) : Bool :=
  x.scan.queue.any (fun i => i.no < no && x.scanArr i == some k)

/-- Whether one that uses array `k`'s stationary operands was (R128). -/
def Channel.loadEarlier (x : Channel) (k : Fin 2) (no : Nat) : Bool :=
  x.scan.queue.any (fun i => i.no < no && x.scanArr i == some k && x.scanStreams i)

/-- Whether a drain issued before `no` has yet to read an entry of [e, e + n) on array `k` (R137). -/
def Channel.drainHolds (x : Channel) (k : Fin 2) (no e n : Nat) : Bool :=
  match (x.arr k).slot with
  | some d => d.ins.no < no && d.outs.isNone && meet (field d.ins.rcd 8 2) d.ins.count e n
  | none => false

/-- Whether an array's TILE work issued before `no` that its accumulators take part in is unfinished (R77); with `ops` also a
load (R128). -/
def Channel.tileEarlier (x : Channel) (k : Fin 2) (no : Nat) (ops : Bool) : Bool :=
  let hit : ArrIns → Bool := fun j => j.no < no && (ops || j.opc != 0x50)
  (x.arr k).queue.any hit || (match (x.arr k).run with | some j => hit j | none => false)

/-! ## Row words -/

/-- Reads row `b` of a side: its words as integers, hi and lo joined in pair mode, fp32 words as they are. -/
def Channel.rowRead (x : Channel) (t : Slot) (side : Bool) (b : Nat) : List Int × Channel × Bool :=
  let p := x.accRead t.array (t.entry side b) 128 true
  if t.mode == 1 then
    let q := p.2.1.accRead t.array (t.entry side b + 1) 128 true
    (List.zipWith (fun (h l : Word) => h.toInt * 2 ^ 32 + l.toNat) p.1 q.1, q.2.1, p.2.2 || q.2.2)
  else if t.mode == 2 then (p.1.map (fun w => (w.toNat : Int)), p.2)
  else (p.1.map (·.toInt), p.2)

/-- Writes row `b` of a side. -/
def Channel.rowWrite (x : Channel) (t : Slot) (side : Bool) (b : Nat) (ws : List Int) : Channel :=
  if t.mode == 1 then
    (x.accWrite t.array (t.entry side b) (ws.map (fun v => wordOf (v / 2 ^ 32)))).accWrite t.array (t.entry side b + 1)
      (ws.map wordOf)
  else x.accWrite t.array (t.entry side b) (ws.map wordOf)

/-- Bits of a state word. -/
def Slot.width (t : Slot) : Nat := if t.mode == 1 then 64 else 32

/-- An integer saturated to `w` bits. -/
def satTo (w : Nat) (v : Int) : Int × Bool :=
  let hi : Int := 2 ^ (w - 1) - 1
  let lo : Int := -(2 ^ (w - 1))
  if v > hi then (hi, true) else if v < lo then (lo, true) else (v, false)

/-- u × 2^k: exact for k ≥ 0, rounded to nearest even below (R248). -/
def alignInt (u k : Int) : Int := if k ≥ 0 then u * 2 ^ k.toNat else roundInt .rne (decide (u < 0)) u.natAbs k

/-- One word of an integer slot (R248): the new state and the saturations. -/
def stepInt (w : Nat) (u k a h : Int) : Int × Nat :=
  let p := satTo w (alignInt u k)
  let q := satTo w (alignInt (a * h) (-30))
  let r := satTo w (q.1 + p.1)
  (r.1, b2n p.2 + b2n q.2 + b2n r.2)

/-- One word of a float slot (R248). -/
def stepFloat (u : Word) (k : Int) (a h : Word) : Word := ffma a h (f32r ((f32 u).scale k))

/-- The exact value of a state word (R250). -/
def stateVal (t : Slot) (b : Nat) (v : Int) : FV :=
  if t.mode == 2 then f32 (wordOf v) else (FV.ofInt v).scale (-(t.point b))

/-- The largest F′ in −64 to 63 with m × 2^(F′ − F) < 2^(W − 1 − GUARD), from `f` down (R257). -/
def newPoint (m : Nat) (fOld : Int) (bound : Nat) : Nat → Int → Int
  | 0, f => f
  | n + 1, f =>
    let d := f - fOld
    let fits := if d ≥ 0 then m * 2 ^ d.toNat < 2 ^ bound else m < 2 ^ bound * 2 ^ (-d).toNat
    if fits then f else newPoint m fOld bound n (f - 1)

/-- Renormalises row `b` of slot `n` (R257): a row of zeros stays as it is and is not counted. -/
def Channel.normRow (x : Channel) (n b guard : Nat) : Channel × Bool :=
  let t := x.slot n
  if t.mode == 2 then (x, false)
  else
    let p := x.rowRead t t.workSide b
    let m := p.1.foldl (fun a v => max a v.natAbs) 0
    if m == 0 then p.2
    else
      let f := t.point b
      let f' := newPoint m f (t.width - 1 - guard) 127 63
      let ws := p.1.map (fun v => alignInt v (f' - f))
      (((p.2.1.inc SCAN_NORMS 1).rowWrite t t.workSide b ws).setSlot n (t.setPoint b f'), p.2.2)

/-- Whether some row of [b, b + k) holds a word other than 0. -/
def Channel.rowsLive (x : Channel) (t : Slot) (b k : Nat) : Bool :=
  (List.range k).any (fun r => (x.rowRead t t.workSide (b + r)).1.any (fun v => decide (v ≠ 0)))

/-- Renormalises rows [b, b + k). -/
def Channel.normRows (n guard : Nat) : Nat → Nat → Channel → Channel × Bool
  | 0, _, x => (x, false)
  | k + 1, b, x =>
    let p := x.normRow n b guard
    let q := Channel.normRows n guard k (b + 1) p.1
    (q.1, p.2 || q.2)

/-- Renormalises rows [b, b + k) of a slot for the running command, which writes it (R253, R254); an unprotected slot whose rows hold
zeros alone is left as it is. -/
def Channel.normTouch (x : Channel) (n guard k b : Nat) : Channel × Bool :=
  let t := x.slot n
  let p := if t.mode != 2 && (t.ckpt || x.rowsLive t b k) then x.slotTouch n else (x, false)
  let q := p.1.normRows n guard k b
  (q.1, p.2 || q.2)

/-! ## Sections (R259) -/

/-- The point bytes of a section, padded to a multiple of 64. -/
def pointBytes (t : Slot) : List Byte :=
  (List.range (ceilDiv t.rows 64 * 64)).map (fun b => if b < t.rows then sget 0 t.points b else 0)

/-- The bytes of consecutive entries, and what reading them does. -/
def Channel.entryBytes (k : Fin 2) : Nat → Nat → Channel → List Byte × Channel × Bool
  | 0, _, x => ([], x, false)
  | n + 1, e, x =>
    let p := x.accRead k e 128 false
    let q := Channel.entryBytes k n (e + 1) p.2.1
    ((p.1.map (fun w => leBytes 4 w.toNat)).flatten ++ q.1, q.2.1, p.2.2 || q.2.2)

/-- The section of slot `n`. -/
def Channel.section (x : Channel) (n : Nat) : List Byte × Channel × Bool :=
  let t := x.slot n
  let p := Channel.entryBytes t.array t.entries t.base x
  let body := pointBytes t ++ p.1
  let head := leBytes 2 t.gen.toNat ++ leBytes 1 n ++ leBytes 1 (t.mode + 4 * b2n t.ckpt + 8 * b2n t.side) ++
    leBytes 2 t.rows ++ leBytes 2 0 ++ leBytes 8 t.steps.toNat ++ leBytes 4 (64 + body.length)
  (head ++ leBytes 4 (crc32 (head ++ body)).toNat ++ List.replicate 40 0 ++ body, p.2)

/-- Words of a byte string. -/
def wordsOf (bs : List Byte) (n : Nat) : List Word := (List.range n).map (fun j => BitVec.ofNat 32 (field bs (4 * j) 4))

/-- Writes entries from a byte string. -/
def Channel.putEntries (k : Fin 2) : Nat → Nat → List Byte → Channel → Channel
  | 0, _, _, x => x
  | n + 1, e, bs, x => Channel.putEntries k n (e + 1) (bs.drop 512) (x.accWrite k e (wordsOf bs 128))

/-- The length a section's header gives; a section that does not name one reads as its header alone. -/
def sectionLen (h : List Byte) : Nat := max 64 (field h 16 4)

/-- Whether a section is whole: its CRC, and a length that fits its rows and mode. -/
def sectionOk (bs : List Byte) : Bool :=
  let mode := bitsOf (field bs 3 1) 1 0
  let rows := field bs 4 2
  mode < 3 && rows ≥ 1 && rows ≤ 4096 &&
  bs.length == 64 + ceilDiv rows 64 * 64 + 512 * rows * (if mode == 1 then 2 else 1) * (1 + b2n (bitOf (field bs 3 1) 2)) &&
  field bs 20 4 == (crc32 (bs.take 20 ++ bs.drop 64)).toNat

/-- The slot a section restores onto an array and first entry. -/
def sectionSlot (bs : List Byte) (array : Fin 2) (base : Nat) (t : Slot) : Slot :=
  let f := field bs 3 1
  { t with
    state := 1, array := array, base := base, rows := field bs 4 2, mode := bitsOf f 1 0, ckpt := bitOf f 2,
    side := bitOf f 3, gen := BitVec.ofNat 16 (field bs 0 2), steps := BitVec.ofNat 64 (field bs 8 8),
    points := ssets 0 [] 0 ((bs.drop 64).take (field bs 4 2)), wrote := false, old := none }

/-- Restores a whole section into slot `n`. -/
def Channel.restore1 (x : Channel) (n : Nat) (array : Fin 2) (base : Nat) (bs : List Byte) : Channel :=
  let t := sectionSlot bs array base (x.slot n)
  (Channel.putEntries array t.entries base (bs.drop (64 + ceilDiv t.rows 64 * 64)) x).setSlot n t

end Sys2Proof.Machine
end

