-- ==== Sys2Proof/Machine/Tile.lean ====
section
/-!
DEFINITION. The TILE instructions at issue (R126 to R139) and the rings arrays consume.
-/

namespace Sys2Proof.Machine

open Sys2Proof

/-- The arrays UNIT names (R46, R133). -/
def unitArrs (u : BitVec 2) : List (Fin 2) :=
  (if u.getLsbD 0 then [0] else []) ++ (if u.getLsbD 1 then [1] else [])

/-- Whether the queues of the arrays UNIT names have room (R42, R133). -/
def Channel.arrRoom (x : Channel) (u : BitVec 2) : Bool := (unitArrs u).all (fun k => (x.arr k).queue.length < 4)

/-- Puts an instruction into the queues of the arrays UNIT names. -/
def Channel.arrPush (x : Channel) (i : ArrIns) : Channel :=
  (unitArrs i.unit).foldl (fun (y : Channel) k => y.setArr k { y.arr k with queue := (y.arr k).queue ++ [i] }) x

/-- The queue entry of a format D instruction for the arrays; the generator key is that of its issue (R161). -/
def mkArrIns (s : State) (c : ChId) (opc : Byte) (f : FmtD) (desc : Nat) : ArrIns :=
  { opc := opc, mod := f.mod, desc := desc, count := countOf f, unit := f.unit, tk := f.tk,
    org := ⟨(s.chan c).seq.pc, wordD opc f⟩, no := (s.chan c).issued, key := (s.chan c).seq.key }

/-- The engine under which an array instruction binds a ring. R82 does not say whether an instruction of both arrays and one of a single
array are the same engine: they are not. (DESIGN CHOICE, log entry 30.) -/
def arrEng (k : Fin 2) (unit : BitVec 2) : Eng := if unit == 3 then .arrays else if k == 0 then .ma0 else .ma1

/-- The ring a record names as its source, with the bytes it takes. -/
def recRing (i : ArrIns) (b : List Byte) : Option (BitVec 6 × Nat) :=
  let m := field b 8 1
  if i.opc == 0x50 then
    if bitOf m 6 then some (BitVec.ofNat 6 (field b 0 4), (field b 9 1 + 1) * rowBytes (m % 8) (bitsOf m 4 3) (bitOf m 5)) else none
  else if i.opc == 0x57 || i.opc == 0x56 then none
  else if bitOf (field b 10 1) 0 then some (BitVec.ofNat 6 (field b 0 4), i.count * (if i.opc == 0x55 then 256 else 128))
  else none

/-- The ring a record names as its target: that of a drain with DSTRING (R135). -/
def recOut (i : ArrIns) (b : List Byte) : Option (BitVec 6) :=
  if i.opc == 0x56 && bitOf (field b 10 1) 3 then some (BitVec.ofNat 6 (field b 0 4)) else none

/-- Binds, from its issue, the ring that an array instruction names (R82). -/
def Channel.arrBindIssue (x : Channel) (i : ArrIns) : Channel × ArrIns :=
  let b := x.rawRec i.desc 64
  let e := arrEng (if i.unit == 2 then 1 else 0) i.unit
  let q := x.bindSides e e ((recRing i b).toList.map (·.1)) (recOut i b).toList {}
  (q.1, { i with binds := q.2 })

/-- Issues a TILE instruction with a descriptor into the arrays' queues; `tok` for the one that names a token counter. -/
def tileIssue (s : State) (c : ChId) (opc : Byte) (f : FmtD) (tok legal : Bool) : State :=
  issueD s c opc f (f.unit != 0 && (tok || f.tk == 0) && legal) (fun s desc =>
    let x := s.chan c
    if !x.arrRoom f.unit then .stall .unit
    else
      let q := x.arrBindIssue (mkArrIns s c opc f desc)
      let y := q.1.arrPush q.2
      let y := { y with issued := y.issued + 1 }
      .done (s.setChan c (if tok then y.modSeq (·.begin f.tk) else y)))

/-- TILE.LOAD (R127, R131). -/
def execTileLoad (ch : ChId) (f : FmtD) (s : State) : Out :=
  .next (tileIssue s ch 0x50 f false (f.count == 0 && f.mod == 0))

/-- MOD of a TILE.MAC: OVER and ONE, CBN with codebook operands, E5M2 with fp8 (R132). -/
def macMod (m : BitVec 10) (cb f8 : Bool) : Bool :=
  m.toNat < 32 && (cb || m.toNat % 4 == 0) && m.toNat % 4 != 3 && (f8 || !m.getLsbD 2)

/-- TILE.MAC.I8 (R126, R132). -/
def execTileMacI8 (ch : ChId) (f : FmtD) (s : State) : Out := .next (tileIssue s ch 0x51 f false (macMod f.mod false false))

/-- TILE.MAC.I4 (R126, R132). -/
def execTileMacI4 (ch : ChId) (f : FmtD) (s : State) : Out := .next (tileIssue s ch 0x52 f false (macMod f.mod false false))

/-- TILE.MAC.CB (R140). -/
def execTileMacCb (ch : ChId) (f : FmtD) (s : State) : Out := .next (tileIssue s ch 0x53 f false (macMod f.mod true false))

/-- TILE.MAC.F8 (R126, R132). -/
def execTileMacF8 (ch : ChId) (f : FmtD) (s : State) : Out := .next (tileIssue s ch 0x54 f false (macMod f.mod false true))

/-- TILE.MAC.BF16 (R126, R132). -/
def execTileMacBf16 (ch : ChId) (f : FmtD) (s : State) : Out :=
  .next (tileIssue s ch 0x55 f false (macMod f.mod false false))

/-- TILE.DRAIN (R135). -/
def execTileDrain (ch : ChId) (f : FmtD) (s : State) : Out := .next (tileIssue s ch 0x56 f true (f.mod.toNat < 2))

/-- TILE.ZERO (R138). -/
def execTileZero (ch : ChId) (f : FmtD) (s : State) : Out := .next (tileIssue s ch 0x57 f false (f.mod == 0))

/-- The fields TILE.ACCRD and TILE.ACCWR leave 0 (R139). -/
def accForm (f : FmtD) : Bool :=
  (f.unit == 1 || f.unit == 2) && f.ad == 0 && f.doff == 0 && f.tk == 0 && f.mod.toNat < 16

/-- Issues TILE.ACCRD or TILE.ACCWR: no descriptor, the entry is COUNT − 1, the register v(MOD[3:0]). -/
def accIssue (s : State) (c : ChId) (opc : Byte) (f : FmtD) : State :=
  s.issue c (wordD opc f) (accForm f) (never f.pg f.pn) (!(s.chan c).seq.guard f.pg f.pn) (fun s =>
    let x := s.chan c
    let v := f.mod.extractLsb' 0 4
    guarded [(countOf f > 4096, .desc)]
      (if !x.arrRoom f.unit || x.seq.vpend.getLsbD v.toNat then .stall .unit
       else
        let i := { mkArrIns s c opc f 0 with data := if opc == 0x59 then (x.seq.rv v).toList else [] }
        let y := x.arrPush i
        let y := { y with issued := y.issued + 1 }
        .done (s.setChan c (if opc == 0x58 then y.modSeq (fun q => { q with vpend := setBit q.vpend v.toNat true }) else y))))

/-- TILE.ACCRD (R139): the register is written when the array reaches the instruction. -/
def execTileAccrd (ch : ChId) (f : FmtD) (s : State) : Out := .next (accIssue s ch 0x58 f)

/-- TILE.ACCWR (R139). -/
def execTileAccwr (ch : ChId) (f : FmtD) (s : State) : Out := .next (accIssue s ch 0x59 f)

/-! ## Rings consumed by arrays (R82, R133) -/

/-- The largest multiple of 128 not above `n`: a count advances in 128-byte steps (R82). -/
def steps128 (n : Nat) : Nat := n / 128 * 128

/-- Bytes of a joint instruction that both arrays have read, in whole steps. -/
def Joint.rel (j : Joint) : Nat := steps128 (min j.pos0 j.pos1)

/-- The bytes of one ring that joint instructions before `no` have still to release. -/
def jointBefore (js : List Joint) (no : Nat) (ring : BitVec 6) : Nat :=
  (js.filter (fun j => j.no < no && j.ring == ring)).foldl (fun a j => a + (j.total - j.rel)) 0

/-- Where an array stands in its ring, from TAIL. -/
def Channel.arrOff (x : Channel) (i : ArrIns) (ring : BitVec 6) : Nat :=
  if i.unit == 3 then
    match x.joint.find? (·.no == i.no) with
    | none => 0
    | some j => jointBefore x.joint i.no ring + (i.pos - j.rel)
  else i.pos - steps128 i.pos

/-- Takes `n` ring bytes for array `k`: TAIL passes each 128-byte step once it is read, by both arrays of a joint
instruction (R133). Answers nothing when the fill is short. -/
def Channel.arrTake (x : Channel) (k : Fin 2) (i : ArrIns) (ring : BitVec 6) (n : Nat) :
    Option (List Byte × Channel × Bool) :=
  let d := x.ring ring
  let off := x.arrOff i ring
  if d.fill < off + n then none
  else
    let p := x.ringRead d (d.tail + BitVec.ofNat 32 off) n
    let y := p.2.1
    let y :=
      if i.unit == 3 then
        match y.joint.find? (·.no == i.no) with
        | none => y
        | some j =>
          let j' := if k == 0 then { j with pos0 := i.pos + n } else { j with pos1 := i.pos + n }
          ({ y with joint := y.joint.map (fun (e : Joint) => if e.no == i.no then j' else e) }).advTail ring (j'.rel - j.rel)
      else y.advTail ring (steps128 (i.pos + n) - steps128 i.pos)
    some (p.1, y, p.2.2)

/-- Whether an array instruction may not bind the ring it consumes: the descriptor is invalid, or another engine has, or had at its
issue, the side bound (R82). -/
def Channel.arrRingBad (x : Channel) (k : Fin 2) (i : ArrIns) (ring : BitVec 6) : Bool :=
  !(i.unit == 3 && x.joint.any (·.no == i.no)) &&
    (i.binds.bad || (!i.binds.cons.contains ring && (!(x.ring ring).valid || !bindOk (x.ring ring).cons (arrEng k i.unit))))

/-- The ring an array instruction consumes is bound: from its issue, or, where the record has changed since, from now. -/
def Channel.arrBind (x : Channel) (k : Fin 2) (i : ArrIns) (ring : BitVec 6) (total : Nat) : Channel :=
  if i.unit == 3 && x.joint.any (·.no == i.no) then x
  else
    let y := if i.binds.cons.contains ring then x else x.bindCons ring (arrEng k i.unit)
    if i.unit == 3 then { y with joint := y.joint ++ [⟨i.no, ring, total, 0, 0⟩] } else y

/-- Unbinds the ring once every array of the instruction has read it all. -/
def Channel.arrUnbind (x : Channel) (i : ArrIns) (ring : BitVec 6) : Channel :=
  if i.unit == 3 then
    match x.joint.find? (·.no == i.no) with
    | none => x
    | some j =>
      if j.rel ≥ j.total then ({ x with joint := x.joint.filter (·.no != i.no) }).unbindCons ring else x
  else x.unbindCons ring

end Sys2Proof.Machine
end

