-- ==== Sys2Proof/Machine/ConvOps.lean ====
section
/-!
DEFINITION. The window generator's datapath: the CONV descriptor, input rows and their layouts, activation vectors,
weight records, pad terms, the Winograd transforms and pooling (R176 to R199).
(DESIGN CHOICE, log entry 30.)
-/

namespace Sys2Proof.Machine

open Sys2Proof

/-! ## The descriptor (R177) -/

/-- Kernel rows and columns. -/
def cKH (b : List Byte) : Nat := field b 27 1 % 16 + 1
def cKW (b : List Byte) : Nat := field b 27 1 / 16 + 1
/-- Image rows, columns and channels. -/
def cIH (b : List Byte) : Nat := field b 16 2
def cIW (b : List Byte) : Nat := field b 18 2
def cIC (b : List Byte) : Nat := field b 20 2
/-- First image row held, and rows held. -/
def cRow0 (b : List Byte) : Nat := field b 22 2
def cRows (b : List Byte) : Nat := field b 62 2
/-- Layout, block size, input ring. -/
def cLayout (b : List Byte) : Nat := field b 24 1 % 4
def cBlock (b : List Byte) : Nat := 2 ^ (bitsOf (field b 24 1) 4 2 + 3)
def cIRing (b : List Byte) : Bool := bitOf (field b 24 1) 5
/-- Weight mode, codebook size, WIDE, weight ring. -/
def cMode (b : List Byte) : Nat := field b 25 1 % 8
def cCbn (b : List Byte) : Nat := bitsOf (field b 25 1) 4 3
def cWide (b : List Byte) : Bool := bitOf (field b 25 1) 5
def cWRing (b : List Byte) : Bool := bitOf (field b 25 1) 6
/-- Activation format. -/
def cAfmt (b : List Byte) : Nat := field b 26 1 % 8
/-- Twice the bytes of an activation element. -/
def cE2 (b : List Byte) : Nat := match cAfmt b with | 1 => 1 | 4 => 4 | _ => 2
/-- Pass position and width. -/
def cOY0 (b : List Byte) : Nat := field b 48 2
def cOX0 (b : List Byte) : Nat := field b 50 2
def cOW (b : List Byte) : Nat := field b 52 2
def cEntry (b : List Byte) : Nat := field b 54 2
def cOEntry (b : List Byte) : Nat := field b 56 2
def cCols (b : List Byte) : Nat := field b 58 1 + 1
def cGIN (b : List Byte) : Nat := field b 59 1
def cGOUT (b : List Byte) : Nat := field b 60 1
def cPMode (b : List Byte) : Nat := field b 72 1
def cC0 (b : List Byte) : Nat := field b 74 2

/-- Output extent along one axis (R176), as an integer that is not positive when the image is too small. -/
def outLen (n pa pb k s d : Nat) : Int := ((n + pa + pb : Nat) - ((d * (k - 1) + 1 : Nat) : Int)) / (s : Int) + 1

/-- OH and OWtot (R176). -/
def cOH (b : List Byte) : Int := outLen (cIH b) (field b 32 1) (field b 33 1) (cKH b) (field b 28 1) (field b 30 1)
def cOWtot (b : List Byte) : Int := outLen (cIW b) (field b 34 1) (field b 35 1) (cKW b) (field b 29 1) (field b 31 1)

/-- The input row and column tap `t` of output pixel (y, x) reads (R176). -/
def tapAt (b : List Byte) (y x t : Nat) : Int × Int :=
  (((y * field b 28 1 + t / cKW b * field b 30 1 : Nat) : Int) - (field b 32 1 : Int),
   ((x * field b 29 1 + t % cKW b * field b 31 1 : Nat) : Int) - (field b 34 1 : Int))

/-- Whether a position lies in padding (R176). -/
def inPad (b : List Byte) (p : Int × Int) : Bool :=
  p.1 < 0 || p.1 ≥ (cIH b : Int) || p.2 < 0 || p.2 ≥ (cIW b : Int)

/-- The pixels of a pass, row-major (R177): output row and column. -/
def cPixels (b : List Byte) (count : Nat) : List (Nat × Nat) :=
  ((List.range count).map (fun y => (List.range (cOW b)).map (fun x => (cOY0 b + y, cOX0 b + x)))).flatten

/-! ## Input rows (R177, R186, R203) -/

/-- Where an image row lies. -/
inductive RowSrc where
  | mem (a : Nat)
  | ring (r : BitVec 6) (count : Nat)
  | nowhere
deriving DecidableEq, Repr

/-- The halo a row above or below the held rows comes from. -/
def rowHalo (b : List Byte) (y : Nat) : Option Nat :=
  let h := field b 61 1
  if y < cRow0 b then (if bitOf h 2 then some (h % 4) else none)
  else if y ≥ cRow0 b + cRows b then (if bitOf h 5 then some (bitsOf h 4 3) else none)
  else none

/-- Halo `h`. -/
def Channel.halo (x : Channel) (h : Nat) : Halo := x.win.halos.get (Fin.ofNat 4 h)

/-- Replaces halo `h`. -/
def Channel.setHalo (x : Channel) (h : Nat) (t : Halo) : Channel :=
  { x with win := { x.win with halos := x.win.halos.set (Fin.ofNat 4 h).val t (Fin.ofNat 4 h).isLt } }

/-- Where image row `y` lies for a pass. -/
def Channel.rowSrc (x : Channel) (b : List Byte) (y : Nat) : RowSrc :=
  let held := cRow0 b ≤ y && y < cRow0 b + cRows b
  if held then
    if cIRing b then .ring (BitVec.ofNat 6 (field b 0 4)) (field b 12 4 + (y - cRow0 b) * field b 4 4)
    else .mem (field b 0 4 + (y - cRow0 b) * field b 4 4)
  else match rowHalo b y with
    | none => .nowhere
    | some h =>
      let t := x.halo h
      if y < t.first.toNat then .nowhere else .ring t.ring ((y - t.first.toNat) * t.rowb.toNat)

/-- Reads bytes of a row. -/
def Channel.imgRead (x : Channel) (r : RowSrc) (off n : Nat) : List Byte × Channel × Bool :=
  match r with
  | .mem a => x.spadRead (a + off) n
  | .ring q c => x.ringRead (x.ring q) (BitVec.ofNat 32 (c + off)) n
  | .nowhere => ([], x, false)

/-- The codes of `n` elements whose first is element `e` of a byte string that starts at element `e0`. -/
def codesOf (e2 : Nat) (bs : List Byte) (first n : Nat) : List Nat :=
  (List.range n).map (fun k =>
    if e2 == 1 then
      let v := (byteAt bs ((first + k) / 2)).toNat
      if (first + k) % 2 == 0 then v % 16 else v / 16
    else field bs (k * (e2 / 2)) (e2 / 2))

/-- Reads `n` elements at half-byte position `pos` of a row. -/
def Channel.elems (x : Channel) (r : RowSrc) (e2 base elem n : Nat) : List Nat × Channel × Bool :=
  let lo := elem * e2 / 2
  let hi := ((elem + n) * e2 + 1) / 2
  let p := x.imgRead r (base + lo) (hi - lo)
  (codesOf e2 p.1 (if e2 == 1 then elem % 2 else 0) n, p.2)

/-- Reads channels [c, c + n) at column `col` of a row, piece by piece (R177, R187). -/
def Channel.chans (b : List Byte) (r : RowSrc) (col : Nat) : Nat → Channel → Nat → Nat → List Nat × Channel × Bool
  | 0, x, _, _ => ([], x, false)
  | fuel + 1, x, c, n =>
    if n == 0 then ([], x, false)
    else
      let e2 := cE2 b
      let cb := cBlock b
      let k := match cLayout b with | 0 => n | 1 => 1 | _ => min n (cb - c % cb)
      let p := match cLayout b with
        | 0 => x.elems r e2 0 (col * cIC b + c) k
        | 1 => x.elems r e2 (c * field b 8 4) col 1
        | _ => x.elems r e2 (c / cb * field b 8 4) (col * cb + c % cb) k
      let q := Channel.chans b r col fuel p.2.1 (c + k) (n - k)
      (p.1 ++ q.1, q.2.1, p.2.2 || q.2.2)

/-- Reads `n` channels from `c` at a position inside the image; channels beyond IC give 0. -/
def Channel.atPos (x : Channel) (b : List Byte) (p : Int × Int) (c n : Nat) : List Nat × Channel × Bool :=
  let k := min n (cIC b - c)
  let q := Channel.chans b (x.rowSrc b p.1.toNat) p.2.toNat (k + 1) x c k
  (q.1 ++ List.replicate (n - k) 0, q.2)

/-- Packs element codes into an activation vector. -/
def packCodes (mode : Nat) (cs : List Nat) : List Byte :=
  match mode with
  | 1 => (List.range 128).map (fun k => BitVec.ofNat 8 (cs.getD (2 * k) 0 + 16 * cs.getD (2 * k + 1) 0))
  | 4 => ((List.range 128).map (fun k => leBytes 2 (cs.getD k 0))).flatten
  | _ => (List.range 128).map (fun k => BitVec.ofNat 8 (cs.getD k 0))

/-! ## Tiles and records (R180, R190, R191) -/

/-- A tile: its first channel, its channels per tap, its taps. -/
structure ConvTile where
  c0 : Nat
  nch : Nat
  taps : List Nat
deriving DecidableEq, Repr

/-- Consecutive runs of `k` taps. -/
def tapPacks (k : Nat) : Nat → List Nat → List (List Nat)
  | 0, _ => []
  | fuel + 1, ts => if ts.isEmpty then [] else ts.take k :: tapPacks k fuel (ts.drop k)

/-- The tiles of a pass in record order. -/
def cTiles (b : List Byte) (dw : Bool) : List ConvTile :=
  let taps := List.range (cKH b * cKW b)
  let ic := cIC b
  if dw then taps.map (fun t => ⟨cC0 b, cCols b / cGOUT b * cGIN b, [t]⟩)
  else if ic ≥ 65 then
    ((List.range (ceilDiv ic 128)).map (fun g => taps.map (fun t => ⟨128 * g, min 128 (ic - 128 * g), [t]⟩))).flatten
  else (tapPacks (128 / ic) (taps.length + 1) taps).map (fun p => ⟨0, ic, p⟩)

/-- Rows a tile loads. -/
def ConvTile.rows (t : ConvTile) : Nat := t.nch * t.taps.length

/-- Bits of a weight. -/
def weightBits (b : List Byte) : Nat :=
  match cMode b with | 0 => if cWide b then 4 else 8 | 1 => 4 | 2 => 4 - cCbn b | 3 => 8 | _ => 16

/-- Bytes of a record (R180, R191). -/
def recBytes (b : List Byte) (dw : Bool) (t : ConvTile) : Nat :=
  (if cMode b == 2 then 64 else 0) +
    (if dw then (cCols b * cGIN b * weightBits b + 7) / 8 else t.rows * rowBytes (cMode b) (cCbn b) (cWide b))

/-- A weight code at a bit position of a record, widened as a load widens it. -/
def codeAtBit (b : List Byte) (bs : List Byte) (pos : Nat) : BitVec 16 :=
  let w := weightBits b
  let v := bitsOf (field bs (pos / 8) 3) (pos % 8 + w - 1) (pos % 8)
  match cMode b with
  | 0 => BitVec.ofInt 16 (toSigned w v)
  | 1 => BitVec.ofInt 16 (toSigned 4 v)
  | _ => BitVec.ofNat 16 v

/-- Loads a tile from its record: stored rows, or for CONV.DW the slices of the diagonal (R190). -/
def Channel.convLoad (x : Channel) (k : Fin 2) (b : List Byte) (dw : Bool) (rows : Nat) (record : List Byte) : Channel :=
  let cb := if cMode b == 2 then record.take 16 else []
  let body := if cMode b == 2 then record.drop 64 else record
  let rb := rowBytes (cMode b) (cCbn b) (cWide b)
  let a0 : Arr := { x.arr k with loaded := true, mode := cMode b, cbn := cCbn b, rows := rows, cols := cCols b, cb := cb, w := [] }
  let a := (List.range rows).foldl (fun (a : Arr) r =>
    if dw then
      { a with w := ssets 0 a.w (128 * r) ((List.range 128).map (fun j =>
          if j < a.cols && r / cGIN b == j / cGOUT b then
            codeAtBit b body ((j * cGIN b + r % cGIN b) * weightBits b) else 0)) }
    else a.loadRow (cWide b) r ((body.drop (rb * r)).take rb)) a0
  (x.setArr k a.checkColumn).inc64 (MA_LOAD_AC k.val) 128

/-- The activation vector of a pixel for a tile; none when every tap lies in padding (R181). -/
def Channel.tileVec (b : List Byte) (t : ConvTile) (y px : Nat) (x : Channel) : Option (List Byte × Channel × Bool) :=
  if t.taps.all (fun k => inPad b (tapAt b y px k)) then none
  else
    let r := t.taps.foldl (fun (a : List Nat × Channel × Bool) k =>
      let p := tapAt b y px k
      if inPad b p then (a.1 ++ List.replicate t.nch 0, a.2)
      else
        let q := a.2.1.atPos b p t.c0 t.nch
        (a.1 ++ q.1, q.2.1, a.2.2 || q.2.2)) (([] : List Nat), x, false)
    some (packCodes (cMode b) r.1, r.2)

/-! ## Pad terms (R183, R184) -/

/-- The skipped taps of a pixel. -/
def padPattern (b : List Byte) (p : Nat × Nat) : List Nat :=
  (List.range (cKH b * cKW b)).filter (fun t => inPad b (tapAt b p.1 p.2 t))

/-- The initial vector of a pattern for array index `idx` of `n` named, and what reading the table does. -/
def Channel.initVec (x : Channel) (b : List Byte) (idx n : Nat) (float : Bool) (pat : List Nat) : List Word × Channel × Bool :=
  pat.foldl (fun (a : List Word × Channel × Bool) t =>
    let p := a.2.1.spadRead (field b 44 4 + (t * n + idx) * 512) 512
    (List.zipWith (fun v w => (accAdd float v w).1) a.1 (wordsOf p.1 128), p.2.1, a.2.2 || p.2.2))
    (List.replicate 128 0, x, false)

/-! ## Checks (R178) -/

/-- Whether fields an opcode does not use, and reserved ones, are 0. -/
def cUnusedZero (opc : Byte) (b : List Byte) : Bool :=
  zeroBytes b 73 74 && zeroBytes b 82 128 &&
  (match opc.toNat with
   | 0x60 => zeroBytes b 56 58 && zeroBytes b 59 61 && zeroBytes b 64 73 && zeroBytes b 74 76
   | 0x61 => zeroBytes b 44 48 && zeroBytes b 59 61 && zeroBytes b 68 73 && zeroBytes b 74 76
   | 0x62 => zeroBytes b 56 58 && zeroBytes b 64 73
   | _ => zeroBytes b 25 26 && zeroBytes b 40 48 && zeroBytes b 54 61)

/-- Whether AFMT pairs with the weight mode (R126). -/
def pairs (afmt mode : Nat) : Bool :=
  match afmt with | 0 => mode == 0 || mode == 2 | 1 => mode == 1 | 2 => mode == 3 | 3 => mode == 3 | 4 => mode == 4 | _ => false

/-- A power of two of at most 128. -/
def pow2_128 (v : Nat) : Bool := [1, 2, 4, 8, 16, 32, 64, 128].contains v

/-- Side of a Winograd output square: 2 in int8 mode, 4 in float modes (R192). -/
def wM (b : List Byte) : Nat := if cMode b == 0 then 2 else 4

/-- Output squares of a Winograd pass. -/
def wNT (b : List Byte) (count : Nat) : Nat := count / wM b * (cOW b / wM b)

/-- The last image column outside padding that the pass reads; none when it reads none. -/
def lastCol (b : List Byte) : Option Nat :=
  (((List.range (cOW b)).map (fun x => (List.range (cKW b)).map (fun j => (tapAt b 0 (cOX0 b + x) j).2))).flatten.filter
    (fun c => decide (0 ≤ c) && decide (c < (cIW b : Int)))).foldl (fun (m : Option Nat) c => some (max (m.getD 0) c.toNat)) none

/-- The image rows outside padding that the pass reads: none while every tap lies in column padding (R178). -/
def neededRows (b : List Byte) (count : Nat) : List Nat :=
  if (lastCol b).isNone then []
  else (((List.range count).map (fun y => (List.range (cKH b)).map (fun i => (tapAt b (cOY0 b + y) 0 (i * cKW b)).1))).flatten.filter
    (fun r => decide (0 ≤ r) && decide (r < (cIH b : Int)))).map (·.toNat)

/-- The end of the pad-term entries that a pass reaches, from PTADDR, for `n` arrays: those of the taps that some pixel skips (R178,
R183). -/
def padEnd (b : List Byte) (count n : Nat) : Nat :=
  (cPixels b count).foldl (fun m p => (padPattern b p).foldl (fun m t => max m ((t + 1) * 512 * n)) m) 0

/-- Where the last byte that a pass reads of an image row ends, from the row's start. -/
def rowEnd (b : List Byte) (lanes : Nat) : Nat :=
  match lastCol b with
  | none => 0
  | some col =>
    let c := min (cIC b) lanes
    let cb := cBlock b
    match cLayout b with
    | 0 => ((col * cIC b + c) * cE2 b + 1) / 2
    | 1 => (c - 1) * field b 8 4 + (col + 1) * cE2 b / 2
    | _ => (List.range (ceilDiv c cb)).foldl
        (fun m k => max m (k * field b 8 4 + (col * cb + min cb (c - k * cb)) * cE2 b / 2)) 0

/-- The causes of a pass (R178, R192, R196, R246). -/
def Channel.convCauses (x : Channel) (i : DIns) (b : List Byte) (ringBad : Bool) : List (Bool × Exc) :=
  let o := i.opc.toNat
  let pool := o == 0x63
  let wino := o == 0x61
  let n := i.count
  let lay := field b 24 1
  let padv := field b 36 4
  let e := cE2 b
  let nt := wNT b n
  let pos := (wM b + 2) * (wM b + 2)
  let dims : Bool := cIH b == 0 || cIW b == 0 || cIC b == 0 || cOW b == 0 || cOW b > 4096 ||
    [28, 29, 30, 31].any (fun k => field b k 1 == 0 || field b k 1 > 64) ||
    ((cOY0 b + n : Nat) : Int) > cOH b || ((cOX0 b + cOW b : Nat) : Int) > cOWtot b
  let illegal : Bool := !cUnusedZero i.opc b || lay ≥ 64 || (cLayout b != 2 && bitsOf lay 4 2 != 0) || field b 26 1 ≥ 8 ||
    field b 61 1 ≥ 64 || (cIRing b && field b 0 4 ≥ 64) || (!cIRing b && (field b 0 4 ≥ 0x2000000 || field b 12 4 != 0)) ||
    (cLayout b == 0 && field b 8 4 != 0) || padv ≥ 2 ^ (4 * e) ||
    (!pool && ((field b 25 1 ≥ 128) || (cMode b != 2 && cCbn b != 0) || (cWide b && cMode b != 0) ||
      field b 40 4 ≥ (if cWRing b then 64 else 0x2000000) || field b 44 4 ≥ 0x2000000)) ||
    ((o == 0x60 || o == 0x62) && padv == 0 && field b 44 4 != 0) ||
    (pool && (cPMode b ≥ 16 || field b 64 4 ≥ (if bitOf (cPMode b) 3 then 64 else 0x2000000))) ||
    (wino && field b 64 4 ≥ 0x2000000)
  let align : Bool := (!cIRing b && field b 0 4 % 16 != 0) || field b 4 4 % 16 != 0 || field b 8 4 % 16 != 0 ||
    (!pool && !cWRing b && field b 40 4 % 16 != 0) || field b 44 4 % 16 != 0 ||
    (pool && ((!bitOf (cPMode b) 3 && field b 64 4 % 16 != 0) || field b 68 4 % 16 != 0)) || (wino && field b 64 4 % 128 != 0)
  let rows := neededRows b n
  let desc : Bool := dims || cLayout b == 3 || bitsOf lay 4 2 > 4 || cAfmt b > 4 || (cIRing b && cLayout b != 0) ||
    (cAfmt b == 1 && (cLayout b != 0 || cIC b % 32 != 0)) ||
    (!pool && (cMode b > 4 || (cMode b == 2 && cCbn b == 3) || !pairs (cAfmt b) (cMode b) || field b 58 1 > 127)) ||
    ((o == 0x60 || o == 0x62) && ((padv != 0 && field b 44 4 == 0) || cEntry b + n * cOW b > 4096 ||
      (padv != 0 && ((cPixels b n).map (padPattern b)).eraseDups.length > 64))) ||
    (o == 0x62 && (!pow2_128 (cGIN b) || !pow2_128 (cGOUT b) || cCols b % cGOUT b != 0 ||
      cCols b > 128 / max (cGIN b) (cGOUT b) * cGOUT b || cC0 b % cGIN b != 0)) ||
    (wino && (field b 27 1 != 0x22 || [28, 29, 30, 31].any (fun k => field b k 1 != 1) || cMode b == 1 || cMode b == 2 ||
      n % wM b != 0 || cOW b % wM b != 0 || cEntry b + pos * nt > 4096 || cOEntry b + wM b * wM b * nt > 4096 ||
      meet (cEntry b) (pos * nt) (cOEntry b) (wM b * wM b * nt))) ||
    (pool && (cPMode b % 4 == 3 || (cPMode b % 4 == 2 && (field b 27 1 != 0x44 || field b 28 1 != 2 || field b 29 1 != 2 ||
      field b 30 1 != 1 || field b 31 1 != 1 || [32, 33, 34, 35].any (fun k => field b k 1 != 2))))) ||
    rows.any (fun y => match x.rowSrc b y with | .nowhere => true | _ => false) ||
    (unitArrs i.unit).any (fun k => if wino then x.slotOwns k (cEntry b) (pos * nt) || x.slotOwns k (cOEntry b) (wM b * wM b * nt)
                                    else x.slotOwns k (cEntry b) (n * cOW b))
  let hb := field b 61 1
  let ring : Bool := ringBad || (bitOf hb 2 && !(x.halo (hb % 4)).armed) || (bitOf hb 5 && !(x.halo (bitsOf hb 4 3)).armed)
  let lanes := if pool then cC0 b + 128 else if o == 0x62 then cC0 b + cCols b / max 1 (cGOUT b) * cGIN b else cIC b
  let total := (cTiles b (o == 0x62)).foldl (fun a t => a + recBytes b (o == 0x62) t) 0 * (unitArrs i.unit).length
  let range : Bool := (!cIRing b && rows.any (fun y => match x.rowSrc b y with
      | .mem a => decide (a + rowEnd b lanes > 0x2000000)
      | _ => false)) ||
    (!pool && !cWRing b && !wino && field b 40 4 + total > 0x2000000) ||
    (wino && !cWRing b &&
      field b 40 4 + pos * cIC b * rowBytes (cMode b) (cCbn b) (cWide b) * (unitArrs i.unit).length > 0x2000000) ||
    ((o == 0x60 || o == 0x62) && padv != 0 && field b 44 4 + padEnd b n (unitArrs i.unit).length > 0x2000000) ||
    (wino && field b 64 4 + 2 * pos * nt * vecBytes (cMode b) > 0x2000000) ||
    (pool && !bitOf (cPMode b) 3 &&
      field b 64 4 + (n - 1) * field b 68 4 + (cOW b - 1) * 64 * e + (min 128 (cIC b - cC0 b) * e + 1) / 2 > 0x2000000)
  [(illegal, .illegal), (align, .align), (desc, .desc), (ring, .ring), (range, .spadRange)]

/-- The ring sides that a pass names: consumers, then producers (R82, R177). -/
def convSides (i : DIns) (b : List Byte) : List (BitVec 6) × List (BitVec 6) :=
  if i.opc == 0x64 then ([], [])
  else
    ((if cIRing b then [BitVec.ofNat 6 (field b 0 4)] else []) ++ (if i.opc != 0x63 && cWRing b then [BitVec.ofNat 6 (field b 40 4)] else []),
     if i.opc == 0x63 && bitOf (cPMode b) 3 then [BitVec.ofNat 6 (field b 64 4)] else [])

/-- The accumulator entries that a pass writes (R177, R196). -/
def convSpans (i : DIns) : List (Nat × Nat) :=
  let b := i.rcd
  if i.opc == 0x63 then []
  else if i.opc == 0x61 then
    let m := wM b
    [(cEntry b, (m + 2) * (m + 2) * wNT b i.count), (cOEntry b, m * m * wNT b i.count)]
  else [(cEntry b, i.count * cOW b)]

/-! ## The rate of the window generator (R187) -/

/-- The scratchpad address of byte `o` of an image row. -/
def Channel.rowAddr (x : Channel) : RowSrc → Nat → Nat
  | .mem a, o => a + o
  | .ring q c, o => (x.ring q).addr (BitVec.ofNat 32 (c + o))
  | .nowhere, _ => 0

/-- The runs of contiguous bytes, first address and length, that a tap of a tile reads. -/
def Channel.tapRuns (x : Channel) (b : List Byte) (t : ConvTile) (p : Int × Int) : List (Nat × Nat) :=
  let r := x.rowSrc b p.1.toNat
  let col := p.2.toNat
  let k := min t.nch (cIC b - t.c0)
  let cb := cBlock b
  if cLayout b == 2 then
    ((List.range ((t.c0 + k - 1) / cb + 1)).filter (fun j => decide (t.c0 < (j + 1) * cb))).map (fun j =>
      let lo := max t.c0 (j * cb)
      (x.rowAddr r (j * field b 8 4 + (col * cb + lo % cb) * cE2 b / 2), ((min (t.c0 + k) ((j + 1) * cb) - lo) * cE2 b + 1) / 2))
  else [(x.rowAddr r ((col * cIC b + t.c0) * cE2 b / 2), (k * cE2 b + 1) / 2)]

/-- Runs that follow one another without a gap are one, as the taps of a kernel row are when DW is 1. -/
def joinRun (l : List (Nat × Nat)) (q : Nat × Nat) : List (Nat × Nat) :=
  match l with
  | p :: r => if p.1 + p.2 == q.1 then (p.1, p.2 + q.2) :: r else q :: l
  | [] => [q]

/-- The pieces of a vector: bank accesses, each within one 128-byte row. -/
def Channel.vecPieces (x : Channel) (b : List Byte) (t : ConvTile) (y px : Nat) : Nat :=
  let runs := (t.taps.filter (fun k => !inPad b (tapAt b y px k))).flatMap (fun k => x.tapRuns b t (tapAt b y px k))
  (runs.foldl joinRun []).foldl (fun n q => n + (q.1 % 128 + q.2 + 127) / 128) 0

/-- What a vector takes beyond the ac that its array needs for it, in quarters of an ac: with NCHW by the transpose stage, else by the
pieces beyond four per ac (R187, R188). -/
def Channel.vecSlow (x : Channel) (b : List Byte) (t : ConvTile) (y px : Nat) : Nat :=
  let a := if cMode b == 4 then 2 else 1
  let sw := field b 29 1
  if t.taps.all (fun k => inPad b (tapAt b y px k)) then 0
  else if cLayout b == 1 then 4 * a * (if sw == 1 then 1 else if sw ≤ 16 then 2 * sw - 1 else 31)
  else x.vecPieces b t y px - 4 * a

/-- The ac in which a vector of a tile's stream is due and not ready, for a pass that runs alone; parts of an ac count as one.
(DESIGN CHOICE, log entry 30.) -/
def Channel.tileSlow (x : Channel) (i : DIns) (t : ConvTile) : Nat :=
  ((cPixels i.rcd i.count).foldl (fun n p => n + x.vecSlow i.rcd t p.1 p.2) 0 + 3) / 4

/-- Whether every row the pass needs is in its ring or halo; the halo that lacks one (R186, R203). -/
def Channel.rowsReady (x : Channel) (b : List Byte) (count : Nat) : Bool × Option Nat :=
  let rows := neededRows b count
  let lack := rows.find? (fun y => match rowHalo b y with | some h => decide ((x.halo h).next.toNat ≤ y) | none => false)
  let inRing := !cIRing b || rows.all (fun y => (rowHalo b y).isSome || y < cRow0 b ||
    decide (((x.ring (BitVec.ofNat 6 (field b 0 4))).head - BitVec.ofNat 32 (field b 12 4)).toInt ≥
      ((y - cRow0 b + 1) * field b 4 4 : Nat)))
  (inRing && lack.isNone, lack.bind (fun y => rowHalo b y))

/-! ## Winograd (R193 to R196) -/

/-- Bᵀ and Aᵀ of the two variants. -/
def wBT (m : Nat) : List (List Int) :=
  if m == 2 then [[1, 0, -1, 0], [0, 1, 1, 0], [0, -1, 1, 0], [0, 1, 0, -1]]
  else [[4, 0, -5, 0, 1, 0], [0, -4, -4, 1, 1, 0], [0, 4, -4, -1, 1, 0], [0, -2, -1, 2, 1, 0], [0, 2, -1, -2, 1, 0], [0, 4, 0, -5, 0, 1]]
def wAT (m : Nat) : List (List Int) :=
  if m == 2 then [[1, 1, 1, 0], [0, 1, -1, -1]]
  else [[1, 1, 1, 1, 1, 0], [0, 1, -1, 2, -2, 0], [0, 1, 1, 4, 4, 0], [0, 1, -1, 8, -8, 1]]

/-- Σ c_k × d_k over ascending k, zero coefficients skipped, with given multiply and add. -/
def lin {α : Type} (zero : α) (mul : Int → α → α) (add : α → α → α) (cs : List Int) (ds : List α) : α :=
  let ts := (cs.zip ds).filter (fun p => p.1 != 0)
  match ts with
  | [] => zero
  | p :: r => r.foldl (fun a q => add a (mul q.1 q.2)) (mul p.1 p.2)

/-- A column of a matrix held as rows. -/
def colOf {α : Type} (zero : α) (m : List (List α)) (j : Nat) : List α := m.map (fun r => r.getD j zero)

/-- C M Cᵀ: the row stage, then the column stage. -/
def transform {α : Type} (zero : α) (mul : Int → α → α) (add : α → α → α) (c : List (List Int)) (m : List (List α)) :
    List (List α) :=
  let w := (m.headD []).length
  let rowStage := c.map (fun cs => (List.range w).map (fun j => lin zero mul add cs (colOf zero m j)))
  rowStage.map (fun r => c.map (fun cs => lin zero mul add cs r))

/-- An integer as an fp32 word. -/
def fint (i : Int) : Word := f32r (FV.ofInt i)

/-- A signed saturation of int32 words. -/
def isat32 (v : Int) : Int := max (-2147483648) (min 2147483647 v)

/-- The value of an element code as an fp32 word. -/
def codeF (afmt : Nat) (v : Nat) : Word :=
  if afmt == 4 then BitVec.ofNat 32 (v * 65536) else fp8Word (afmt == 3) (BitVec.ofNat 8 v)

/-- The code of an fp32 word in an activation format, and whether it saturated (R195). -/
def fCode (afmt : Nat) (w : Word) : Nat × Bool :=
  let r := (match afmt with | 2 => e4m3 | 3 => e5m2 | _ => bf16).convert .rne (f32 w)
  (r.w, r.clip)

/-- V of one channel of one patch of element codes: its codes and how many elements saturated (R194, R195). -/
def wV (afmt m : Nat) (d : List (List Nat)) : List (List Nat) × Nat :=
  if afmt == 0 then
    let s := d.map (fun r => r.map (fun v => toSigned 8 v))
    let c := s.map (fun r => r.map (fun v => max (-32) (min 31 v)))
    let n := (s.flatten.zip c.flatten).foldl (fun a p => a + b2n (decide (p.1 ≠ p.2))) 0
    ((transform 0 (fun k v => k * v) (· + ·) (wBT m) c).map (fun r => r.map (fun v => ofSigned 8 v)), n)
  else
    let v := transform (0 : Word) (fun k w => fmul (fint k) w) fadd (wBT m) (d.map (fun r => r.map (codeF afmt)))
    let c := v.map (fun r => r.map (fCode afmt))
    (c.map (fun r => r.map (·.1)), c.flatten.foldl (fun a p => a + b2n p.2) 0)

/-! ## Pooling (R198, R199) -/

/-- The exact value of an element code. -/
def codeVal (afmt v : Nat) : FV :=
  match afmt with
  | 0 => FV.ofInt (toSigned 8 v)
  | 1 => FV.ofInt (toSigned 4 v)
  | 2 => e4m3.decode v
  | 3 => e5m2.decode v
  | _ => bf16.decode v

/-- The code of a value in an activation format. -/
def valCode (afmt : Nat) (v : FV) : Nat :=
  match afmt with
  | 0 => (convertInt 8 .rne v).w % 256
  | 1 => (convertInt 4 .rne v).w % 16
  | 2 => (e4m3.convert .rne v).w
  | 3 => (e5m2.convert .rne v).w
  | _ => (bf16.convert .rne v).w

/-- Whether a format is an integer format. -/
def intFmt (afmt : Nat) : Bool := afmt < 2

/-- v ÷ n: 64 more bits of quotient and a sticky bit, so that one rounding of it is the rounding of the exact quotient. -/
def divSticky (v : FV) (n : Nat) : FV :=
  match v with
  | .fin s m e =>
    let q := m * 2 ^ 64 / n
    .fin s (2 * q + b2n (m * 2 ^ 64 % n != 0)) (e - 65)
  | w => w

/-- The sum of pooled values: exact for integers, fp32 in ascending order else (R199). -/
def poolSum (afmt : Nat) (vs : List FV) : FV :=
  match vs with
  | [] => .fin false 0 0
  | v :: r => r.foldl (fun a w => if intFmt afmt then a.add w else f32 (f32r (a.add w))) v

/-- The larger of two values under R156. -/
def poolMax (a b : FV) : FV := if a.isNan || b.isNan then .nan else if a.before b then b else a

/-- One pooled output code from the element codes of its window in tap order; `none` is a tap in padding. -/
def poolOut (b : List Byte) (win : List (Option Nat)) : Nat :=
  let f := cAfmt b
  let padv := field b 36 4
  let real := win.filterMap id
  match cPMode b % 4 with
  | 0 =>
    match real.map (codeVal f) with
    | [] => padv
    | v :: r => valCode f (r.foldl poolMax v)
  | 1 =>
    let all := bitOf (cPMode b) 2
    if real.isEmpty then padv
    else
      let vs := if all then win.map (fun o => codeVal f (o.getD padv)) else real.map (codeVal f)
      let q := divSticky (poolSum f vs) vs.length
      if intFmt f then valCode f q else valCode f (f32 (f32r q))
  | _ =>
    let w : List Nat := [1, 4, 6, 4, 1]
    let ks := (List.range 25).map (fun t => w.getD (t / 5) 0 * w.getD (t % 5) 0)
    let vs := (ks.zip win).map (fun p => (codeVal f (p.2.getD padv)).mul (.fin false p.1 0))
    let q := (poolSum f vs).scale (-8)
    if intFmt f then valCode f q else valCode f (f32 (f32r q))

end Sys2Proof.Machine
end

