-- ==== Sys2Proof/Machine/Scan.lean ====
section
/-!
DEFINITION. The SCAN instructions and their events (R246 to R261).
(DESIGN CHOICE, log entry 28.)
-/

namespace Sys2Proof.Machine

open Sys2Proof

/-! ## Records -/

/-- The record of SCAN.STEP (R247). -/
structure StepRec where
  slot : Nat
  add : Bool
  dmode : Nat
  omode : Nat
  isrc : Nat
  dsrc : Nat
  rsrc : Nat
  esrc : Nat
  csrc : Nat
  odst : Nat
  ofmt : Nat
  osh : Int
  normk : Nat
  guard : Nat
  flags : Nat
deriving DecidableEq, Repr

/-- Reads the record. -/
def stepRec (b : List Byte) : StepRec :=
  let m := field b 1 1
  ⟨field b 0 1 % 32, bitOf m 0, bitsOf m 2 1, bitsOf m 4 3, field b 4 4, field b 8 4, field b 12 4, field b 16 4,
   field b 20 4, field b 24 4, field b 28 1 % 8, toSigned 8 (field b 29 1), field b 30 2, field b 32 1, field b 33 1⟩

/-- An address field, or a ring number where its flag says so, has its upper bits 0. -/
def srcOk (v : Nat) (ring : Bool) : Bool := if ring then v < 64 else v < 0x2000000

/-- The causes of SCAN.STEP's record that do not depend on its slot. -/
def stepCauses (b : List Byte) : List (Bool × Exc) :=
  let r := stepRec b
  [(field b 0 1 ≥ 32 || field b 1 1 ≥ 32 || field b 28 1 ≥ 8 || r.flags ≥ 16 || !zeroBytes b 34 64 ||
      !srcOk r.isrc (bitOf r.flags 0) || !srcOk r.dsrc (bitOf r.flags 1) || !srcOk r.rsrc (bitOf r.flags 2) ||
      r.esrc ≥ 0x2000000 || r.csrc ≥ 0x2000000 || !srcOk r.odst (bitOf r.flags 3) ||
      (r.dmode == 0 && r.dsrc != 0) || (r.omode == 0 && r.odst != 0), .illegal),
   (r.dmode == 3 || r.omode == 3 || r.ofmt > 5 || r.guard > 31, .desc)]

/-- The causes of the record of an instruction other than SCAN.STEP. -/
def scanRecCauses (i : DIns) (b : List Byte) : List (Bool × Exc) :=
  let d := field b 8 8
  if i.opc == 0x81 then
    [(field b 0 1 ≥ 32 || !zeroBytes b 1 2 || !zeroBytes b 5 6 || !zeroBytes b 8 64, .illegal), (field b 4 1 > 31, .desc)]
  else if i.opc == 0x83 then
    [(field b 0 1 ≥ 32 || !zeroBytes b 1 2 || !zeroBytes b 6 8 || !zeroBytes b 16 64 || field b 8 4 ≥ 0x2000000 ||
        field b 12 4 ≥ 0x2000000, .illegal), (field b 8 4 % 16 != 0, .align)]
  else
    let common : List (Bool × Exc) := [(field b 0 1 ≥ 32 || !zeroBytes b 18 64, .illegal)]
    match i.mod.toNat with
    | 0 => common ++ [(field b 1 1 ≥ 8 || field b 2 1 ≥ 2 || !zeroBytes b 8 18, .illegal),
        (field b 1 1 % 4 == 3 || toSigned 8 (field b 3 1) < -64 || toSigned 8 (field b 3 1) > 63 || field b 6 2 == 0 ||
          field b 6 2 > 4096, .desc)]
    | 1 => common ++ [(!zeroBytes b 1 16, .illegal)]
    | 2 => common ++ [(!zeroBytes b 1 8, .illegal), (d % 64 != 0, .align)]
    | _ => common ++ [(!zeroBytes b 1 2 || field b 2 1 ≥ 2 || !zeroBytes b 3 4 || !zeroBytes b 6 8 || !zeroBytes b 16 18,
        .illegal), (d % 64 != 0, .align)]

/-- The generation an instruction with a slot expects. -/
def scanGen (b : List Byte) : BitVec 16 := BitVec.ofNat 16 (field b 2 2)

/-! ## The head of the queue and the state fence (R245, R260) -/

/-- Whether an instruction must enter the state fence: its slot is not LIVE with its generation, or an instruction of
its slot is in the fence already. -/
def Channel.mustFence (x : Channel) (i : DIns) : Bool :=
  let n := field i.rcd 0 1 % 32
  let t := x.slot n
  i.opc != 0x82 &&
    ((t.state != 1 || t.gen != scanGen i.rcd) || (!i.freed && x.scan.fence.any (fun j => field j.rcd 0 1 % 32 == n)))

/-- The ring sides a SCAN.STEP's record names: consumers, then producers. -/
def stepRings (b : List Byte) : List (BitVec 6) × List (BitVec 6) :=
  let r := stepRec b
  ((if bitOf r.flags 0 then [BitVec.ofNat 6 r.isrc] else []) ++ (if bitOf r.flags 1 && r.dmode != 0 then [BitVec.ofNat 6 r.dsrc] else []) ++
    (if bitOf r.flags 2 then [BitVec.ofNat 6 r.rsrc] else []),
   if bitOf r.flags 3 && r.omode != 0 then [BitVec.ofNat 6 r.odst] else [])

/-- Binds the rings of a SCAN instruction's record (R82). -/
def Channel.stepBind (x : Channel) (i : DIns) (b : List Byte) : Channel × Binds :=
  if i.opc == 0x80 then x.bindSides .scan .scan (stepRings b).1 (stepRings b).2 i.binds else (x, i.binds)

/-- What the head of the queue comes to: it is taken and checked, and moves into the fence where it must. -/
def scanHead : Nat → State → ChId → State
  | 0, s, _ => s
  | fuel + 1, s, c =>
    let x := s.chan c
    match x.scan.queue with
    | [] => s
    | i :: r =>
      if !x.engineWork then s
      else
        let p : List Byte × Channel × Bool := if i.rcd.isEmpty then x.spadRead i.desc 64 else (i.rcd, x, false)
        if p.2.2 then s.setChan c p.2.1
        else
          let y := p.2.1
          let causes := if i.rcd.isEmpty then (if i.opc == 0x80 then stepCauses p.1 else scanRecCauses i p.1) else []
          let lost := i.opc != 0x82 && (y.slot (field p.1 0 1)).state == 3
          let b := if i.rcd.isEmpty then y.stepBind i p.1 else (y, i.binds)
          let i := { i with rcd := p.1, binds := b.2 }
          match lowest (causes ++ [(lost, .desc), (b.2.bad, .ring)]) with
          | some e => (s.setChan c y).except c e i.org true
          | none =>
            let y := b.1
            if !y.mustFence i then s.setChan c { y with scan := { y.scan with queue := i :: r } }
            else if y.scan.fence.length ≥ 4 then s.setChan c { y with scan := { y.scan with queue := i :: r } }
            else
              let z := { y with scan := { y.scan with queue := r, fence := y.scan.fence ++ [i] } }
              let s := s.setChan c (z.orReg SCAN_STAT 0x200)
              scanHead fuel (if z.bit SCAN_CTRL 0 then s.signal (2 * c.val + 1) else s) c

/-- Brings the head of the queue as far as it goes. -/
def State.scanSettle (s : State) (c : ChId) : State := scanHead 5 s c

/-! ## Issue -/

/-- Issues a SCAN instruction into the datapath's queue. COUNT of SCAN.SLOT must be 1: the sequencer checks it, precisely (R65, R258). -/
def scanIssue (s : State) (c : ChId) (opc : Byte) (f : FmtD) (legal : Bool) : State :=
  let t := issueD s c opc f (f.unit == 0 && legal) (fun s desc =>
    let x := s.chan c
    let i := mkDIns s c opc f desc
    guarded [(opc == 0x82 && countOf f != 1, .desc)]
      (if x.scan.queue.length ≥ 4 then .stall .unit
       else
        let q := x.stepBind i (x.rawRec desc 64)
        let i := { i with binds := q.2 }
        .done (s.setChan c { q.1 with scan := { x.scan with queue := x.scan.queue ++ [i] }, issued := x.issued + 1,
                                      seq := x.seq.begin f.tk })))
  if (t.chan c).issued == (s.chan c).issued then t else t.scanSettle c

/-- SCAN.STEP (R247). -/
def execScanStep (ch : ChId) (f : FmtD) (s : State) : Out := .next (scanIssue s ch 0x80 f (f.mod == 0))

/-- SCAN.NORM (R257). -/
def execScanNorm (ch : ChId) (f : FmtD) (s : State) : Out := .next (scanIssue s ch 0x81 f (f.mod == 0))

/-- SCAN.SLOT assign (R258). -/
def execScanSlotAssign (ch : ChId) (f : FmtD) (s : State) : Out :=
  .next (scanIssue s ch 0x82 (withMod f 0) ((withMod f 0).mod.toNat < 4))

/-- SCAN.SLOT release (R258). -/
def execScanSlotRelease (ch : ChId) (f : FmtD) (s : State) : Out :=
  .next (scanIssue s ch 0x82 (withMod f 1) ((withMod f 1).mod.toNat < 4))

/-- SCAN.SLOT freeze-out (R258). -/
def execScanSlotFreezeOut (ch : ChId) (f : FmtD) (s : State) : Out :=
  .next (scanIssue s ch 0x82 (withMod f 2) ((withMod f 2).mod.toNat < 4))

/-- SCAN.SLOT thaw (R258). -/
def execScanSlotThaw (ch : ChId) (f : FmtD) (s : State) : Out :=
  .next (scanIssue s ch 0x82 (withMod f 3) ((withMod f 3).mod.toNat < 4))

/-- SCAN.INIT (R261). -/
def execScanInit (ch : ChId) (f : FmtD) (s : State) : Out := .next (scanIssue s ch 0x83 f (f.mod == 0))

/-! ## SCAN.STEP at work -/

/-- Bytes of a row's input, of its decays and of its output, and of a step's reset masks. -/
structure StepSizes where
  inp : Nat
  dec : Nat
  out : Nat
  mask : Nat
deriving DecidableEq, Repr

/-- The sizes of a chunk's records (R247). -/
def stepSizes (r : StepRec) (t : Slot) (tileMode : Nat) : StepSizes :=
  ⟨if r.add then 512 else vecBytes tileMode, if r.dmode == 2 then 512 else 0, if r.omode == 0 then 0 else 128 * ofmtSize r.ofmt,
   if r.rsrc == 0 && !bitOf r.flags 2 then 0 else ceilDiv t.rows 64 * 16⟩

/-- Takes from a ring, in steps of 128 bytes, what a row still lacks of `n` bytes (R82): the bytes it has now. -/
def Channel.ringPull (r : BitVec 6) (n : Nat) : Nat → Channel → List Byte → List Byte × Channel × Bool
  | 0, x, buf => (buf, x, false)
  | fuel + 1, x, buf =>
    if buf.length ≥ n || (x.ring r).fill < 128 then (buf, x, false)
    else
      let p := x.ringRead (x.ring r) (x.ring r).tail 128
      if p.2.2 then (buf, p.2)
      else Channel.ringPull r n fuel (p.2.1.advTail r 128) (buf ++ p.1)

/-- Gathers `n` bytes of a stream for row-step `at`: from memory at once, from a ring as they come. -/
def Channel.rowPull (x : Channel) (a : Nat) (ring : Bool) (at_ n : Nat) (buf : List Byte) : List Byte × Channel × Bool :=
  if n == 0 then ([], x, false)
  else if ring then Channel.ringPull (BitVec.ofNat 6 a) n (n / 128) x buf
  else if buf.length ≥ n then (buf, x, false)
  else x.spadRead (a + at_ * n) n

/-- Puts a row's output into its ring in steps of 128 bytes, as far as there is space; what is left. -/
def Channel.rowPush (x : Channel) (r : BitVec 6) (buf : List Byte) : Channel × List Byte :=
  let n := min buf.length (steps128 (x.ring r).free)
  if n == 0 then (x, buf) else ((x.ringWrite (x.ring r) (x.ring r).head (buf.take n)).advHead r n, buf.drop n)

/-- The reset code of row `b` of a step whose masks begin at byte `pos` of their stream (R249): a ring gives the 16 bytes of each 64
rows as the first of these is reached. Nothing while they are not there. -/
def Channel.maskCode (x : Channel) (r : StepRec) (z : StepSizes) (step b : Nat) (held : List Byte) :
    Option (Nat × List Byte × Channel × Bool) :=
  if z.mask == 0 then some (0, [], x, false)
  else
    let pos := step * z.mask + 16 * (b / 64)
    let code (g : List Byte) : Nat := bitsOf (leNat g) (2 * (b % 64) + 1) (2 * (b % 64))
    if bitOf r.flags 2 then
      if b % 64 != 0 then some (code held, held, x, false)
      else
        let q : BitVec 6 := BitVec.ofNat 6 r.rsrc
        if (x.ring q).fill < pos % 128 + 16 then none
        else
          let p := x.ringRead (x.ring q) ((x.ring q).tail + BitVec.ofNat 32 (pos % 128)) 16
          some (code p.1, p.1, p.2.1.advTail q (steps128 (pos + 16) - steps128 pos), p.2.2)
    else
      let p := x.spadRead (r.rsrc + pos) 16
      some (code p.1, [], p.2)

/-- A decay: none is 1. -/
def decayAt (dec : List Byte) (j : Nat) (float : Bool) : Word :=
  if dec.isEmpty then (if float then 0x3F800000 else 0x40000000) else BitVec.ofNat 32 (field dec (4 * j) 4)

/-- One row of one step (R248 to R250, R254): its record's bytes, its decays, its reset code. The first write of a command touches the
slot. Answers the output, and whether an uncorrectable word was read. -/
def Channel.stepRow (x : Channel) (r : StepRec) (i : DIns) (code : Nat) (ins dec : List Byte) (esh : Int) (csh : List Byte)
    (emit : Bool) (fault : ScanFault) : Channel × List Byte × Bool :=
  let n := r.slot
  let b := i.row
  let q := if (x.slot n).ckpt || code != 2 then x.slotTouch n else (x, false)
  let t := q.1.slot n
  let side := t.workSide
  let float := t.mode == 2
  let p := q.1.rowRead t side b
  let af : ArrFault := if fault = .vector i.vecs then .vector (BitVec.ofNat 16 i.vecs) else .none
  let m : List Word × Channel :=
    if code == 2 then ([], p.2.1)
    else if r.add then (wordsOf ins 128, p.2.1)
    else p.2.1.streamVector t.array false ins i.vecs af
  let upd : Nat → Int × Nat := fun j =>
    let h := if code == 1 then 0 else p.1.getD j 0
    let u := m.1.getD j 0
    let k := esh + toSigned 8 (field csh j 1)
    let d := decayAt dec j float
    if float then (((stepFloat u k d (wordOf h)).toNat : Int), 0) else stepInt t.width u.toInt (k + t.point b) d.toInt h
  let new := if code == 2 then p.1.map (fun v => (v, 0)) else (List.range 128).map upd
  let y := if code == 2 then m.2 else m.2.rowWrite t side b (if code == 3 then List.replicate 128 0 else new.map (·.1))
  let outs := if emit then new.map (fun v => convertTgt (ofmtTgt r.ofmt) .rne ((stateVal t b v.1).scale (-r.osh))) else []
  let sat := new.foldl (fun s v => s + v.2) 0
  let y := if code == 2 then y else y.inc SCAN_STEPS 1
  let y := if sat == 0 then y else (y.orReg SCAN_STAT 0x80).bump SCAN_SATCNT sat
  let y := (y.inc SCAN_OUT outs.length).inc SCAN_CLIP (outs.filter (·.clip)).length
  let y := if fault = .mismatch i.vecs && code != 2 then (y.orReg SCAN_STAT 0x100).raise 0x0A else y
  (y, (outs.map (fun o => leBytes (ofmtSize r.ofmt) o.w)).flatten, q.2 || p.2.2)

/-- The tables of a chunk behind its record: decays with DMODE 1, the row and the column input shifts. -/
def stepDec (r : StepRec) (i : DIns) : List Byte := if r.dmode == 1 then (i.rcd.drop 64).take 512 else []
def stepEsh (r : StepRec) (i : DIns) (b : Nat) : Int :=
  if r.esrc == 0 then 0 else toSigned 8 (field (i.rcd.drop (64 + (if r.dmode == 1 then 512 else 0))) b 1)
def stepCsh (r : StepRec) (i : DIns) (rows : Nat) : List Byte :=
  if r.csrc == 0 then [] else i.rcd.drop (64 + (if r.dmode == 1 then 512 else 0) + (if r.esrc == 0 then 0 else rows))

/-- What a row of a chunk came to: it is done, or it waits for a ring or is stopped by an event; with the progress. -/
structure RowRes where
  x : Channel
  i : DIns
  on : Bool
deriving DecidableEq, Repr

/-- The end of a row: after a step's last row come the step's count and its renormalisation (R257). -/
def Channel.rowNext (x : Channel) (r : StepRec) (i : DIns) (ran : Nat) : RowRes :=
  let t := x.slot r.slot
  let i := { i with ibuf := [], dbuf := [], vecs := i.vecs + ran }
  if i.row + 1 < t.rows then ⟨x, { i with row := i.row + 1 }, true⟩
  else
    let y := x.setSlot r.slot { t with steps := t.steps + 1 }
    let q := if r.normk != 0 && (t.steps + 1).toNat % r.normk == 0 then y.normTouch r.slot r.guard t.rows 0 else (y, false)
    ⟨q.1, { i with row := 0, i := i.i + 1 }, !q.2⟩

/-- One row of a chunk, as far as its rings go. -/
def Channel.rowRun (x : Channel) (r : StepRec) (i : DIns) (fault : ScanFault) : RowRes :=
  let t := x.slot r.slot
  let z := stepSizes r t (x.arr t.array).mode
  let at_ := i.i * t.rows + i.row
  let emit := r.omode == 1 || (r.omode == 2 && i.i + 1 == i.count)
  let o : Channel × List Byte := if bitOf r.flags 3 then x.rowPush (BitVec.ofNat 6 r.odst) i.obuf else (x, [])
  let i := { i with obuf := o.2 }
  if !o.2.isEmpty || i.i ≥ i.count then ⟨o.1, i, false⟩
  else
    let pi := o.1.rowPull r.isrc (bitOf r.flags 0) at_ z.inp i.ibuf
    let pd := pi.2.1.rowPull r.dsrc (bitOf r.flags 1) at_ z.dec i.dbuf
    let i := { i with ibuf := pi.1, dbuf := pd.1 }
    if pi.2.2 || pd.2.2 || pi.1.length < z.inp || pd.1.length < z.dec then ⟨pd.2.1, i, false⟩
    else match pd.2.1.maskCode r z i.i i.row (i.rcd.drop i.n) with
      | none => ⟨pd.2.1, i, false⟩
      | some (code, held, y, bad) =>
        if bad then ⟨y, i, false⟩
        else
          let i := { i with rcd := i.rcd.take i.n ++ held }
          let q := y.stepRow r i code pi.1 (if r.dmode == 1 then stepDec r i else pd.1) (stepEsh r i i.row) (stepCsh r i t.rows) emit fault
          if q.2.2 then ⟨q.1, i, false⟩
          else
            let w := if bitOf r.flags 3 || q.2.1.isEmpty then q.1
                     else q.1.spadWrite (r.odst + (if r.omode == 1 then at_ else i.row) * z.out) q.2.1
            let i := { i with obuf := if bitOf r.flags 3 then q.2.1 else [] }
            let e := w.rowNext r i (if code == 2 then 0 else 1)
            if e.x.raised.length > x.raised.length then { e with on := false } else e

/-- Rows of a chunk until it is done or cannot go on; a freeze stops it between two steps (R262). -/
def Channel.stepRun (r : StepRec) (fault : ScanFault) : Nat → Channel → DIns → Channel × DIns
  | 0, x, i => (x, i)
  | fuel + 1, x, i =>
    if x.freezing && i.row == 0 then
      let o : Channel × List Byte := if bitOf r.flags 3 then x.rowPush (BitVec.ofNat 6 r.odst) i.obuf else (x, [])
      (o.1, { i with obuf := o.2 })
    else
      let e := x.rowRun r i fault
      if e.on then Channel.stepRun r fault fuel e.x e.i else (e.x, e.i)

/-- The causes of a chunk that depend on its slot (R243, R247). -/
def Channel.chunkCauses (x : Channel) (i : DIns) (r : StepRec) : List (Bool × Exc) :=
  let t := x.slot r.slot
  let a := x.arr t.array
  let z := stepSizes r t a.mode
  let l := i.count
  let inp := l * t.rows * z.inp
  let dec := if r.dmode == 1 then 512 else l * t.rows * z.dec
  let out := (if r.omode == 2 then 1 else l) * t.rows * z.out
  let rings : List (Bool × Nat) := [(bitOf r.flags 0, inp), (bitOf r.flags 1 && r.dmode != 0, dec), (bitOf r.flags 2, l * z.mask),
    (bitOf r.flags 3, out)]
  [(!r.add && (!a.loaded || (floatMode a.mode != (t.mode == 2))), .desc), (rings.any (fun e => e.1 && e.2 % 128 != 0), .desc),
   ((!bitOf r.flags 0 && r.isrc + inp > 0x2000000) || (!bitOf r.flags 1 && r.dmode != 0 && r.dsrc + dec > 0x2000000) ||
    (!bitOf r.flags 2 && r.rsrc + l * z.mask > 0x2000000) || r.esrc + (if r.esrc == 0 then 0 else t.rows) > 0x2000000 ||
    r.csrc + (if r.csrc == 0 then 0 else 128) > 0x2000000 || (!bitOf r.flags 3 && r.odst + out > 0x2000000), .spadRange)]

/-- What a SCAN instruction's work came to. -/
inductive ScanRes where
  | go (x : Channel)
  | part (x : Channel)
  | exc (x : Channel) (e : Exc)
deriving DecidableEq, Repr

/-- Puts the instruction at work back at the head of the queue with its progress. -/
def Channel.scanKeep (x : Channel) (i : DIns) : Channel := { x with scan := { x.scan with queue := i :: x.scan.queue.tail } }

/-- A chunk begins: it is checked against its slot, and its tables are read. `n` of the instruction becomes the length of its record
and tables. -/
def Channel.stepBegin (x : Channel) (i : DIns) (r : StepRec) : ScanRes ⊕ (Channel × DIns) :=
  if i.n != 0 then .inr (x, i)
  else match lowest (x.chunkCauses i r) with
    | some e => .inl (.exc x e)
    | none =>
      let t := x.slot r.slot
      let p := if r.dmode == 1 then x.rowPull r.dsrc (bitOf r.flags 1) 0 512 i.dbuf else ([], x, false)
      if p.2.2 then .inl (.part p.2.1)
      else if r.dmode == 1 && p.1.length < 512 then .inl (.part (p.2.1.scanKeep { i with dbuf := p.1 }))
      else
        let pe := if r.esrc == 0 then ([], p.2.1, false) else p.2.1.spadRead r.esrc t.rows
        let pc := if r.csrc == 0 then ([], pe.2.1, false) else pe.2.1.spadRead r.csrc 128
        if pe.2.2 || pc.2.2 then .inl (.part pc.2.1)
        else
          let y := if r.add then pc.2.1 else pc.2.1.setArr t.array (pc.2.1.arr t.array).openWin
          let rcd := i.rcd ++ p.1 ++ pe.1 ++ pc.1
          .inr (y, { i with n := rcd.length, rcd := rcd, dbuf := [] })

/-- SCAN.STEP at work. In MODE M its vectors form one check window of the slot's array, and the instruction completes once
the window's verdict has passed; until then `i` counts one past its steps (R251, R255). -/
def Channel.runStep (x : Channel) (i : DIns) (fault : ScanFault) : ScanRes :=
  let r := stepRec i.rcd
  match x.stepBegin i r with
  | .inl e => e
  | .inr (y, i) =>
    let t := y.slot r.slot
    if i.i > i.count then
      if (y.arr t.array).wins.any (·.no == i.no) then .part y else .go (y.unbindSides i.binds)
    else
      let q := Channel.stepRun r fault (i.count * (t.rows + 1) + 2) y i
      if q.2.i < i.count || !q.2.obuf.isEmpty || q.1.raised.length > x.raised.length then .part (q.1.scanKeep q.2)
      else if r.add then .go (q.1.unbindSides i.binds)
      else .part ((q.1.closeWin t.array i.no q.2.vecs).scanKeep { q.2 with i := i.count + 1 })

/-! ## The other instructions at work -/

/-- SCAN.NORM at work (R257). A float slot is left as it is. -/
def Channel.runNorm (x : Channel) (i : DIns) : ScanRes :=
  let n := field i.rcd 0 1
  let t := x.slot n
  let row0 := field i.rcd 6 2
  if row0 + i.count > t.rows then .exc x .desc
  else if t.mode == 2 then .go x
  else
    let q := x.normTouch n (field i.rcd 4 1) i.count row0
    if q.2 then .part q.1 else .go q.1

/-- The words of one row of initial state (R261). -/
def initWords (t : Slot) (bs : List Byte) : List Int :=
  if t.mode == 1 then (List.range 128).map (fun j => toSigned 64 (field bs (8 * j) 8))
  else (List.range 128).map (fun j => (field bs (4 * j) 4 : Int))

/-- Rows of initial state. -/
def Channel.initRows (n src psrc : Nat) (pts : List Byte) : Nat → Nat → Channel → Channel × Bool
  | 0, _, x => (x, false)
  | k + 1, b, x =>
    let t := x.slot n
    let sz := 512 * t.per
    let p := x.spadRead src sz
    let y := p.2.1.rowWrite t t.workSide b (initWords t p.1)
    let y := if psrc == 0 then y else y.setSlot n (t.setPoint b (byteAt pts 0).toInt)
    let q := Channel.initRows n (src + sz) psrc (pts.drop 1) k (b + 1) y
    (q.1, p.2.2 || q.2)

/-- SCAN.INIT at work (R261). -/
def Channel.runInit (x : Channel) (i : DIns) : ScanRes :=
  let n := field i.rcd 0 1
  let t := x.slot n
  let row0 := field i.rcd 4 2
  let src := field i.rcd 8 4
  let psrc := field i.rcd 12 4
  if row0 + i.count > t.rows then .exc x .desc
  else if src + i.count * 512 * t.per > 0x2000000 || psrc + i.count > 0x2000000 then .exc x .spadRange
  else
    let pp := if psrc == 0 then ([], x, false) else x.spadRead psrc i.count
    if pp.2.2 then .part pp.2.1
    else if psrc != 0 && pp.1.any (fun b => b.toInt < -64 || b.toInt > 63) then .exc pp.2.1 .desc
    else
      let p := pp.2.1.slotTouch n
      let q := Channel.initRows n src psrc pp.1 i.count row0 p.1
      if p.2 || q.2 then .part q.1 else .go q.1

/-- Whether entries [base, base + k) of an array are free of LIVE slots. -/
def Channel.slotFree (x : Channel) (k : Fin 2) (base n : Nat) : Bool := !x.slotOwns k base n

/-- SCAN.SLOT at work (R258). Assign and thaw write an unprotected slot's entries: a checker event of the command then
makes it LOST (R254). -/
def Channel.runSlot (x : Channel) (i : DIns) : ScanRes :=
  let b := i.rcd
  let n := field b 0 1
  let t := x.slot n
  let k : Fin 2 := if field b 2 1 == 0 then 0 else 1
  let base := field b 4 2
  let daddr := field b 8 8
  let xgen : BitVec 16 := BitVec.ofNat 16 (field b 16 2)
  match i.mod.toNat with
  | 0 =>
    let u : Slot := { t with
      state := 1, array := k, base := base, rows := field b 6 2, mode := field b 1 1 % 4, ckpt := bitOf (field b 1 1) 2,
      side := false, gen := t.nextGen, nextGen := if t.nextGen == 0xFFFF then 1 else t.nextGen + 1, steps := 0,
      points := [], wrote := !bitOf (field b 1 1) 2, old := none }
    let u := { u with points := if u.mode == 2 then [] else ssets 0 [] 0 (List.replicate u.rows (BitVec.ofNat 8 (field b 3 1))) }
    if t.state == 1 || base + u.entries > 4096 || !x.slotFree k base u.entries then .exc x .desc
    else
      let a := x.accOf k
      let y := x.setAcc k { a with mem := sclear a.mem (128 * base) (128 * u.entries),
                                   err := a.err.filter (fun m => m.1 < 128 * base || 128 * (base + u.entries) ≤ m.1) }
      .go (y.setSlot n u)
  | 1 => if t.gen != xgen || (t.ckpt && t.wrote) then .exc x .desc else .go (x.setSlot n { t with state := 0 })
  | 2 =>
    if t.gen == xgen && t.state == 2 && t.faddr.toNat == daddr then .go x
    else if t.state != 1 || t.gen != xgen || (t.ckpt && t.wrote) then .exc x .desc
    else
      let p := x.section n
      if !x.dramOk daddr p.1.length then .exc x .dramRange
      else if p.2.2 then .part p.2.1
      else .go ((p.2.1.dramWrite daddr p.1).setSlot n { t with state := 2, faddr := BitVec.ofNat 64 daddr })
  | _ =>
    if !x.dramOk daddr 64 then .exc x .dramRange
    else if t.state == 1 then .exc x .desc
    else
      let h := x.dramRead daddr 64
      let len := sectionLen h.1
      if h.2.2 then .part h.2.1
      else if !x.dramOk daddr len then .exc h.2.1 .dramRange
      else
        let p := h.2.1.dramRead (daddr + 64) (len - 64)
        let bs := h.1 ++ p.1
        let u := sectionSlot bs k base t
        if p.2.2 then .part p.2.1
        else if !sectionOk bs || base + u.entries > 4096 || !x.slotFree k base u.entries then .exc p.2.1 .desc
        else
          let y := p.2.1.restore1 n k base bs
          .go (y.setSlot n { y.slot n with wrote := !u.ckpt })

/-- The entries that an instruction writes from outside its slot: those an assign or a thaw takes. -/
def Channel.scanTakes (x : Channel) (i : DIns) (k : Fin 2) : Bool :=
  i.opc == 0x82 && (i.mod.toNat % 4 == 0 || i.mod.toNat % 4 == 3) && x.drainHolds k i.no (field i.rcd 4 2) 4096

/-- What the instruction at the head waits for: earlier work on the array, the verdicts of its windows, and for a new
window a place in the verdict queue (R77, R137, R145, R146). -/
def Channel.scanWaits (x : Channel) (i : DIns) : Bool :=
  match x.scanArr i with
  | none => false
  | some k =>
    let a := x.arr k
    x.tileEarlier k i.no (x.scanStreams i) || a.wins.any (fun w => w.no < i.no) || x.convEarlier k i.no || x.scanTakes i k ||
      (x.scanStreams i && i.n == 0 && a.wins.length ≥ 8)

/-- Whether a SCAN instruction reaches DRAM. -/
def scanOnDram (i : DIns) : Bool := i.opc == 0x82 && i.mod.toNat % 4 ≥ 2

/-- Whether the head of the queue is a SCAN.STEP at work. -/
def Channel.scanRuns (x : Channel) : Bool := match x.scan.queue with | i :: _ => i.opc == 0x80 && i.n != 0 | [] => false

/-- Whether the SCAN datapath stands where a freeze stops it: between two steps, or at a row whose bytes no ring gives while the
engines stand still (R262). (DEDUCED, log entry 28.) -/
def Channel.scanRests (x : Channel) : Bool :=
  match x.scan.queue with
  | i :: _ => !x.scanRuns || i.row == 0 || !(x.rowRun (stepRec i.rcd) i .none).on
  | [] => true

/-- The instruction at the head of the SCAN datapath's queue runs; when its last state and output are in place its token
increments (R251). While a freeze is taken a SCAN.STEP finishes its present step (R262). -/
def execScanInstrComplete (ch : ChId) (fault : ScanFault) (s : State) : Out :=
  .next (
    let s := s.scanSettle ch
    let x := s.chan ch
    match x.scan.queue with
    | [] => s
    | i :: r =>
      let x := if scanOnDram i then x.dramTurn else x
      if !(x.engineWork || (x.engineGo && x.scanRuns && (i.row != 0 || !i.obuf.isEmpty))) || i.rcd.isEmpty || x.mustFence i || x.scanWaits i ||
          (scanOnDram i && x.dramHeld) then s
      else
        let q := if i.opc == 0x80 then x.runStep i fault else if i.opc == 0x81 then x.runNorm i
                 else if i.opc == 0x83 then x.runInit i else x.runSlot i
        match q with
        | .exc y e => (s.setChan ch y).except ch e i.org true
        | .part y => s.setChan ch y
        | .go y => ((s.setChan ch { y with scan := { y.scan with queue := r } }).tokenIn ch i.tk i.org).scanSettle ch)

/-- Fenced instructions leave the fence, in issue order and ahead of the queue, once their slot is LIVE with their
generation (R260). They count as issued then. -/
def execScanFenceRelease (ch : ChId) (s : State) : Out :=
  .next (s.modChan ch (fun x =>
    let ready : DIns → Bool := fun i =>
      let t := x.slot (field i.rcd 0 1 % 32)
      t.state == 1 && t.gen == scanGen i.rcd
    let out := x.scan.fence.filter ready
    let n := out.length
    { x with
      issued := x.issued + n
      scan := { x.scan with
        fence := x.scan.fence.filter (fun i => !ready i)
        queue := (out.zip (List.range n)).map (fun e => { e.1 with no := x.issued + e.2, freed := true }) ++ x.scan.queue } }))

end Sys2Proof.Machine
end

