-- ==== Sys2Proof/Machine/Conv.lean ====
section
/-!
DEFINITION. The CONV instructions, their passes and halos (R175 to R203).
(DESIGN CHOICE, log entries 8 and 30.)
-/

namespace Sys2Proof.Machine

open Sys2Proof

/-! ## CONV.HALO (R201) -/

/-- Arms or disarms a halo from its record; answers an exception. -/
def Channel.runHalo (x : Channel) (i : DIns) (b : List Byte) : Channel × Option Exc :=
  let h := field b 0 1
  let t := x.halo h
  let r : BitVec 6 := BitVec.ofNat 6 (field b 1 1)
  let reserved : Bool := h ≥ 4 || field b 1 1 ≥ 64 || !zeroBytes b 2 4 || field b 12 1 ≥ 128 || !zeroBytes b 13 64
  let drop : Channel → Channel := fun y =>
    if t.armed then ((y.unbindProd t.ring).unbindCons t.ring).setHalo h {} else y
  if i.mod.getLsbD 0 then
    match lowest [(reserved, .illegal), (field b 4 4 % 128 != 0 || field b 4 4 == 0, .desc),
        (!(x.ring r).valid || (x.ring r).prod.isSome || (x.ring r).cons.isSome || (x.ring r).fill != 0, .ring)] with
    | some e => (x, some e)
    | none =>
      let y := ((drop x).bindProd r .halo).bindCons r .halo
      (y.setHalo h { ring := r, armed := true, sch := BitVec.ofNat 4 (field b 12 1), sdev := BitVec.ofNat 3 (field b 12 1 / 16),
                     next := BitVec.ofNat 32 (field b 8 4), rowb := BitVec.ofNat 32 (field b 4 4),
                     first := BitVec.ofNat 32 (field b 8 4) }, none)
  else match lowest [(reserved, .illegal)] with
    | some e => (x, some e)
    | none => (drop x, none)

/-! ## The queue (R175) -/

/-- The slots an instruction takes: one per array it names; CONV.POOL takes a free one. -/
def Channel.convSlots (x : Channel) (i : DIns) : List (Fin 2) :=
  if i.opc == 0x63 then (if (x.win.slots.get 0).isNone then [0] else [1]) else unitArrs i.unit

/-- Whether an instruction leaves the queue: its slots are free, and every instruction issued before it has left the queues of the
arrays it names (R175). -/
def Channel.convFree (x : Channel) (i : DIns) : Bool :=
  (x.convSlots i).all (fun k => (x.win.slots.get k).isNone) &&
  (unitArrs i.unit).all (fun k => !(x.arr k).queue.any (fun j => j.no < i.no))

/-- Whether the arrays a pass names still work on instructions issued before it, or a drain has yet to read what it writes (R77,
R137). -/
def Channel.convWaits (x : Channel) (i : DIns) : Bool :=
  (unitArrs i.unit).any (fun k => x.tileEarlier k i.no true || x.accEarlier k i.no || x.loadEarlier k i.no ||
    (convSpans i).any (fun e => x.drainHolds k i.no e.1 e.2))

/-- Takes instructions from the head of the queue as slots and arrays allow; CONV.HALO runs at once (R175, R178). -/
def convHead : Nat → State → ChId → State
  | 0, s, _ => s
  | fuel + 1, s, c =>
    let x := s.chan c
    match x.win.queue with
    | [] => s
    | i :: r =>
      if !x.engineWork then s
      else if i.opc == 0x64 then
        let p := x.spadRead i.desc 64
        if p.2.2 then s.setChan c p.2.1
        else match p.2.1.runHalo i p.1 with
          | (y, some e) => (s.setChan c y).except c e i.org true
          | (y, none) => convHead fuel (s.setChan c { y with win := { y.win with queue := r } }) c
      else if !x.convFree i then s
      else
        let beyond : Bool := i.desc + 128 > 0x2000000
        let p := x.spadRead i.desc (if beyond then 64 else 128)
        if p.2.2 then s.setChan c p.2.1
        else
          let b := p.2.1.bindSides .win .win (convSides i p.1).1 (convSides i p.1).2 i.binds
          match if beyond then some .spadRange else lowest (b.1.convCauses i p.1 b.2.bad) with
          | some e => (s.setChan c p.2.1).except c e i.org true
          | none =>
            let i' := { i with rcd := p.1, binds := b.2 }
            let y := b.1
            let slots := (x.convSlots i).foldl (fun (v : Vector (Option DIns) 2) (k : Fin 2) => v.set k.val (some i') k.isLt) y.win.slots
            convHead fuel (s.setChan c { y with win := { y.win with queue := r, slots := slots } }) c

/-- Brings the window generator's queue as far as it goes. -/
def State.convSettle (s : State) (c : ChId) : State := convHead 5 s c

/-! ## Issue -/

/-- Issues a CONV instruction into the window generator's queue. -/
def convIssue (s : State) (c : ChId) (opc : Byte) (f : FmtD) (tok legal : Bool) : State :=
  let t := issueD s c opc f legal (fun s desc =>
    let x := s.chan c
    let i := mkDIns s c opc f desc
    if x.win.queue.length ≥ 4 then .stall .unit
    else
      let b := x.rawRec desc 128
      let q := x.bindSides .win .win (convSides i b).1 (convSides i b).2 {}
      let i := { i with binds := q.2 }
      let y := { q.1 with win := { x.win with queue := x.win.queue ++ [i] }, issued := x.issued + 1 }
      .done (s.setChan c (if tok then y.modSeq (·.begin f.tk) else y)))
  if (t.chan c).issued == (s.chan c).issued then t else t.convSettle c

/-- CONV.WIN (R179). -/
def execConvWin (ch : ChId) (f : FmtD) (s : State) : Out := .next (convIssue s ch 0x60 f true (f.unit != 0 && f.mod.toNat < 2))

/-- CONV.WINO (R192). -/
def execConvWino (ch : ChId) (f : FmtD) (s : State) : Out := .next (convIssue s ch 0x61 f true (f.unit != 0 && f.mod == 0))

/-- CONV.DW (R190). -/
def execConvDw (ch : ChId) (f : FmtD) (s : State) : Out := .next (convIssue s ch 0x62 f true (f.unit != 0 && f.mod.toNat < 2))

/-- CONV.POOL (R198). -/
def execConvPool (ch : ChId) (f : FmtD) (s : State) : Out := .next (convIssue s ch 0x63 f true (f.unit == 0 && f.mod == 0))

/-- The fields of CONV.HALO. -/
def haloForm (f : FmtD) : Bool := f.unit == 0 && f.tk == 0 && f.count == 0 && f.mod.toNat < 2

/-- CONV.HALO with MOD[0] = 1 (R201). -/
def execConvHaloArm (ch : ChId) (f : FmtD) (s : State) : Out :=
  let g := { f with mod := setBit f.mod 0 true }
  .next (convIssue s ch 0x64 g false (haloForm g))

/-- CONV.HALO with MOD[0] = 0 (R201). -/
def execConvHaloDisarm (ch : ChId) (f : FmtD) (s : State) : Out :=
  let g := { f with mod := setBit f.mod 0 false }
  .next (convIssue s ch 0x64 g false (haloForm g))

/-! ## Passes -/

/-- What a pass came to. -/
inductive ConvRes where
  | go (x : Channel)              -- finished
  | part (x : Channel) (i : DIns) -- waits, or stopped by a checker event
  | exc (x : Channel) (e : Exc)   -- an imprecise exception
deriving DecidableEq, Repr

/-- A fault of one array's hardware, as array `k` meets it. -/
def faultOn (f : Fin 2 × ArrFault) (k : Fin 2) : ArrFault := if f.1 = k then f.2 else .none

/-- The initial writes of a pass (R184, R185): every entry takes its pattern's initial vector, added onto its contents with
ACC = 1. A fault of an addition is an adder mismatch (R147). -/
def Channel.convInit (x : Channel) (i : DIns) (idx n : Nat) (k : Fin 2) (f : Fin 2 × ArrFault) : Channel × Bool :=
  let b := i.rcd
  let acc := i.mod.getLsbD 0
  let padv := field b 36 4
  let px := cPixels b i.count
  (px.zip (List.range px.length)).foldl (fun (a : Channel × Bool) p =>
    let pat := padPattern b p.1
    let e := cEntry b + p.2
    let q := if padv == 0 then (List.replicate 128 (0 : Word), a.1, false)
             else a.1.initVec b idx n (floatMode (cMode b)) pat
    let ws := q.1.take (cCols b)
    let y := if acc then (if padv == 0 || pat.isEmpty then q.2.1 else q.2.1.accumulate k (floatMode (cMode b)) e false ws)
             else q.2.1.accWrite k e ws
    let y := if faultOn f k = .init (BitVec.ofNat 16 p.2) then y.chkFail k 2 0 (floatMode (cMode b)) else y
    (y, a.2 || q.2.2)) (x, false)

/-- Fetches the records of a tile for every array named, or passes over them; nothing when the ring is short. -/
def Channel.convRecords (x : Channel) (i : DIns) (n : Nat) (skip : Bool) : Option (List Byte × Channel × Bool) :=
  let b := i.rcd
  if cWRing b then
    let r : BitVec 6 := BitVec.ofNat 6 (field b 40 4)
    let off := i.vecs - steps128 i.vecs
    if (x.ring r).fill < off + n then none
    else
      let p : List Byte × Channel × Bool :=
        if skip then ([], x, false) else x.ringRead (x.ring r) ((x.ring r).tail + BitVec.ofNat 32 off) n
      some (p.1, p.2.1.advTail r (steps128 (i.vecs + n) - steps128 i.vecs), p.2.2)
  else some (if skip then ([], x, false) else x.spadRead (field b 40 4 + i.vecs) n)

/-- Streams one tile over the pixels of a pass: every array named takes each vector. -/
def Channel.convStream (x : Channel) (i : DIns) (t : ConvTile) (f : Fin 2 × ArrFault) : Channel × Nat × Bool :=
  let b := i.rcd
  let px := cPixels b i.count
  (px.zip (List.range px.length)).foldl (fun (a : Channel × Nat × Bool) p =>
    match a.1.tileVec b t p.1.1 p.1.2 with
    | none => (a.1.inc WIN_SKIPV 1, a.2)
    | some (v, y, bad) =>
      let z := (unitArrs i.unit).foldl (fun (w : Channel) k => w.macVector k (cEntry b + p.2) false (cAfmt b == 3) v a.2.1 (faultOn f k)) y
      (z.inc WIN_VEC 1, a.2.1 + 1, a.2.2 || bad)) (x, 0, false)

/-- Loads each array named from its part of the records. -/
def Channel.convLoads (x : Channel) (i : DIns) (dw : Bool) (rows size : Nat) (recs : List Byte) : Channel :=
  let ks := unitArrs i.unit
  (ks.zip (List.range ks.length)).foldl (fun (y : Channel) p =>
    let z := y.convLoad p.1 i.rcd dw rows ((recs.drop (size * p.2)).take size)
    z.setArr p.1 (z.arr p.1).openWin) x

/-- Whether a reserved byte of a codebook record's header is not 0 (R180, R498), in the records of `k` arrays. -/
def headerBad (b : List Byte) (k size : Nat) (recs : List Byte) : Bool :=
  cMode b == 2 && (List.range k).any (fun j => !zeroBytes recs (size * j + 16) (size * j + 64))

/-- Tiles of CONV.WIN and CONV.DW until the pass is done or its weight ring is short. -/
def Channel.convTiles (dw : Bool) (ts : List ConvTile) (f : Fin 2 × ArrFault) : Nat → Channel → DIns → ConvRes
  | 0, x, _ => .go x
  | fuel + 1, x, i =>
    match ts[i.i]? with
    | none => .go x
    | some t =>
      let b := i.rcd
      let size := recBytes b dw t
      let n := size * (unitArrs i.unit).length
      let skip := (cPixels b i.count).all (fun p => t.taps.all (fun k => inPad b (tapAt b p.1 p.2 k)))
      match x.convRecords i n skip with
      | none => .part x i
      | some (recs, y, bad) =>
        let j := { i with i := i.i + 1, vecs := i.vecs + n }
        if bad then .part y i
        else if !skip && headerBad b (unitArrs i.unit).length size recs then .exc y .illegal
        else if skip then
          Channel.convTiles dw ts f fuel ((y.inc WIN_SKIPT 1).inc WIN_SKIPV (cPixels b i.count).length) j
        else
          let q := (y.convLoads i dw t.rows size recs).convStream i t f
          let z := (unitArrs i.unit).foldl (fun (w : Channel) k => w.closeConvWin k i.no q.2.1) (q.1.inc WIN_SLOW_AC (x.tileSlow i t))
          if q.2.2 || z.raised.length > x.raised.length then .part z j else Channel.convTiles dw ts f fuel z j

/-- Pixels that receive no vector from any tile: their initial write costs one accumulator ac (R184). -/
def initOnly (b : List Byte) (count : Nat) : Nat :=
  ((cPixels b count).filter (fun p => (padPattern b p).length == cKH b * cKW b)).length

/-- CONV.WIN and CONV.DW at work. -/
def Channel.runWin (x : Channel) (i : DIns) (f : Fin 2 × ArrFault) : ConvRes :=
  let b := i.rcd
  let dw := i.opc == 0x62
  let ks := unitArrs i.unit
  let q : Channel × Bool :=
    if i.n != 0 then (x, false)
    else
      let r := (ks.zip (List.range ks.length)).foldl (fun (a : Channel × Bool) p =>
        let q := a.1.convInit i p.2 ks.length p.1 f
        (q.1, a.2 || q.2)) (x, false)
      (r.1.inc WIN_INIT (initOnly b i.count), r.2)
  let j := { i with n := 1 }
  if q.2 then .part q.1 i
  else if q.1.raised.length > x.raised.length then .part q.1 j
  else Channel.convTiles dw (cTiles b dw) f ((cTiles b dw).length + 1) q.1 j

/-! ### Winograd -/

/-- The input-channel groups: first channel and channels. -/
def wGroups (b : List Byte) : List (Nat × Nat) :=
  (List.range (ceilDiv (cIC b) 128)).map (fun g => (128 * g, min 128 (cIC b - 128 * g)))

/-- The patch of output square `n`: each position's element codes over `nch` channels, PADV in padding. -/
def Channel.wPatch (x : Channel) (b : List Byte) (n c0 nch : Nat) : List (List (List Nat)) × Channel × Bool :=
  let m := wM b
  let sx := cOW b / m
  let y0 := cOY0 b + n / sx * m
  let x0 := cOX0 b + n % sx * m
  (List.range (m + 2)).foldl (fun (a : List (List (List Nat)) × Channel × Bool) u =>
    let r := (List.range (m + 2)).foldl (fun (a : List (List Nat) × Channel × Bool) v =>
      let p : Int × Int := (((y0 + u : Nat) : Int) - (field b 32 1 : Int), ((x0 + v : Nat) : Int) - (field b 34 1 : Int))
      if inPad b p then (a.1 ++ [List.replicate nch (field b 36 4)], a.2)
      else
        let q := a.2.1.atPos b p c0 nch
        (a.1 ++ [q.1], q.2.1, a.2.2 || q.2.2)) (([] : List (List Nat)), a.2.1, false)
    (a.1 ++ [r.1], r.2.1, a.2.2 || r.2.2)) (([] : List (List (List Nat))), x, false)

/-- Forms and stages V of one output square for a channel group (R193 to R196). -/
def Channel.wStage (x : Channel) (b : List Byte) (count g c0 nch n : Nat) : Channel × Bool :=
  let m := wM b
  let vb := vecBytes (cMode b)
  let nt := wNT b count
  let p := x.wPatch b n c0 nch
  let vs := (List.range nch).map (fun c => wV (cAfmt b) m (p.1.map (fun r => r.map (fun e => e.getD c 0))))
  let y := p.2.1.inc WIN_CLIP (vs.foldl (fun a v => a + v.2) 0)
  let half := field b 64 4 + g % 2 * ((m + 2) * (m + 2) * nt * vb)
  ((List.range ((m + 2) * (m + 2))).foldl (fun (z : Channel) xi =>
    let codes := vs.map (fun v => ((v.1.getD (xi / (m + 2)) []).getD (xi % (m + 2)) 0))
    z.spadWrite (half + (xi * nt + n) * vb) (packCodes (cMode b) codes)) y, p.2.2)

/-- One position of one group: its tile is loaded and one staged vector per output square streams (R196). -/
def Channel.wPosition (x : Channel) (i : DIns) (g xi nch : Nat) (recs : List Byte) (size : Nat) (f : Fin 2 × ArrFault) : Channel × Bool :=
  let b := i.rcd
  let m := wM b
  let vb := vecBytes (cMode b)
  let nt := wNT b i.count
  let half := field b 64 4 + g % 2 * ((m + 2) * (m + 2) * nt * vb)
  let y := x.convLoads i false nch size recs
  let q := (List.range nt).foldl (fun (a : Channel × Bool) n =>
    let p := a.1.spadRead (half + (xi * nt + n) * vb) vb
    let z := (unitArrs i.unit).foldl
      (fun (w : Channel) k => w.macVector k (cEntry b + xi * nt + n) (g == 0) (cAfmt b == 3) p.1 n (faultOn f k)) p.2.1
    (z.inc WIN_VEC 1, a.2 || p.2.2)) (y, false)
  ((unitArrs i.unit).foldl (fun (w : Channel) k => w.closeConvWin k i.no nt) q.1, q.2)

/-- The output transform of one array (R193, R194, R196): each output square's positions into its pixels' entries. -/
def Channel.wOutput (x : Channel) (i : DIns) (k : Fin 2) : Channel × Bool :=
  let b := i.rcd
  let m := wM b
  let nt := wNT b i.count
  let sx := cOW b / m
  (List.range nt).foldl (fun (a : Channel × Bool) n =>
    let r := (List.range ((m + 2) * (m + 2))).foldl (fun (a : List (List Word) × Channel × Bool) xi =>
      let p := a.2.1.accRead k (cEntry b + xi * nt + n) (cCols b) false
      (a.1 ++ [p.1], p.2.1, a.2.2 || p.2.2)) (([] : List (List Word)), a.1, false)
    let mat : Nat → List (List Word) := fun j =>
      (List.range (m + 2)).map (fun u => (List.range (m + 2)).map (fun v => (r.1.getD (u * (m + 2) + v) []).getD j 0))
    let outI : Nat → List (List (Int × Bool)) := fun j =>
      transform ((0 : Int), false) (fun c v => (c * v.1, v.2))
        (fun p q => let t := p.1 + q.1; (isat32 t, p.2 || q.2 || decide (isat32 t ≠ t))) (wAT m)
        ((mat j).map (fun w => w.map (fun v => (v.toInt, false))))
    let outF : Nat → List (List Word) := fun j => transform (0 : Word) (fun c w => fmul (fint c) w) fadd (wAT m) (mat j)
    let float := floatMode (cMode b)
    let cols := List.range (cCols b)
    let is := if float then [] else cols.map outI
    let fs := if float then cols.map outF else []
    let z := (List.range (m * m)).foldl (fun (z : Channel) p =>
      let e := cOEntry b + (n / sx * m + p / m) * cOW b + n % sx * m + p % m
      let rs : List (Word × Bool) :=
        if float then fs.map (fun t => ((t.getD (p / m) []).getD (p % m) 0, false))
        else is.map (fun t => let v := (t.getD (p / m) []).getD (p % m) (0, false); (wordOf v.1, v.2))
      let sat := (rs.filter (·.2)).length
      let z := z.accWrite k e (rs.map (·.1))
      if sat == 0 then z else (z.orReg (MA_STAT k.val) 0x4000).bump (MA_SATCNT k.val) sat) r.2.1
    (z, a.2 || r.2.2)) (x, false)

/-- Positions of a Winograd pass until it is done or its weight ring is short: `i.i` counts groups × positions. -/
def Channel.wRun (f : Fin 2 × ArrFault) : Nat → Channel → DIns → ConvRes
  | 0, x, _ => .go x
  | fuel + 1, x, i =>
    let b := i.rcd
    let np := (wM b + 2) * (wM b + 2)
    let g := i.i / np
    match (wGroups b)[g]? with
    | none =>
      let q := (unitArrs i.unit).foldl (fun (a : Channel × Bool) k => let p := a.1.wOutput i k; (p.1, a.2 || p.2)) (x, false)
      if q.2 then .part q.1 i else .go q.1
    | some (c0, nch) =>
      let st := if i.i % np != 0 then (x, false)
                else (List.range (wNT b i.count)).foldl (fun (a : Channel × Bool) n =>
                  let p := a.1.wStage b i.count g c0 nch n
                  (p.1, a.2 || p.2)) (x, false)
      let size := nch * rowBytes (cMode b) (cCbn b) (cWide b)
      let n := size * (unitArrs i.unit).length
      if st.2 then .part st.1 i
      else match st.1.convRecords i n false with
        | none => .part x i
        | some (recs, y, bad) =>
          let j := { i with i := i.i + 1, vecs := i.vecs + n }
          if bad then .part y i
          else
            let q := y.wPosition i g (i.i % np) nch recs size f
            if q.2 || q.1.raised.length > x.raised.length then .part q.1 j else Channel.wRun f fuel q.1 j

/-! ### Pooling -/

/-- The window of an output pixel over the pool's lanes: per tap the codes, or nothing in padding. Binomial mode takes the
nearest edge element instead (R198). -/
def Channel.poolWin (x : Channel) (b : List Byte) (y px lanes : Nat) : List (Option (List Nat)) × Channel × Bool :=
  let edge := cPMode b % 4 == 2
  (List.range (cKH b * cKW b)).foldl (fun (a : List (Option (List Nat)) × Channel × Bool) t =>
    let p := tapAt b y px t
    let p := if edge then (max 0 (min ((cIH b : Int) - 1) p.1), max 0 (min ((cIW b : Int) - 1) p.2)) else p
    if inPad b p then (a.1 ++ [none], a.2)
    else
      let q := a.2.1.atPos b p (cC0 b) lanes
      (a.1 ++ [some q.1], q.2.1, a.2.2 || q.2.2)) (([] : List (Option (List Nat))), x, false)

/-- The bytes of one pooled pixel. Lanes beyond IC − C0 are not written: the high nibble behind an odd number of int4 lanes keeps what
`old` holds there. -/
def poolBytes (b : List Byte) (lanes : Nat) (old : Byte) (win : List (Option (List Nat))) : List Byte :=
  let codes := (List.range lanes).map (fun c => poolOut b (win.map (fun o => o.map (fun l => l.getD c 0))))
  match cE2 b with
  | 1 => (List.range ((lanes + 1) / 2)).map (fun k =>
      BitVec.ofNat 8 (codes.getD (2 * k) 0 % 16 + 16 * (codes.getD (2 * k + 1) (old.toNat / 16) % 16)))
  | 4 => (codes.map (fun v => leBytes 2 v)).flatten
  | _ => codes.map (fun v => BitVec.ofNat 8 v)

/-- Bytes from the first output of a pool to pixel `p`. -/
def poolOff (b : List Byte) (p : Nat) : Nat := p / cOW b * field b 68 4 + p % cOW b * (64 * cE2 b)

/-- Bytes that are finished when pixels below `p` are written. -/
def poolDone (b : List Byte) (p : Nat) : Nat := p / cOW b * field b 68 4 + min (p % cOW b * (64 * cE2 b)) (field b 68 4)

/-- Pixels of a pool until the pass is done or its output ring is short: `i.i` counts them. The ring takes the outputs in
128-byte steps (R82). -/
def Channel.poolRun : Nat → Channel → DIns → ConvRes
  | 0, x, _ => .go x
  | fuel + 1, x, i =>
    let b := i.rcd
    let p := i.i
    if p ≥ i.count * cOW b then .go x
    else
      let lanes := min 128 (cIC b - cC0 b)
      let ring := bitOf (cPMode b) 3
      let r : BitVec 6 := BitVec.ofNat 6 (field b 64 4)
      let off := poolOff b p
      let base := steps128 (poolDone b p)
      let next := steps128 (poolDone b (p + 1))
      if ring && (x.ring r).free < max (next - base) (off + 64 * cE2 b - base) then .part x i
      else
        let w := x.poolWin b (cOY0 b + p / cOW b) (cOX0 b + p % cOW b) lanes
        if w.2.2 then .part w.2.1 i
        else
          let z := w.2.1
          let last := (lanes + 1) / 2 - 1
          let old := rd8 z.spad.mem (if ring then (z.ring r).addr ((z.ring r).head + BitVec.ofNat 32 (off - base + last))
                                     else field b 64 4 + off + last)
          let bs := poolBytes b lanes old w.1
          let y := if ring then (z.ringWrite (z.ring r) ((z.ring r).head + BitVec.ofNat 32 (off - base)) bs).advHead r (next - base)
                   else z.spadWrite (field b 64 4 + off) bs
          Channel.poolRun fuel y { i with i := p + 1 }

/-- CONV.POOL at work (R198, R199). -/
def Channel.runPool (x : Channel) (i : DIns) : ConvRes := Channel.poolRun (i.count * cOW i.rcd + 1) x i

/-! ## Completion -/

/-- The end of a pass (R186, R203): rows are released and rings unbound, and its slots are free. -/
def Channel.convEnd (x : Channel) (i : DIns) : Channel :=
  let b := i.rcd
  let y := if cIRing b then x.advTail (BitVec.ofNat 6 (field b 0 4)) (field b 76 2 * field b 4 4) else x
  let rel : Bool → Nat → Nat → Channel → Channel := fun on h n z =>
    if on then z.advTail (z.halo h).ring (n * (z.halo h).rowb.toNat) else z
  let hb := field b 61 1
  let y := rel (bitOf hb 5) (bitsOf hb 4 3) (field b 80 2) (rel (bitOf hb 2) (hb % 4) (field b 78 2) y)
  let y := y.unbindSides i.binds
  { y with win := { y.win with slots := y.win.slots.map (fun o => match o with | some j => if j.no == i.no then none else o | none => none) } }

/-- Keeps the progress of a pass in its slots. -/
def Channel.convKeep (x : Channel) (i : DIns) : Channel :=
  { x with win := { x.win with slots := x.win.slots.map (fun o => match o with | some j => if j.no == i.no then some i else o | none => none) } }

/-- The pass in a slot runs as far as it can. It waits for its arrays and its rows. -/
def convStep (s : State) (c : ChId) (slot : Fin 2) (f : Fin 2 × ArrFault) : State :=
  let x := s.chan c
  match x.win.slots.get slot with
  | none => s
  | some i =>
    if !x.engineWork || x.convWaits i || !(x.rowsReady i.rcd i.count).1 then s
    else
      let q := match i.opc.toNat with
        | 0x61 => Channel.wRun f (((wM i.rcd + 2) * (wM i.rcd + 2)) * ceilDiv (cIC i.rcd) 128 + 2) x i
        | 0x63 => x.runPool i
        | _ => x.runWin i f
      match q with
      | .part y j => s.setChan c (y.convKeep j)
      | .exc y e => (s.setChan c y).except c e i.org true
      | .go y => ((s.setChan c (y.convEnd i)).tokenIn c i.tk i.org).convSettle c

/-- The pass in a slot writes its last entry, releases its input rows, and its token increments (R179). `fault` is one of array
`arr`'s hardware meanwhile (R147, R184, R189). -/
def execConvPassComplete (ch : ChId) (slot arr : Fin 2) (fault : ArrFault) (s : State) : Out :=
  .next (convStep (s.convSettle ch) ch slot (arr, fault))

/-- Whether a pass is stalled on halo `h`: it is next on its arrays and needs a row that has not landed (R203). -/
def Channel.haloStalls (x : Channel) (h : Fin 4) : Bool :=
  x.win.slots.toList.any (fun o => match o with
    | some i => !x.convWaits i && (x.rowsReady i.rcd i.count).2 == some h.val
    | none => false)

/-- The stalls on halo rows as they stand (R203, R205); a row that lands is seen on the next fc (R84). -/
def Channel.haloTick (x : Channel) : Channel :=
  { x with win := { x.win with halos := Vector.ofFn (fun h : Fin 4 => { x.win.halos.get h with waiting := x.haloStalls h }) } }

/-- A CONV instruction stalled on halo `h` resumes once the row it needs has landed (R203). -/
def execHaloRowStallEnd (ch : ChId) (h : Fin 4) (s : State) : Out :=
  .next (
    let x := s.chan ch
    if x.haloStalls h || !(x.halo h.val).waiting then s
    else
      let s := s.setChan ch (x.setHalo h.val { x.halo h.val with waiting := false })
      convStep (convStep s ch 0 (0, .none)) ch 1 (0, .none))

end Sys2Proof.Machine
end

