-- ==== Sys2Proof/Machine/Sync.lean ====
section
/-!
DEFINITION. The SYNC instructions that wait on token counters and on time (R43, R47).
-/

namespace Sys2Proof.Machine

open Sys2Proof

/-- Issues a format Y instruction. -/
def issueY (s : State) (c : ChId) (opc : Byte) (f : FmtY) (legal : Bool) (body : State → Issue) : State :=
  s.issue c (wordY opc f) legal (never f.pg f.pn) (!(s.chan c).seq.guard f.pg f.pn) body

/-- SYNC.WAIT (R43): stalls until the counter reaches CNT, then subtracts it; a wait that can never complete, on t15
any wait for more than 0, raises DEADLOCK at once. -/
def execSyncWait (ch : ChId) (f : FmtY) (s : State) : Out :=
  .next (issueY s ch 0xA0 f (f.sa == 0 && f.imm == 0) (fun s =>
    let q := (s.chan ch).seq
    let t := (q.rt f.tk).toNat
    let c := f.cnt.toNat
    if c ≤ t then .done (s.modChan ch (fun x => x.modSeq (fun q => q.wt f.tk (q.rt f.tk - f.cnt))))
    else if f.tk = 15 ∨ c > t + q.out f.tk then .exc .deadlock
    else .stall .wait))

/-- SYNC.TIME (R47): stalls until the time base reaches s[SA]. -/
def execSyncTime (ch : ChId) (f : FmtY) (s : State) : Out :=
  .next (issueY s ch 0xA1 f (f.tk == 0 && f.cnt == 0 && f.imm == 0) (fun s =>
    let u := (s.chan ch).seq.rs f.sa
    if u ≤ s.now then .done s else .stall (.time u)))

/-- A SYNC.TIME stall ends on the first fc on which the time base reaches its time (R47). -/
def execSyncTimeRelease (ch : ChId) (s : State) : Out :=
  .next (
    let x := s.chan ch
    match x.seq.stall with
    | .time u => if x.issues && decide (u ≤ s.now) then s.modChan ch (fun x => x.modSeq (fun q => q.step q.pc)) else s
    | _ => s)

/-- SYNC.FENCE (R47): stalls until every token counter, t15 included, has no outstanding operation. -/
def execSyncFence (ch : ChId) (f : FmtY) (s : State) : Out :=
  .next (issueY s ch 0xA3 f (f.tk == 0 && f.cnt == 0 && f.sa == 0 && f.imm == 0) (fun s =>
    if (s.chan ch).seq.quiet then .done s else .stall .fence))

end Sys2Proof.Machine
end

