-- ==== Sys2Proof/Machine/Link.lean ====
section
/-!
DEFINITION. The ring stops (R18 to R20, R202, R368 to R370, R377 to R379): MOVE.RING, MOVE.HALO, the collectives,
SYNC.BAR, and the events of their blocks.
(DESIGN CHOICE, log entries 8 and 32.)
-/

namespace Sys2Proof.Machine

open Sys2Proof

/-! ## The device ring (R18, R19) -/

/-- Whether a channel's ring stop only passes traffic on (R19). -/
def State.passes (s : State) (c : ChId) : Bool := !s.live c || (s.chan c).fenced || s.parked c

/-- The cascade position of this device (R364). -/
def State.ownDev (s : State) : Nat := getField (s.reg GLB_STRAPS) 2 0

/-- The channel that owns the cascade port a LINK_ROUTE entry names (R20, R380). -/
def portOwner : Nat → Option ChId
  | 1 => some 0
  | 2 => some 4
  | 3 => some 8
  | 4 => some 12
  | _ => none

/-- The owner of the port through which a channel's traffic to a device leaves (R364). -/
def State.route (s : State) (c : ChId) (dev : Nat) : Option ChId :=
  portOwner (getField ((s.chan c).reg LINK_ROUTE) (3 * dev + 2) (3 * dev))

/-- Whether a cascade port carries traffic: it is UP, and its owner is live, be it parked or fenced (R20, R426). -/
def State.portUp (s : State) (p : ChId) : Bool := s.live p && (s.chan p).cas.state == .up

/-- Whether traffic from one stop to another takes the direction of increasing index (R18). -/
def goesRight (a b : ChId) : Bool := decide ((b.val + 16 - a.val) % 16 ≤ 8)

/-- The stops a block leaves on its way in a direction, each by the segment of that direction. -/
def pathDir (right : Bool) (a b : ChId) : List ChId :=
  if right then (List.range ((b.val + 16 - a.val) % 16)).map (fun k => Fin.ofNat 16 (a.val + k))
  else (List.range ((a.val + 16 - b.val) % 16)).map (fun k => Fin.ofNat 16 (a.val + 16 - k))

/-- The stops a block leaves on the shorter way. -/
def path (a b : ChId) : List ChId := pathDir (goesRight a b) a b

/-- The first stop of a way behind which the segment is dead (R369). -/
def State.deadStop (s : State) (right : Bool) (a b : ChId) : Option ChId :=
  (pathDir right a b).find? (fun c => (s.chan c).bit LINK_STAT (if right then 1 else 0))

/-- The stop of this device a block makes for: its target, or the owner of its port. -/
def State.goal (s : State) (src : ChId) (t : Xfer) : Option ChId :=
  if t.dev == s.ownDev then some t.ch else s.route src t.dev

/-- The stop at which a block is dropped, if any (R19, R365, R369, R370): the first behind which the segment is dead, or its
goal when that passes traffic on or its port is down; a device no route reaches drops it at the sender. -/
def State.dropStop (s : State) (src : ChId) (t : Xfer) : Option ChId :=
  match s.goal src t with
  | none => some src
  | some g =>
    match s.deadStop (goesRight src g) src g with
    | some c => some c
    | none => if (if t.dev == s.ownDev then s.passes g else !s.portUp g) then some g else none

/-- The segments a transfer of channel `a` still needs, as stops and directions: none when it is dropped, has left, or waits for
its source or for space in the ring it lands in. -/
def State.xferUse (s : State) (a : ChId) (t : Xfer) : List (Bool × ChId) :=
  let dry := match t.ring with | some r => decide (((s.chan a).ring r).fill < 128) | none => false
  let blocked := t.dev == s.ownDev && t.fate == .accepted &&
    decide (((s.chan t.ch).ring (if t.halo then ((s.chan t.ch).win.halos.get (Fin.ofNat 4 t.slot)).ring
      else ((s.chan t.ch).reg (LINK_OPEN t.slot)).extractLsb' 0 6)).free < 128)
  if t.fate == .dropped || (decide (t.len ≤ t.pos) && t.fate == .accepted) || dry || blocked then []
  else match s.goal a t with
    | some g => (path a g).map (fun c => (goesRight a g, c))
    | none => []

/-- The outgoing segments that have data waiting (R369), each by its stop and direction. -/
def State.segUse (s : State) : List (Bool × ChId) :=
  (List.finRange 16).flatMap (fun a =>
    let l := (s.chan a).link
    l.xfers.flatMap (s.xferUse a) ++
    l.outbox.flatMap (fun b => (pathDir b.right a b.to_).map (fun c => (b.right, c))) ++
    l.transit.flatMap (fun t => (path a t.to_).map (fun c => (goesRight a t.to_, c))))

/-- On a segment without data waiting the time without credits starts anew. -/
def State.segTick (s : State) : State :=
  let use := s.segUse
  { s with chans := Vector.ofFn (fun c : ChId =>
      let x := s.chan c
      { x with link := { x.link with
          restL := if use.contains (false, c) then x.link.restL else s.fc
          restR := if use.contains (true, c) then x.link.restR else s.fc } }) }

/-- A drop counts at the stop that finds it and in the sender's link error counter (R19, R370). -/
def State.linkDrop (s : State) (stop src : ChId) : State :=
  let s := s.modChan stop (fun x => x.inc LINK_DROP 1)
  if stop = src then s else s.modChan src (fun x => x.inc LINK_DROP 1)

/-! ## Transfers -/

/-- Whether a transfer still waits in the ring stop's queue (R42). -/
def Xfer.queued (t : Xfer) : Bool := t.fate == .waiting && t.pos == 0

/-- The queue of a ring stop holds 8 instructions (R42). -/
def Channel.linkFull (x : Channel) : Bool :=
  (x.link.xfers.filter (·.queued)).length + (x.link.colls.filter (!·.started)).length ≥ 8

/-- Notes that the command has issued link work (R418). -/
def Channel.noteLink (x : Channel) : Channel :=
  { x with cmd := { x.cmd with run := x.cmd.run.map (fun r => { r with linkWork := true }) } }

/-- Issues a MOVE.RING or a MOVE.HALO (R202, R370). Bits of a register the manual wants 0 raise ILLEGAL behind the guard.
(DESIGN CHOICE, log entry 56.) -/
def linkIssue (s : State) (ch : ChId) (opc : Byte) (halo : Bool) (f : FmtM) : State :=
  let fromRing := f.mod.getLsbD 0
  issueM s ch opc f (f.ctx == 0 && f.mod.toNat < 2 && (if fromRing then f.src == 0 else f.ring == 0)) (fun s =>
    let x := s.chan ch
    let a := (x.seq.ra f.src).toNat
    let t := x.seq.ra f.tgt
    let l := x.seq.rs f.sl
    let n := if halo then getField l 31 0 else l.toNat
    let d := x.ring f.ring
    guarded
      [(decide (t.toNat ≥ if halo then 512 else 1024), .illegal),
       (n % 128 != 0 || (!fromRing && a % 128 != 0), .align),
       (!fromRing && spadRangeBad (x.seq.ra f.src) 0 n, .spadRange),
       (fromRing && (!d.valid || !bindOk d.cons .link), .ring)]
      (if x.linkFull then .stall .unit
       else
        let i : Xfer := { halo := halo, ch := Fin.ofNat 16 (getField t 3 0), dev := getField t 6 4,
                          slot := if halo then getField t 8 7 else getField t 9 7,
                          row := if halo then getField l 63 32 else 0, len := n, src := a,
                          ring := if fromRing then some f.ring else none, tk := f.tk, org := x.org (wordM opc f) }
        let x := { x with link := { x.link with xfers := x.link.xfers ++ [i] }, seq := x.seq.begin f.tk }
        .done (s.setChan ch (if fromRing then x.noteLink.bindCons f.ring .link else x.noteLink))))

/-- MOVE.RING (R370). -/
def execMoveRing (ch : ChId) (f : FmtM) (s : State) : Out := .next (linkIssue s ch 0x8C false f)

/-- MOVE.HALO (R202). -/
def execMoveHalo (ch : ChId) (f : FmtM) (s : State) : Out := .next (linkIssue s ch 0x91 true f)

/-- Replaces transfer `k` of a ring stop. -/
def Channel.setXfer (x : Channel) (k : Nat) (t : Xfer) : Channel :=
  { x with link := { x.link with xfers := x.link.xfers.set k t } }

/-- Takes transfer `k` out; its source ring is unbound. -/
def Channel.endXfer (x : Channel) (k : Nat) (t : Xfer) : Channel :=
  let x := { x with link := { x.link with xfers := x.link.xfers.eraseIdx k } }
  match t.ring with | some r => x.unbindCons r | none => x

/-- The first transfer that satisfies a test, with its place. -/
def Channel.findXfer (x : Channel) (p : Xfer → Bool) : Option (Nat × Xfer) :=
  match x.link.xfers.findIdx? p with
  | some k => (x.link.xfers[k]?).map (fun t => (k, t))
  | none => none

/-- A block of a sender is refused: the sender's instruction raises RING imprecisely (R202, R370). -/
def State.linkRefuse (s : State) (src : ChId) (k : Nat) (t : Xfer) : State :=
  (s.modChan src (fun x => x.endXfer k t)).except src .ring t.org true

/-- Whether slot `k` of a channel is open to a sender (R370). -/
def Channel.slotOpen (x : Channel) (k src dev : Nat) : Bool :=
  let v := x.reg (LINK_OPEN k)
  v.getLsbD 13 && getField v 9 6 == src && getField v 12 10 == dev

/-- Whether a halo ring takes a push (R202): from its armed sender, beginning at the row expected, in whole rows. -/
def Halo.takes (h : Halo) (src dev row off total : Nat) : Bool :=
  h.armed && h.sch.toNat == src && h.sdev.toNat == dev && h.rowb.toNat != 0 && total % h.rowb.toNat == 0 &&
    row + off / h.rowb.toNat == h.next.toNat

/-- Marks a refusal at the receiver (R202, R370). -/
def State.refused (s : State) (ch : ChId) (halo : Bool) (k : Nat) : State :=
  if halo then (s.modChan ch (fun x => x.orReg (HALO_STAT k) 2)).chError ch 0
  else s.modChan ch (fun x => x.orReg LINK_STAT 8)

/-- Bytes of a block land in its ring: HEAD advances, and the halo counts each row that is whole (R202). -/
def Channel.landBytes (x : Channel) (halo : Bool) (k pos : Nat) (bs : List Byte) : Channel :=
  let r : BitVec 6 := if halo then (x.halo k).ring else (x.reg (LINK_OPEN k)).extractLsb' 0 6
  let y := (x.ringWrite (x.ring r) (x.ring r).head bs).advHead r bs.length
  if halo then
    let h := y.halo k
    y.setHalo k { h with next := h.next + BitVec.ofNat 32 ((pos + bs.length) / h.rowb.toNat - pos / h.rowb.toNat) }
  else y

/-- The free bytes of the ring a block lands in. -/
def Channel.landFree (x : Channel) (halo : Bool) (k : Nat) : Nat :=
  (x.ring (if halo then (x.halo k).ring else (x.reg (LINK_OPEN k)).extractLsb' 0 6)).free

/-- The packet type of a block (R372). -/
def linkType (halo : Bool) : Byte := if halo then 4 else 1

/-- Whether a packet is the last of its block. -/
def pktLast (p : Pkt) : Bool := decide (p.total ≤ p.off + p.data.length)

/-- A packet is dropped at a stop: with its last packet a block counts there, and in the link error counter of a sender of this
device (R19, R365, R380). -/
def State.packetDrop (s : State) (stop : ChId) (p : Pkt) : State :=
  if !pktLast p then s
  else if p.sdev.toNat == s.ownDev then s.linkDrop stop p.sch else s.linkDrop stop stop

/-- A block reaches its target (R202, R370): from a channel of the device it is accepted or refused as a whole, in issue
order; from another device each packet is, and lands in steps of 128 bytes, one at a time, as its ring has the space: what has
not landed waits at the stop. -/
def State.blockReceive (s : State) (ch src : ChId) (dev : BitVec 3) (halo : Bool) : State :=
  if s.passes ch then
    if dev.toNat == s.ownDev then
      match (s.chan src).findXfer (fun t => t.halo == halo && t.dev == dev.toNat && t.ch == ch && t.fate == .waiting) with
      | some (k, t) => (s.modChan src (fun x => x.setXfer k { t with fate := .dropped })).linkDrop ch src
      | none => s
    else
      match (s.chan ch).link.inbox.findIdx? (fun p => p.typ == linkType halo && p.sch == src && p.sdev == dev) with
      | some k =>
        match (s.chan ch).link.inbox[k]? with
        | some p => (s.modChan ch (fun x => { x with link := { x.link with inbox := x.link.inbox.eraseIdx k } })).packetDrop ch p
        | none => s
      | none => s
  else if dev.toNat == s.ownDev then
    match (s.chan src).findXfer (fun t => t.halo == halo && t.dev == dev.toNat && t.ch == ch && decide (t.fate ≠ .dropped) && decide (t.pos < t.len ∨ t.fate = .waiting)) with
    | some (k, t) =>
      if t.fate != .waiting || (s.dropStop src t).isSome then s
      else
        let ok := if halo then ((s.chan ch).halo t.slot).takes src.val dev.toNat t.row 0 t.len
                  else (s.chan ch).slotOpen t.slot src.val dev.toNat
        if ok then s.modChan src (fun x => x.setXfer k { t with fate := .accepted })
        else (s.refused ch halo t.slot).linkRefuse src k t
    | none => s
  else
    match (s.chan ch).link.inbox.findIdx? (fun p => p.typ == linkType halo && p.sch == src && p.sdev == dev) with
    | none => s
    | some k =>
      match (s.chan ch).link.inbox[k]? with
      | none => s
      | some p =>
        let x := s.chan ch
        let slot := p.slot.toNat % (if halo then 4 else 8)
        let ok := if halo then (x.halo slot).takes src.val dev.toNat p.row.toNat p.off p.total else x.slotOpen slot src.val dev.toNat
        let y := { x with link := { x.link with inbox := x.link.inbox.eraseIdx k } }
        if !ok then (s.setChan ch y).refused ch halo slot
        else if x.landFree halo slot < min 128 p.data.length then s
        else
          let rest := { p with off := p.off + 128, data := p.data.drop 128 }
          let y := if p.data.length ≤ 128 then y else { x with link := { x.link with inbox := x.link.inbox.set k rest } }
          s.setChan ch (y.landBytes halo slot p.off (p.data.take 128))

/-- A MOVE.RING block arrives at its target and is accepted or discarded (R370). -/
def execRingBlockReceive (ch src : ChId) (dev : BitVec 3) (s : State) : Out := .next (s.blockReceive ch src dev false)

/-- A halo push arrives at the receiver and is accepted or discarded (R202). -/
def execHaloPushReceive (ch src : ChId) (dev : BitVec 3) (s : State) : Out := .next (s.blockReceive ch src dev true)

/-- The next step of a transfer leaves its source: its 128 bytes, where the source holds them and they are readable. -/
def Channel.stepSource (x : Channel) (k : Nat) (t : Xfer) : Channel × Option (List Byte) :=
  match t.ring with
  | some r =>
    let d := x.ring r
    if d.fill < 128 then (x, none)
    else
      let q := x.ringRead d d.tail 128
      if q.2.2 then (q.2.1, none) else ((q.2.1.advTail r 128).setXfer k { t with pos := t.pos + 128 }, some q.1)
  | none =>
    let q := x.spadRead (t.src + t.pos) 128
    if q.2.2 then (q.2.1, none) else (q.2.1.setXfer k { t with pos := t.pos + 128 }, some q.1)

/-- Queues a packet at a port (R371, R372); the first that waits starts the time of R375. -/
def Channel.casQueue (x : Channel) (now : Nat) (p : Pkt) : Channel :=
  { x with cas := { x.cas with txq := x.cas.txq ++ [p], waitAt := if x.cas.txq.isEmpty then now else x.cas.waitAt } }

/-- Changes a cascade port. -/
def Channel.modCas (x : Channel) (f : Cas → Cas) : Channel := { x with cas := f x.cas }

/-- The credits a packet costs (R372). -/
def pktCost (p : Pkt) : Nat := max 1 (p.data.length / 128)

/-- The credits left on a virtual channel. -/
def Cas.credits (d : Cas) (vc : Bool) : Nat :=
  if vc then d.init1 - (d.used1 - d.ret1).toNat else d.init0 - (d.used0 - d.ret0).toNat

/-- Sends the packets that credits and the 128 outstanding packets let go, each virtual channel in order; a packet takes
its sequence number, the acknowledgement, the credits returned, and the link fc count on which it is handed over. -/
def casPump (fc now : Nat) : Nat → Cas → Cas
  | 0, d => d
  | fuel + 1, d =>
    let ok : Nat → Bool := fun k =>
      match d.txq[k]? with
      | some p => decide (pktCost p ≤ d.credits p.vc) && (d.txq.take k).all (fun q => q.vc != p.vc)
      | none => false
    if d.state != .up || d.unacked.length ≥ 128 then d
    else match (List.range d.txq.length).find? ok with
      | none => d
      | some k =>
        match d.txq[k]? with
        | none => d
        | some p =>
          let p := { p with pseq := d.txSeq, ack := d.rxSeq, cred0 := d.back0, cred1 := d.back1, txfc := BitVec.ofNat 16 fc }
          let n := BitVec.ofNat 16 (pktCost p)
          casPump fc now fuel { d with
            txq := d.txq.eraseIdx k, unacked := d.unacked ++ [(p, 0, now)], txSeq := d.txSeq + 1
            used0 := if p.vc then d.used0 else d.used0 + n, used1 := if p.vc then d.used1 + n else d.used1 }

/-- Brings a port's sender as far as it goes. -/
def State.casSend (s : State) (c : ChId) : State :=
  s.modChan c (fun x => x.modCas (fun d => casPump s.linkFc s.nowFine (d.txq.length + 1) d))

/-- Queues a packet at a port and brings its sender as far as it goes. -/
def State.portSend (s : State) (c : ChId) (p : Pkt) : State := (s.modChan c (fun x => x.casQueue s.nowFine p)).casSend c

/-- A packet as a channel of this device addresses it; the port fills in what concerns the link. -/
def State.mkPkt (s : State) (typ : Byte) (src dch : ChId) (dev : Nat) (slot row off total : Nat) (tag : BitVec 4)
    (crc : BitVec 24) (data : List Byte) : Pkt :=
  { typ := typ, vc := false, pseq := 0, dch := dch, ddev := BitVec.ofNat 3 dev, common := false, sch := src,
    sdev := BitVec.ofNat 3 s.ownDev, slot := BitVec.ofNat 8 slot, row := BitVec.ofNat 32 row, off := off, total := total,
    tag := tag, crc := crc, ack := 0, cred0 := 0, cred1 := 0, txfc := 0, data := data }

/-- The packet that stop `src` sends on to stop `ch` next: what came by cascade before what its own channel sends (R355). -/
def State.nextTransit (s : State) (src ch : ChId) : Option (Nat × Transit) :=
  let l := (s.chan src).link.transit
  let mine : Transit → Bool := fun t => t.pkt.sdev.toNat == s.ownDev
  let stop : Transit → Bool := fun t =>
    (match s.deadStop (goesRight src t.to_) src t.to_ with | some d => d | none => t.to_) == ch
  let pick := (l.findIdx? (fun t => !mine t && stop t)).or
    (l.findIdx? (fun t => mine t && stop t && (s.chan src).engineGo))
  pick.bind (fun k => (l[k]?).map (fun t => (k, t)))

/-- `n` bytes reach stop `ch` with a CRC mismatch (R368): a checker event of its channel, which LINK_CRCERR counts; a stop in
pass-through receives nothing. -/
def State.crcBad (s : State) (ch : ChId) (n : Nat) : State :=
  if s.passes ch then s else (s.drawFree n).modChan ch (fun x => (x.inc LINK_CRCERR 1).raise 0x08)

/-- A packet of stop `src` reaches stop `ch` over the ring (R19, R20, R364, R365, R368): behind a dead segment it is dropped
there; at its channel it waits to be taken in; at the owner of its port it leaves, or is dropped when that is down. A CRC
mismatch raises checker event 0x08 at the receiving channel and leaves its bytes open. -/
def State.transitStep (s : State) (ch src : ChId) (bad : Bool) (k : Nat) (t : Transit) : State :=
  let s := s.modChan src (fun x => { x with link := { x.link with transit := x.link.transit.eraseIdx k } })
  let n := t.pkt.data.length
  let p := if bad then { t.pkt with data := freeBytes s.free n } else t.pkt
  let s := if bad then s.crcBad ch n else s
  if t.to_ != ch then s.packetDrop ch p
  else if p.ddev.toNat == s.ownDev then s.modChan ch (fun x => { x with link := { x.link with inbox := x.link.inbox ++ [p] } })
  else if s.portUp ch then s.portSend ch p
  else s.packetDrop ch p

/-- A 128-byte step of channel `src` arrives at stop `ch` (R18, R19, R365, R368): a packet that crosses the ring; of a
transfer, a block that cannot go on is dropped
there; a step at its target lands once the block is accepted and the ring has the space; a step at the owner of its port
joins a packet. A CRC mismatch (`bad`) raises checker event 0x08 at the receiving channel, and what lands is open. -/
def execRingStepReceive (ch src : ChId) (bad : Bool) (s : State) : Out :=
  .next (
    match s.nextTransit src ch with
    | some (k, t) => s.transitStep ch src bad k t
    | none =>
    let due : Xfer → Bool := fun t =>
      decide (t.fate ≠ .dropped) && (decide (t.pos < t.len) || t.fate == .waiting) &&
      (match s.dropStop src t with
       | some p => p == ch
       | none => s.goal src t == some ch && decide (t.pos < t.len) && (t.dev != s.ownDev || t.fate == .accepted))
    match (s.chan src).findXfer due with
    | none => s
    | some (k, t) =>
      if !(s.chan src).engineGo then s
      else if (s.dropStop src t).isSome then
        ((if bad then s.crcBad ch 128 else s).modChan src (fun x => x.setXfer k { t with fate := .dropped, buf := [] })).linkDrop ch src
      else if t.dev == s.ownDev && (s.chan ch).landFree t.halo t.slot < 128 then s
      else match (s.chan src).stepSource k t with
        | (x, none) => s.setChan src x
        | (x, some bs) =>
          let s := s.setChan src x
          let bs := if bad then freeBytes s.free 128 else bs
          let s := if bad then s.crcBad ch 128 else s
          if t.dev == s.ownDev then s.modChan ch (fun x => x.landBytes t.halo t.slot t.pos bs)
          else
            let buf := t.buf ++ bs
            let pos := t.pos + 128
            let t := { t with pos := pos, buf := buf }
            if buf.length < 1024 && pos < t.len then s.modChan src (fun x => x.setXfer k t)
            else
              let p := s.mkPkt (linkType t.halo) src t.ch t.dev t.slot t.row (pos - buf.length) t.len 0 0 buf
              (s.modChan src (fun x => x.setXfer k { t with buf := [] })).portSend ch p)

/-- A sender reports a link error (R19): its link error counter advances, and checker event 0x08 has its command follow the retry
rules. (DEDUCED, log entry 32.) -/
def Channel.linkError (x : Channel) : Channel := (x.inc LINK_DROP 1).raise 0x08

/-- What another device reports of a block that did not arrive (R19, R365). -/
def Channel.farLoss (x : Channel) : Report → Channel
  | .dropped => x.inc LINK_DROP 1
  | .lost => x.linkError
  | _ => x

/-- The receiver, or the stop that dropped it, reports a block (R202, R370): its token increments. Of a block that went to
another device, `rep` says what became of it: a refusal raises RING, a drop advances the link error counter, a loss is a link
error. -/
def State.blockComplete (s : State) (ch : ChId) (halo : Bool) (rep : Report) : State :=
  let x := s.chan ch
  let ended : Xfer → Bool := fun t =>
    t.halo == halo &&
    (match t.fate with
     | .dropped => (match t.ring with | some r => decide (t.len - t.pos ≤ (x.ring r).fill) | none => true)
     | .accepted => decide (t.len ≤ t.pos)
     | .waiting => t.dev != s.ownDev && decide (t.len ≤ t.pos))
  match x.findXfer ended with
  | none => s
  | some (k, t) =>
    if !x.engineGo then s
    else if t.fate == .waiting && rep == .refused then s.linkRefuse ch k t
    else
      let x := if t.fate == .waiting then x.farLoss rep else x
      let x := match t.fate, t.ring with
        | .dropped, some r => x.advTail r (t.len - t.pos)
        | _, _ => x
      (s.setChan ch (x.endXfer k t)).tokenIn ch t.tk t.org

/-- A MOVE.RING is reported (R370). -/
def execMoveRingComplete (ch : ChId) (rep : Report) (s : State) : Out := .next (s.blockComplete ch false rep)

/-- A MOVE.HALO is reported (R202). -/
def execHaloPushComplete (ch : ChId) (rep : Report) (s : State) : Out := .next (s.blockComplete ch true rep)

/-! ## The fault of a stop's channel (R7, R19) -/

/-- Whether a block from stop `a` to stop `b` crosses the stop of `c`: one between the two, or the last where the block leaves by
its port (R20). (DEDUCED, log entry 32.) -/
def crosses (right out : Bool) (a b c : ChId) : Bool :=
  (c != a && (pathDir right a b).contains c) || (out && b == c)

/-- Whether a packet on its way from stop `a` crosses the stop of `c`; what has come in by the port of `a` crosses that stop too.
(DEDUCED, log entry 32.) -/
def State.packetCrosses (s : State) (a c : ChId) (t : Transit) : Bool :=
  crosses (goesRight a t.to_) (t.pkt.ddev.toNat != s.ownDev) a t.to_ c || (a == c && t.pkt.sdev.toNat != s.ownDev)

/-- Whether a transfer of channel `a` is crossing the stop of `c`: part of it has left. -/
def State.xferCrosses (s : State) (a c : ChId) (t : Xfer) : Bool :=
  t.fate != .dropped && decide (0 < t.pos) && decide (t.pos < t.len) &&
  (match s.goal a t with | some g => crosses (goesRight a g) (t.dev != s.ownDev) a g c | none => false)

/-- What of the traffic of stop `a` is crossing the stop of `c` as that channel faults is lost (R7, R19); what waits in the queue of
a port has crossed its stop. (DEDUCED, log entry 32.) -/
def State.crossLoss (s : State) (c a : ChId) : State :=
  let x := s.chan a
  let far := s.modChan a (fun x => { x with link := { x.link with
    transit := x.link.transit.filter (fun t => t.pkt.sdev.toNat == s.ownDev || !s.packetCrosses a c t) } })
  let s' := (x.link.transit.filter (fun t => t.pkt.sdev.toNat != s.ownDev && s.packetCrosses a c t)).foldl
    (fun (u : State) t => u.packetDrop c t.pkt) far
  if a = c ∨ x.fenced then s'
  else
    let x := s'.chan a
    let gone := x.link.transit.filter (s.packetCrosses a c)
    let n := (x.link.xfers.filter (s.xferCrosses a c)).length +
      (x.link.outbox.filter (fun b => crosses b.right false a b.to_ c)).length +
      (gone.filter (fun t => pktLast t.pkt)).length
    let y := { x with link := { x.link with
      xfers := x.link.xfers.map (fun t => if s.xferCrosses a c t then { t with fate := .dropped, buf := [] } else t)
      outbox := x.link.outbox.filter (fun b => !crosses b.right false a b.to_ c)
      transit := x.link.transit.filter (fun t => !s.packetCrosses a c t) } }
    s'.setChan a ((List.range n).foldl (fun y _ => y.linkError) y)

/-! ## Segments (R369) and open slots (R370) -/

/-- A receive buffer returns credits over an outgoing segment's way back (R369). -/
def execRingCreditReturn (ch : ChId) (right : Bool) (s : State) : Out :=
  .next (s.modChan ch (fun x =>
    { x with link := if right then { x.link with credR := s.fc } else { x.link with credL := s.fc } }))

/-- Whether data has waited for 10 µs (9,000 fc) at a segment. -/
def State.segWaits (s : State) (ch : ChId) (right : Bool) : Bool :=
  let l := (s.chan ch).link
  s.segUse.contains (right, ch) && decide ((if right then l.restR else l.restL) + 9000 ≤ s.fc)

/-- A sender with data waiting and no credit return for 10 µs declares the segment dead (R369). -/
def execRingSegmentDead (ch : ChId) (right : Bool) (s : State) : Out :=
  .next (
    let x := s.chan ch
    if s.segWaits ch right && decide ((if right then x.link.credR else x.link.credL) + 9000 ≤ s.fc) then
      s.setChan ch (x.orReg LINK_STAT (if right then 2 else 1))
    else s)

/-- A write of LINK_OPENk (R370): it binds the ring's producer side to the ring stop; an invalid or bound ring is not
opened and sets OPENERR. The ring the slot held before is let go. -/
def Channel.linkOpen (x : Channel) (k : Nat) (v : Word) : Channel :=
  let v := v &&& 0x3FFF
  let old := x.reg (LINK_OPEN k)
  let y := if old.getLsbD 13 then x.unbindProd (old.extractLsb' 0 6) else x
  if !v.getLsbD 13 then y.setReg (LINK_OPEN k) v
  else
    let r : BitVec 6 := v.extractLsb' 0 6
    if !(y.ring r).valid || (y.ring r).prod.isSome then x.orReg LINK_STAT 4
    else (y.bindProd r .link).setReg (LINK_OPEN k) v

/-- LINK_OPENk written (R370). -/
def execLinkOpenWrite (ch : ChId) (k : Fin 8) (v : Word) (s : State) : Out :=
  .next (s.modChan ch (fun x => x.linkOpen k.val v))

/-! ## Collectives (R377, R378) -/

/-- Issues a collective (R377); s[SL][63:57] raises ILLEGAL behind the guard. (DESIGN CHOICE, log entry 56.) -/
def collIssue (s : State) (ch : ChId) (opc : Byte) (rs arrival : Bool) (f : FmtM) : State :=
  issueM s ch opc f (f.ring == 0 && f.mod == 0) (fun s =>
    let x := s.chan ch
    let a := (x.seq.ra f.src).toNat
    let t := (x.seq.ra f.tgt).toNat
    let l := x.seq.rs f.sl
    let b := getField l 31 0
    let d := getField l 56 32
    guarded
      [(getField l 63 57 != 0, .illegal),
       (a % 128 != 0 || t % 128 != 0 || b % 128 != 0 || d % 64 != 0, .align),
       (spadRangeBad (x.seq.ra f.src) 0 b || spadRangeBad (x.seq.ra f.tgt) 0 b || decide (d + 192 > 0x2000000), .spadRange)]
      (if x.linkFull then .stall .unit
       else
        let i : Coll := { rs := rs, arrival := arrival, tag := f.ctx, src := a, dst := t, b := b, desc := d, tk := f.tk,
                          org := x.org (wordM opc f) }
        let x := { x with link := { x.link with colls := x.link.colls ++ [i] }, seq := x.seq.begin f.tk }
        .done (s.setChan ch x.noteLink)))

/-- The causes a group descriptor gives (R377, R498). -/
def State.collCauses (s : State) (ch : ChId) (i : Coll) (d : List Byte) : List (Bool × Exc) :=
  let n := field d 0 1
  let m := (d.drop 64).take n
  let self : Byte := BitVec.ofNat 8 (16 * s.ownDev + ch.val)
  let needS := if i.rs then n * i.b else i.b
  let needD := if i.rs then i.b + (if i.arrival then 0 else (n - 1) * i.b) else n * i.b + (if i.arrival then n else 0)
  [(!zeroBytes d 3 64 || m.any (fun e => e.getLsbD 7), .illegal),
   (decide (i.src + needS > 0x2000000) || decide (i.dst + needD > 0x2000000), .spadRange),
   (n == 0 || decide (n > 128) || decide (field d 1 1 ≥ n) || decide (field d 2 1 > 2) || byteAt m (field d 1 1) != self, .desc),
   (m.any (fun e =>
      let dev := getField e 6 4
      if dev == s.ownDev then !s.live (Fin.ofNat 16 (getField e 3 0)) else (s.route ch dev).isNone), .deadlock)]

/-- A block's packets to another device. -/
def State.collPkts (s : State) (ch : ChId) (i : Coll) (rank : Nat) (crc : BitVec 24) (dch : ChId) (dev : Nat) (bs : List Byte) : List Pkt :=
  (List.range (max 1 ((bs.length + 1023) / 1024))).map (fun k =>
    s.mkPkt (if i.rs then 3 else 2) ch dch dev rank 0 (1024 * k) bs.length i.tag crc ((bs.drop (1024 * k)).take 1024))

/-- Whether a block of an all-gather travels clockwise to a member of this device (R378): to the first half, rounded up,
of the other members in ring order. -/
def agRight (dev : Nat) (ms : List Byte) (a b : ChId) : Bool :=
  let ds := ((ms.filter (fun e => getField e 6 4 == dev)).map (fun e => (getField e 3 0 + 16 - a.val) % 16)).eraseDups.filter (· != 0)
  (ds.filter (· < (b.val + 16 - a.val) % 16)).length < (ds.length + 1) / 2

/-- A started collective sends one block to member `e` of rank `r`. -/
def State.collSend (s : State) (ch : ChId) (i : Coll) (bs : List Byte) (e : Byte) : State :=
  let dev := getField e 6 4
  let dch : ChId := Fin.ofNat 16 (getField e 3 0)
  if dev == s.ownDev then
    s.modChan ch (fun x => { x with link := { x.link with outbox := x.link.outbox ++
      [⟨dch, i.rank, i.tag, i.rs, i.crc, bs, i.org, if i.rs then goesRight ch dch else agRight s.ownDev i.members ch dch⟩] } })
  else match s.route ch dev with
    | none => s
    | some p => s.modChan ch (fun x => { x with link := { x.link with
        transit := x.link.transit ++ (s.collPkts ch i i.rank i.crc dch dev bs).map (fun q => ⟨q, p⟩) } })

/-- Sends the blocks of a started collective: an all-gather its own block to every other member, a reduce-scatter block r
to rank r. -/
def State.collSends (s : State) (ch : ChId) (i : Coll) (bs : List Byte) : List (Byte × Nat) → State
  | [] => s
  | (e, r) :: rest =>
    let s := if r == i.rank then s
             else s.collSend ch i (if i.rs then (bs.drop (r * i.b)).take i.b else bs) e
    State.collSends s ch i bs rest

/-- A block of rank `r` is taken in: an all-gather places it, by rank or by arrival with its rank in the order record; a
reduce-scatter keeps it for the sum. -/
def Channel.collPlace (x : Channel) (k : Nat) (i : Coll) (r : Nat) (bs : List Byte) : Channel :=
  let n := i.got.length
  let y := if i.rs then x
           else
             let y := x.spadWrite (i.dst + (if i.arrival then n else r) * i.b) bs
             if i.arrival then y.spadWrite (i.dst + i.members.length * i.b + n) [BitVec.ofNat 8 r] else y
  let i := { i with got := i.got ++ [r], vals := if i.rs then i.vals ++ [bs] else [] }
  { y with link := { y.link with colls := y.link.colls.set k i } }

/-- Starts the collectives that can start: at most 4 run at once, those with one tag in issue order (R377). -/
def collStart : Nat → State → ChId → State
  | 0, s, _ => s
  | fuel + 1, s, ch =>
    let x := s.chan ch
    let cs := x.link.colls
    let run := cs.filter (·.started)
    match cs.findIdx? (fun i => !i.started && !run.any (fun j => j.tag == i.tag)) with
    | none => s
    | some k =>
      match cs[k]? with
      | none => s
      | some i =>
        if run.length ≥ 4 || !x.engineGo then s
        else
          let p := x.spadRead i.desc 192
          if p.2.2 then s.setChan ch p.2.1
          else match lowest (s.collCauses ch i p.1) with
            | some e => (s.setChan ch p.2.1).except ch e i.org true
            | none =>
              let n := field p.1 0 1
              let m := (p.1.drop 64).take n
              let i := { i with started := true, rank := field p.1 1 1, op := field p.1 2 1, members := m,
                                crc := (crc32 m).extractLsb' 0 24 }
              let q := p.2.1.spadRead i.src (if i.rs then n * i.b else i.b)
              if q.2.2 then s.setChan ch q.2.1
              else
                let own := if i.rs then (q.1.drop (i.rank * i.b)).take i.b else q.1
                let s := s.setChan ch (q.2.1.collPlace k i i.rank own)
                collStart fuel (s.collSends ch i q.1 (m.zip (List.range n))) ch

/-- Issues a collective and starts what can start. -/
def collGo (s : State) (ch : ChId) (opc : Byte) (rs arrival : Bool) (f : FmtM) : State :=
  let t := collIssue s ch opc rs arrival f
  if (t.chan ch).link.colls.length == (s.chan ch).link.colls.length then t else collStart 9 t ch

/-- MOVE.AG (R378). -/
def execMoveAg (ch : ChId) (f : FmtM) (s : State) : Out := .next (collGo s ch 0x8D false false f)

/-- MOVE.RS (R378). -/
def execMoveRs (ch : ChId) (f : FmtM) (s : State) : Out := .next (collGo s ch 0x8E true false f)

/-- MOVE.AG.A (R378). -/
def execMoveAgA (ch : ChId) (f : FmtM) (s : State) : Out := .next (collGo s ch 0x8F false true f)

/-- MOVE.RS.A (R378). -/
def execMoveRsA (ch : ChId) (f : FmtM) (s : State) : Out := .next (collGo s ch 0x90 true true f)

/-- The first block of a sender for a channel of its device. -/
def Channel.outFor (x : Channel) (ch : ChId) : Option (Nat × OutBlk) :=
  match x.link.outbox.findIdx? (fun b => b.to_ == ch) with
  | some k => (x.link.outbox[k]?).map (fun b => (k, b))
  | none => none

/-- Whether a packet belongs to the next collective block of a sender of another device. -/
def isBlock (p : Pkt) (src : ChId) (dev : BitVec 3) : Bool := (p.typ == 2 || p.typ == 3) && p.sch == src && p.sdev == dev

/-- A collective block lands at member `ch` (R377, R378): the collective of its tag that waits for the sender's rank takes
it; a block with another member list is discarded with GRPERR, and a sender on this device raises RING. A CRC mismatch
(`bad`) raises checker event 0x08 and leaves the bytes open (R368). -/
def State.collLand (s : State) (ch : ChId) (rank : Nat) (tag : BitVec 4) (rs : Bool) (crc : BitVec 24) (data : List Byte)
    (bad : Bool) (drop : State → State) (refuse : State → State) : State :=
  let x := s.chan ch
  match x.link.colls.findIdx? (fun i => i.started && i.tag == tag && !i.got.contains rank) with
  | none => s
  | some k =>
    match x.link.colls[k]? with
    | none => s
    | some i =>
      if !x.engineGo then s
      else
        let bs := if bad then freeBytes s.free i.b else data
        let s := if bad then s.crcBad ch i.b else s
        if i.crc != crc || i.rs != rs || data.length != i.b || decide (rank ≥ i.members.length) then
          refuse ((drop s).modChan ch (fun x => x.orReg LINK_STAT 16))
        else (drop s).modChan ch (fun x => x.collPlace k i rank bs)

/-- A block of a collective arrives from channel `src` of device `dev`. -/
def execCollectiveBlockReceive (ch src : ChId) (dev : BitVec 3) (bad : Bool) (s : State) : Out :=
  .next (
    if dev.toNat == s.ownDev then
      match (s.chan src).outFor ch with
      | none => s
      | some (k, b) =>
        let drop : State → State := fun s => s.modChan src (fun x => { x with link := { x.link with outbox := x.link.outbox.eraseIdx k } })
        match s.deadStop b.right src ch with
        | some d => (drop s).linkDrop d src
        | none =>
        if s.passes ch then (drop s).linkDrop ch src
        else s.collLand ch b.rank b.tag b.rs b.crc b.data bad drop (fun s => s.except src .ring b.org true)
    else
      let ps := (s.chan ch).link.inbox.filter (fun p => isBlock p src dev)
      match ps with
      | [] => s
      | p :: r =>
        let blk := p :: r.takeWhile (fun q => q.off != 0)
        let drop : State → State := fun s => s.modChan ch (fun x => { x with link := { x.link with
          inbox := x.link.inbox.filter (fun q => !(isBlock q src dev && blk.contains q)) } })
        let data := (blk.map (·.data)).flatten
        if s.passes ch then (drop s).linkDrop ch ch
        else if data.length < p.total then s
        else s.collLand ch p.slot.toNat p.tag (p.typ == 3) p.crc data bad drop id)

/-- One addition of a reduction (R378). -/
def redAdd (op : Nat) (a b : Nat) : Nat :=
  if op == 0 then
    let t := toSigned 32 a + toSigned 32 b
    ofSigned 32 (max (-2147483648) (min 2147483647 t))
  else (fp32.arith .rne ((fp32.decode a).add (fp32.decode b))).w

/-- The sum of blocks element by element, in the order given: int32, fp32, or bf16 widened, summed in fp32 and rounded
once at the end. -/
def redSum (op b : Nat) (vals : List (List Byte)) : List Byte :=
  let w := if op == 2 then 2 else 4
  ((List.range (b / w)).map (fun j =>
    let es := vals.map (fun v => if op == 2 then field v (2 * j) 2 * 65536 else field v (4 * j) 4)
    let t := match es with | [] => 0 | e :: r => r.foldl (redAdd op) e
    leBytes w (if op == 2 then (bf16.arith .rne (fp32.decode t)).w else t))).flatten

/-- The collective of a tag whose blocks have all landed is complete (R377): a reduce-scatter writes its sum, in rank order or
in the order of arrival; its staging area holds what the arrival of the blocks left. A member of another device may
report that it discarded a block, which raises RING, or the block's drop or loss (R19). -/
def execCollectiveComplete (ch : ChId) (tag : BitVec 4) (rep : Report) (s : State) : Out :=
  .next (
    let x := s.chan ch
    match x.link.colls.findIdx? (fun i => i.started && i.tag == tag && (rep != .landed || i.got.length == i.members.length)) with
    | none => s
    | some k =>
      match x.link.colls[k]? with
      | none => s
      | some i =>
        if !x.engineGo || (rep != .landed && i.members.all (fun e => getField e 6 4 == s.ownDev)) then s
        else if rep == .refused then s.except ch .ring i.org true
        else if rep != .landed then s.setChan ch (x.farLoss rep)
        else
          let order := (List.range i.members.length).filterMap (fun r => (i.got.idxOf? r).bind (fun j => i.vals[j]?))
          let x := { x with link := { x.link with colls := x.link.colls.eraseIdx k } }
          let stage := if i.rs && !i.arrival then (i.members.length - 1) * i.b else 0
          let x := if i.rs then x.spadWrite i.dst (redSum i.op i.b (if i.arrival then i.vals else order)) else x
          let x := if stage == 0 then x else x.spadWrite (i.dst + i.b) (freeBytes s.free stage)
          collStart 8 (((s.setChan ch x).drawFree stage).tokenIn ch i.tk i.org) ch)

/-! ## Barriers of one device (R379) -/

/-- SYNC.BAR (R379): the channel arrives at barrier CNT of the channels in IMM[15:0] and waits. A mask without the channel itself
is ILLEGAL, whatever the guard. (DESIGN CHOICE, log entry 56.) -/
def execSyncBar (ch : ChId) (f : FmtY) (s : State) : Out :=
  let mask : BitVec 16 := f.imm.extractLsb' 0 16
  .next (issueY s ch 0xA2 f (f.tk == 0 && f.sa == 0 && decide (f.imm.toNat < 65536) && mask.getLsbD ch.val) (fun s =>
    if mask &&& ~~~((s.reg GLB_CHLIVE).extractLsb' 0 16) != 0 then .exc .deadlock
    else
      let x := (s.chan ch).noteLink
      let bar := match x.link.bar with | some b => some b | none => some (f.cnt, mask, s.fc)
      .went (s.setChan ch { x with link := { x.link with bar := bar }
                                   seq := { x.seq with stall := .bar, held := wordY 0xA2 f } })))

/-- Whether a channel waits at a barrier. -/
def State.atBar (s : State) (c : ChId) (cnt mask : BitVec 16) : Bool :=
  let x := s.chan c
  x.issues && x.seq.stall == .bar &&
    (match x.link.bar with | some (a, m, _) => a == cnt && m == mask | none => false)

/-- Lets a channel go from its barrier. -/
def Channel.leaveBar (x : Channel) : Channel :=
  { x with link := { x.link with bar := none }, seq := x.seq.step x.seq.pc }

/-- The members of a barrier are released together, 24 fc after the last arrival (R379). -/
def execBarrierRelease (ch : ChId) (s : State) : Out :=
  .next (
    match (s.chan ch).link.bar with
    | none => s
    | some (cnt, mask, _) =>
      let ms := (List.finRange 16).filter (fun c => mask.getLsbD c.val)
      let last := ms.foldl (fun m c => match (s.chan c).link.bar with | some (_, _, t) => max m t | none => m) 0
      if ms.all (fun c => s.atBar c cnt mask) && decide (last + 24 ≤ s.fc) then
        ms.foldl (fun t c => t.modChan c Channel.leaveBar) s
      else s)

end Sys2Proof.Machine
end

