-- ==== Sys2Proof/Machine/AlmOps.lean ====
section
/-!
DEFINITION. Almanac tables (R328 to R331), kernel headers and the start check (R337, R338), the checks of LOAD_ALM,
LOAD_PROG and SWITCH (R339 to R343), and the timeline of a frame (R327, R334).
(DEDUCED, log entries 40 and 41.)
-/

namespace Sys2Proof.Machine

open Sys2Proof

/-! ## Power points (R24, R471) -/

/-- The array clock of a point, in ac per µs; a parked channel has none. -/
def pointMhz : Nat → Nat
  | 0 => 1800
  | 1 => 1500
  | 2 => 1200
  | _ => 0

/-! ## The configuration block and the entries (R328, R330, R331) -/

/-- EPOCH of a bank. -/
def bkEpoch (m : Mem) : Word := BitVec.ofNat 32 (rdLe m 0 4)
/-- FRAME of a bank, in ns. -/
def bkFrame (m : Mem) : Nat := rdLe m 4 4 % 0x100000 * 1000
/-- NENT of a bank. -/
def bkNent (m : Mem) : Nat := rdLe m 8 2
/-- PMIN of a bank. -/
def bkPmin (m : Mem) : Nat := rdLe m 10 1 % 4
/-- SPAD_RESVp of a bank. -/
def bkResv (m : Mem) (p : Nat) : Word := BitVec.ofNat 32 (rdLe m (16 + 4 * p) 4)
/-- SRPT of a bank. -/
def bkSrpt (m : Mem) : Nat := rdLe m 64 8

/-- What a header declares, or a grant allows (R329, R337). -/
structure Decl where
  rings : Nat
  a0lo : Nat
  a0n : Nat
  a1lo : Nat
  a1n : Nat
  dbase : Nat
  dlim : Nat
  pages : Nat
  linkb : Nat
  slots : Nat
deriving DecidableEq, Repr

/-- Reads a declaration laid out as in R329, which a header holds from its byte 8 (R337). -/
def declOf (b : List Byte) : Decl :=
  ⟨field b 0 8, field b 8 2, field b 10 2, field b 12 2, field b 14 2, field b 16 8, field b 24 8, field b 32 4,
   field b 36 4, field b 40 4⟩

/-- The grant of a class (R329). -/
def bkGrant (m : Mem) (cls : Nat) : Decl := declOf (rdBytes m (128 + 64 * cls) 64)

/-- An entry (R331); OFFSET in ns. -/
structure Ent where
  offset : Nat
  typ : Nat
  prot : Bool
  cls : Nat
  src : Bool
  budget : Nat
  est : Nat
  gring : Nat
  gate : Bool
  stand : Nat
  gfill : Nat
  rsv : Bool
deriving DecidableEq, Repr

/-- Entry `i` of a bank. -/
def bkEnt (m : Mem) (i : Nat) : Ent :=
  let w0 := rdLe m (4096 + 16 * i) 4
  let w3 := rdLe m (4096 + 16 * i + 12) 4
  { offset := bitsOf w0 19 0 * 1000, typ := bitsOf w0 22 20, prot := bitOf w0 23, cls := bitsOf w0 27 24,
    src := bitOf w0 28, budget := rdLe m (4096 + 16 * i + 4) 4, est := rdLe m (4096 + 16 * i + 8) 4,
    gring := bitsOf w3 5 0, gate := bitOf w3 6, stand := bitsOf w3 13 8, gfill := bitsOf w3 31 16,
    rsv := bitsOf w0 31 29 != 0 || bitOf w3 7 || bitsOf w3 15 14 != 0 }

/-- The entries of a bank. -/
def bkEnts (m : Mem) : List Ent := (List.range (bkNent m)).map (bkEnt m)

/-- Whether an entry's OFFSET is a protected boundary (R334). -/
def Ent.protected (e : Ent) : Bool := e.typ == 2 || (e.typ == 0 && e.prot)

/-- PROG of standing record `j`. -/
def stProg (m : Mem) (j : Nat) : Nat := rdLe m (1152 + 32 * j) 2 % 0x8000
/-- FLAGS.HAIL of standing record `j`. -/
def stHail (m : Mem) (j : Nat) : Bool := bitOf (rdLe m (1152 + 32 * j + 2) 1) 0

/-- Whether bytes [lo, hi) of a bank are all 0. -/
def bkZero (m : Mem) (lo hi : Nat) : Bool := (rdBytes m lo (hi - lo)).all (· == 0)

/-- Whether the entries rise in OFFSET (R331). -/
def rising : List Ent → Bool
  | [] => true
  | [_] => true
  | a :: b :: r => decide (a.offset ≤ b.offset) && rising (b :: r)

/-- Whether one entry keeps R331. -/
def entOk (m : Mem) (e : Ent) : Bool :=
  !e.rsv && e.offset < bkFrame m && e.typ < 3 && (!e.prot || e.typ == 0) && e.budget != 0 &&
  (e.typ != 2 || (e.src && !e.gate && stHail m e.stand)) && (e.typ != 1 || !e.src)

/-- Whether an image keeps R328 to R331 (ALM_SHAPE). -/
def bkShape (m : Mem) (len : Nat) : Bool :=
  let f := rdLe m 4 4
  len == 4096 + 16 * bkNent m && 1 ≤ bkNent m && bkNent m ≤ 4096 && 100 ≤ f && f ≤ 1000000 && rdLe m 10 1 < 3 &&
  bkZero m 11 16 && bkZero m 48 64 && bkSrpt m % 128 == 0 && bkZero m 72 128 && bkZero m 3200 4096 &&
  (List.range 16).all (fun c => let g := bkGrant m c
    bkZero m (128 + 64 * c + 44) (128 + 64 * c + 64) && g.a0n ≤ 4096 && g.a1n ≤ 4096) &&
  (List.range 64).all (fun j => rdLe m (1152 + 32 * j) 2 < 0x8000 && rdLe m (1152 + 32 * j + 2) 1 < 2 &&
    bkZero m (1152 + 32 * j + 3) (1152 + 32 * j + 4) && bkZero m (1152 + 32 * j + 24) (1152 + 32 * j + 32)) &&
  (bkEnts m).all (entOk m) && rising (bkEnts m)

/-- The latest-finish check (R339), in µs: `f` in ac per µs, `lf` the LF of the entry before. -/
def lateOk (f frame : Nat) : Nat → List Ent → Bool
  | lf, [] => lf ≤ frame
  | lf, e :: r =>
    let d := if e.typ == 1 then 0 else ceilDiv (e.budget + f) f
    (!e.protected || lf ≤ e.offset / 1000) && lateOk f frame (max (e.offset / 1000) lf + d) r

/-! ## Kernel headers and the start check (R337, R338) -/

/-- The 64 bytes before PROG. -/
def Channel.header (x : Channel) (prog : Nat) : List Byte :=
  (List.range 8).flatMap (fun j => leBytes 8 (sget (0 : Dword) x.pm.words (prog - 8 + j)).toNat)

/-- LEN of a header. -/
def hdLen (b : List Byte) : Nat := field b 2 2
/-- EST of a header. -/
def hdEst (b : List Byte) : Nat := field b 4 4
/-- What a header declares. -/
def hdDecl (b : List Byte) : Decl := declOf (b.drop 8)

/-- Whether every index from `a` to `b` − 1 lies in an image loaded by LOAD_PROG. -/
def PMem.covers (m : PMem) : Nat → Nat → Nat → Bool
  | 0, a, b => decide (b ≤ a)
  | fuel + 1, a, b =>
    if b ≤ a then true
    else match m.images.find? (fun e => e.1 ≤ a && a < e.1 + e.2) with
      | none => false
      | some e => PMem.covers m fuel (e.1 + e.2) b

/-- Whether a header is in order (HDR). -/
def Channel.headerOk (x : Channel) (prog : Nat) : Bool :=
  let b := x.header prog
  8 ≤ prog && field b 0 2 == 0x4B53 && hdLen b != 0 && x.pm.covers (x.pm.images.length + 1) prog (prog + hdLen b) &&
  (b.drop 52).all (· == 0)

/-- Whether a declared range lies in a granted one; an empty range lies in any. -/
def rangeIn (lo n glo gn : Nat) : Bool := n == 0 || (glo ≤ lo && lo + n ≤ glo + gn)

/-- Whether a declared accumulator range of an array meets a LIVE slot that SLOTS does not name. -/
def Channel.slotClash (x : Channel) (k : Fin 2) (lo n slots : Nat) : Bool :=
  n != 0 && (List.range 32).any (fun j => let t := x.slot j
    !bitOf slots j && t.state == 1 && t.array == k && meet lo n t.base t.entries)

/-- Free handles (R338). -/
def Channel.freeHandles (x : Channel) : Nat := (x.reg PTU_FREE_HEAD - x.reg PTU_FREE_TAIL).toNat

/-- The tests of the start check as (fails, code), in the order of R338: `g` is the grant of the entry's class (none: the
Almanac is stopped, the whole channel), `charged` what the class has declared in this frame, `est` what EST is to be held
against the budget as, and `start` adds the dynamic tests. -/
def Channel.startTests (x : Channel) (prog : Nat) (g : Option Decl) (charged est budget : Nat) (start : Bool) :
    List (Bool × Nat) :=
  let d := hdDecl (x.header prog)
  let whole : Decl := ⟨2 ^ 64 - 1, 0, 4096, 0, 4096, 0, x.dramTop, 2 ^ 32, 2 ^ 32, 2 ^ 32 - 1⟩
  let w := g.getD whole
  [(!x.headerOk prog, 0x0001),
   (budget != 0 && est > budget, 0x0002),
   (d.rings &&& w.rings != d.rings, 0x0003),
   (!rangeIn d.a0lo d.a0n w.a0lo w.a0n || !rangeIn d.a1lo d.a1n w.a1lo w.a1n ||
      x.slotClash 0 d.a0lo d.a0n d.slots || x.slotClash 1 d.a1lo d.a1n d.slots, 0x0004),
   (d.dbase < d.dlim && (d.dbase < w.dbase || w.dlim < d.dlim || x.dramTop < d.dlim), 0x0005),
   (start && (w.pages < d.pages || x.freeHandles < d.pages), 0x0006),
   (start && w.linkb < charged + d.linkb, 0x0007),
   (d.slots &&& w.slots != d.slots, 0x0008)]

/-- The first failing test; 0 when all pass. -/
def firstCode : List (Bool × Nat) → Nat
  | [] => 0
  | (b, n) :: r => if b then n else firstCode r

/-- The start check (R338). -/
def Channel.startCheck (x : Channel) (prog : Nat) (g : Option Decl) (charged budget : Nat) (start : Bool) : Nat :=
  firstCode (x.startTests prog g charged (hdEst (x.header prog)) budget start)

/-! ## Banks and loads (R339, R340, R343) -/

/-- The bank LOAD_ALM and SWITCH act on (R339, R341): with the Almanac stopped, the one not active last. -/
def Almanac.inactive (a : Almanac) : Fin 2 := 1 - a.active

/-- Bank `b`. -/
def Almanac.bank (a : Almanac) (b : Fin 2) : Mem := a.banks.get b

/-- The active bank of a running Almanac. -/
def Channel.bank (x : Channel) : Mem := x.alm.bank x.alm.active

/-- Changes the Almanac. -/
def Channel.modAlm (x : Channel) (f : Almanac → Almanac) : Channel := { x with alm := f x.alm }

/-- The code LOAD_ALM refuses an image with, 0 for none: the first failing test of R338 over the headers of the standing
records its entries name, then its own tests. -/
def Channel.loadCode (x : Channel) (m : Mem) (len : Nat) : Nat :=
  let shape := bkShape m len
  let ents := if len == 4096 + 16 * bkNent m && bkNent m ≤ 4096 then bkEnts m else []
  let hdr := (ents.filter (·.src)).map (fun e =>
    x.startCheck (stProg m e.stand) (some (bkGrant m e.cls)) 0 e.budget false)
  match minNat? (hdr.filter (· != 0)) with
  | some n => n
  | none => firstCode
      [(!shape, 0x0010), (!ents.any (·.typ == 2), 0x0011),
       (!lateOk (pointMhz (bkPmin m)) (bkFrame m / 1000) 0 ents, 0x0012), (x.alm.armed.isSome, 0x0013)]

/-- The standing records a bank's entries name. -/
def bkStands (m : Mem) : List Nat := ((bkEnts m).filter (·.src)).map (·.stand)

/-- The kernels LOAD_PROG must leave alone, by PROG (R340). -/
def Channel.busyProgs (x : Channel) : List Nat :=
  let run := match x.cmd.run with
    | some r => if r.cmd.kind == 0x06 then [] else [r.cmd.prog.toNat % 0x8000]
    | none => []
  let frz := match x.frz with
    | some f => (match f.run with | some r => [r.cmd.prog.toNat % 0x8000] | none => [])
    | none => []
  let act := if x.alm.running then (bkStands x.bank).map (stProg x.bank) else []
  let arm := match x.alm.armed with
    | some 2 => []
    | some _ => let m := x.alm.bank x.alm.inactive; (bkStands m).map (stProg m)
    | none => []
  run ++ frz ++ act ++ arm

/-- Whether program indexes [a, a + n) meet a kernel in use, header included. -/
def Channel.progBusy (x : Channel) (a n : Nat) : Bool :=
  x.busyProgs.any (fun p => meet a n (p - 8) (p + hdLen (x.header p) - (p - 8)))

/-- Rings bound by the intake, by the servo engine or by an armed halo (R343, R346). -/
def Channel.outside (x : Channel) (r : Nat) : Bool :=
  let d := x.rings.get (Fin.ofNat 64 r)
  [d.prod, d.cons].any (fun b => match b with
    | some (e, _) => e == .intake || e == .servo || e == .halo
    | none => false)

/-- Whether a bank's grants would strand live state (R343). -/
def Channel.strands (x : Channel) (m : Mem) : Bool :=
  let g := (List.range 16).map (bkGrant m)
  (List.range 32).any (fun j => let t := x.slot j
    (t.state == 1 || t.state == 2) && !g.any (fun d => bitOf d.slots j)) ||
  (List.range 64).any (fun r => x.outside r && !g.any (fun d => bitOf d.rings r))

/-! ## The timeline (R327, R334) -/

/-- The instant frame `k` of the running Almanac starts, in ns. -/
def Channel.frameAt (x : Channel) (k : Nat) : Nat := nsOf (x.reg64 ALM_T0) + k * bkFrame x.bank

/-- The instant the present frame starts. -/
def Channel.frame0 (x : Channel) : Nat := x.frameAt (x.reg ALM_FRAME).toNat

/-- The slot boundary this fc meets, in µs from the frame start, if any: it is the first on which the time base is at or past it
(R327); of those a forward step has passed, the last. -/
def State.boundary (s : State) (c : ChId) : Option Nat :=
  let f := (s.chan c).frame0
  if s.nowNs < f then none
  else
    let k := (s.nowNs - f) / 1000
    if s.arrives (f + 1000 * k) then some k else none

/-- The first entry that has not opened. -/
def Almanac.ahead (a : Almanac) : Nat := if a.isOpen then a.entry + 1 else a.entry

/-- The first protected entry from `i` on; NENT stands for the end of the frame. -/
def nextProt (m : Mem) (i : Nat) : Nat :=
  match ((List.range (bkNent m)).drop i).find? (fun j => (bkEnt m j).protected) with
  | some j => j
  | none => bkNent m

/-- The instant of a protected boundary, in ns. -/
def Channel.protAt (x : Channel) (i : Nat) : Nat :=
  if i < bkNent x.bank then x.frame0 + (bkEnt x.bank i).offset else x.frame0 + bkFrame x.bank

/-- The next protected boundary, an armed timed switch included, in ns (R334, R341). -/
def Channel.horizon (x : Channel) : Nat :=
  let h := x.protAt (nextProt x.bank (max x.alm.cut x.alm.ahead))
  if x.alm.armed == some 1 then min h (nsOf (x.reg64 ALM_SWTIME)) else h

/-- Whether an entry's gate is met (R332). -/
def Channel.gateOk (x : Channel) (e : Ent) : Bool :=
  !e.gate || e.typ == 1 || (x.rings.get (Fin.ofNat 64 e.gring)).fill ≥ e.gfill * 128

end Sys2Proof.Machine
end

