-- ==== Sys2Proof/Machine/MbxOps.lean ====
section
/-!
DEFINITION. What the supervisor sends: the messages of its mailbox and the records of its event log (R456).
(DESIGN CHOICE, log entry 49.)
-/

namespace Sys2Proof.Machine

open Sys2Proof

/-- A word of a byte string. -/
def wordAt (b : List Byte) (k : Nat) : Word := BitVec.ofNat 32 (field b (4 * k) 4)

/-- Stores bytes, as words, from a register's offset on. -/
def State.setWords (s : State) (o : Nat) : List Byte → State
  | [] => s
  | b => (List.range (b.length / 4)).foldl (fun (t : State) k => t.setReg (o + 4 * k) (wordAt b k)) s

/-- A message: TYPE, TAG, payload, padded to 64 bytes. -/
def message (typ : Nat) (tag : Byte) (payload : List Byte) : List Byte :=
  (leBytes 2 typ ++ [tag, BitVec.ofNat 8 payload.length] ++ payload ++ List.replicate 60 0).take 64

/-- A notice: the only message that is no answer. -/
def isNotice (m : List Byte) : Bool := field m 0 2 == 0x8100

/-- The first notice of a queue leaves it. -/
def dropNotice : List (List Byte) → List (List Byte)
  | [] => []
  | m :: r => if isNotice m then r else m :: dropNotice r

/-- The next message goes into MBX_S2H once the host has released it; vector 32 is signalled as FULL goes from 0 to 1. -/
def State.supFlush (s : State) : State :=
  match s.sup.out with
  | [] => s
  | m :: r =>
    if s.bit MBX_S2H_CTL 0 then s
    else (({ s with sup := { s.sup with out := r } }.setWords MBX_S2H m).orReg MBX_S2H_CTL 1).cause 32

/-- The supervisor posts a message. It holds up to 8; beyond that its oldest notice goes, and no answer ever does. -/
def State.supPost (s : State) (m : List Byte) : State :=
  let q := s.sup.out ++ [m]
  { s with sup := { s.sup with out := if q.length > 8 then dropNotice q else q } }.supFlush

/-- The supervisor logs an action of its own: of the last 256 records the unread ones are held, and a notice says that there
are some. -/
def State.logEvent (s : State) (code : Nat) (ch : Option (Fin 16)) (detail : Word) : State :=
  let rcd := leBytes 8 s.now.toNat ++ leBytes 2 code ++ [match ch with | some c => BitVec.ofNat 8 c.val | none => 0xFF, 0] ++
    leBytes 4 detail.toNat
  let l := s.sup.log ++ [rcd]
  let l := if l.length > 256 then l.drop 1 else l
  let was := s.sup.log.isEmpty
  let s := { s with sup := { s.sup with log := l } }
  if was then s.supPost (message 0x8100 0 (leBytes 4 l.length)) else s

end Sys2Proof.Machine
end

