-- ==== Sys2Proof/Machine/Time.lean ====
section
/-!
DEFINITION. Time (R381 to R390, R396, R397): the changes of the time base, its ADDEND packets, PPS_OUT, the capture and
trigger pins, and the supervisor's PTP servo.
(DESIGN CHOICE, log entry 33.)
-/

namespace Sys2Proof.Machine

open Sys2Proof

/-- Changes what the next fc of the time base brings. -/
def State.modTc (s : State) (f : TimeCtl → TimeCtl) : State := { s with tc := f s.tc }

/-- The cascade's master (R364). -/
def State.master (s : State) : Bool := s.bit GLB_STRAPS 3

/-- A cascade slave: it has taken a start barrier with CASCADE_MASTER low (R385). -/
def State.slave (s : State) : Bool := s.barred && !s.master

/-- Whether an addend lies in the range of R382. -/
def addOk (a : Dword) : Bool := decide (4767413698 ≤ a.toNat) && decide (a.toNat ≤ 4776958070)

/-- A command or write of the time base is ignored (R384, R385). -/
def State.cmdErr (s : State) : State := s.orReg TIME_STAT 8

/-! ## Changes (R382, R384) -/

/-- A write of TIME_ADDEND: out of range it is ignored and sets ADDERR; on a slave it is ignored and sets CMDERR. -/
def State.timeAddend (s : State) (v : Dword) : State :=
  if s.slave then s.cmdErr
  else if addOk v then s.setReg64 TIME_ADDEND v
  else s.orReg TIME_STAT 4

/-- TIME_ADDEND written. -/
def execTimeAddendWrite (v : Dword) (s : State) : Out := .next (s.atPort (fun s => s.timeAddend v))

/-- The lowest live channel: its LINK_ROUTE, the same in every channel, routes what the common block sends. -/
def State.lowLive (s : State) : ChId := ((List.finRange 16).find? (fun c => !s.passes c)).getD 0

/-- The payload of an ADDEND packet (R385). -/
def addPayload (at_ : Nat) (add : Dword) (step : Int) (flags : Nat) : List Byte :=
  leBytes 8 at_ ++ leBytes 8 add.toNat ++ leBytes 8 (ofSigned 64 step) ++ leBytes 1 flags ++ List.replicate 103 0

/-- Queues an ADDEND packet to the common block of every other device that a route reaches (R385). -/
def State.sendAddend (s : State) (payload : List Byte) : State :=
  (List.range 8).foldl (fun (t : State) d =>
    if d == s.ownDev then t
    else match t.route t.lowLive d with
      | none => t
      | some p =>
        if t.portUp p then
          t.portSend p { t.mkPkt 6 0 0 d 0 0 0 128 0 0 payload with vc := true, common := true }
        else t.linkDrop p p) s

/-- A write of TIME_CMD (R384, R385): the combinations of its bits, the checks of an ARM, and on the master after a
barrier the refusal of SET and the ADDEND packets of an armed change. -/
def State.timeCmd (s : State) (v : Word) : State :=
  let set := v.getLsbD 0
  let armA := v.getLsbD 1
  let armS := v.getLsbD 2
  let dis := v.getLsbD 3
  if s.slave then s.cmdErr
  else if !(set || armA || armS || dis) then s
  else if (set && (armA || armS || dis)) || (dis && (armA || armS)) then s.cmdErr
  else if dis then s.modTc (fun t => { t with timed := none })
  else if s.tc.timed.isSome then s.cmdErr
  else if set then
    if s.barred then s.cmdErr
    else s.modTc (fun t => { t with set := some ((s.reg64 TIME_SET_SEC).extractLsb' 0 48, (s.reg TIME_SET_NS).extractLsb' 0 30) })
  else
    let add := s.reg64 TIME_NEXT_ADD
    let at_ := s.reg64 TIME_NEXT_AT
    let step := (s.reg64 TIME_NEXT_STEP).toInt
    if armA && !addOk add then s.orReg TIME_STAT 4
    else if s.barred && decide (nsOf at_ < s.gridNow + 10000) then s.cmdErr
    else
      let c : Timed := ⟨nsOf at_, if armA then some add else none, if armS then some step else none, false⟩
      let s := s.modTc (fun t => { t with timed := some c })
      if s.barred then
        s.sendAddend (addPayload at_.toNat (if armA then add else 0) (if armS then step else 0) (b2n armA + 2 * b2n armS))
      else s

/-- TIME_CMD.SET. -/
def execTimeCmdSet (s : State) : Out := .next (s.atPort (fun s => s.timeCmd 1))

/-- TIME_CMD.ARM_ADD, ARM_STEP or both. -/
def execTimeCmdArm (add step : Bool) (s : State) : Out :=
  .next (s.atPort (fun s => s.timeCmd (BitVec.ofNat 32 (2 * b2n add + 4 * b2n step))))

/-- TIME_CMD.DISARM. -/
def execTimeCmdDisarm (s : State) : Out := .next (s.atPort (fun s => s.timeCmd 8))

/-- What a timed change brings: the new addend governs the advance to the next fc, which the step joins. The supervisor
logs a step of its PTP servo (R456). -/
def State.applyTimed (s : State) (c : Timed) : State :=
  let s := match c.add with | some a => s.setReg64 TIME_ADDEND a | none => s
  let s := match c.step with
    | some d => (s.modTc (fun t => { t with step := t.step + d })).orReg TIME_STAT 0x10
    | none => s
  let s := match c.ptp, c.step with
    | true, some d => s.logEvent 0x0006 none (BitVec.ofInt 32 (max (-(2 ^ 31 - 1)) (min (2 ^ 31 - 1) d)))
    | _, _ => s
  s.cause 42

/-- The armed change applies on the first fc on which the time base is at or past AT (R384). -/
def execTimedChangeApply (s : State) : Out :=
  .next (
    match s.tc.timed with
    | some c => if c.at_ ≤ s.nowNs then (s.modTc (fun t => { t with timed := none })).applyTimed c else s
    | none => s)

/-- The common block takes the next ADDEND packet (R385): the barrier's addend is kept for it; a change whose AT is past
applies at once and sets LATEADJ; any other is armed. -/
def execAddendPacketReceive (s : State) : Out :=
  .next (
    match s.tc.adds with
    | [] => s
    | p :: r =>
      let s := s.modTc (fun t => { t with adds := r })
      let fl := field p 24 1
      let add : Dword := BitVec.ofNat 64 (field p 8 8)
      if bitOf fl 2 then s.modTc (fun t => { t with barAdd := some add })
      else
        let c : Timed := { at_ := nsOf (BitVec.ofNat 64 (field p 0 8)), add := if bitOf fl 0 then some add else none,
                           step := if bitOf fl 1 then some (toSigned 64 (field p 16 8)) else none }
        if c.at_ < s.nowNs then ((s.applyTimed c).orReg TIME_STAT 0x20).cause 42
        else s.modTc (fun t => { t with timed := some c }))

/-- Reading TIME_NS latches TIME_FRAC and both words of TIME_SEC from the same fc (R383). -/
def State.latchTime (s : State) : State :=
  ((s.setReg TIME_NS (s.time.ns.zeroExtend 32)).setReg TIME_FRAC s.time.frac).setReg64 TIME_SEC (s.time.sec.zeroExtend 64)

/-! ## PPS_OUT (R390) -/

/-- Whether the part has completed its start: until then, and in Calm mode, its time outputs are held low (R495). -/
def State.outputsOn (s : State) : Bool := getField (s.reg GLB_STATE) 1 0 == 1 || getField (s.reg GLB_STATE) 1 0 == 3

/-- PPS_OUT goes high on the fc on which a new second begins. -/
def execPpsOutStart (s : State) : Out :=
  .next (
    if s.outputsOn && s.bit TIME_CTRL 0 && s.time.sec != s.tc.last.sec then
      s.modTc (fun t => { t with pps := some (s.nowFine + (s.reg PPS_WIDTH).toNat * 1000 * 2 ^ 32) })
    else s)

/-- PPS_OUT returns low after PPS_WIDTH µs. -/
def execPpsOutEnd (s : State) : Out :=
  .next (
    match s.tc.pps with
    | some e => if e ≤ s.nowFine then s.modTc (fun t => { t with pps := none }) else s
    | none => s)

/-! ## Capture (R386 to R388) -/

/-- Who may pop or command a pin: the host while it is unbound, else the bound channel (R388, R389).
(DESIGN CHOICE, log entry 20.) -/
def pinPath (cfg : Word) (chLo boundBit : Nat) (p : Path) : Bool :=
  match p with
  | .host => !cfg.getLsbD boundBit
  | .csr c => cfg.getLsbD boundBit && getField cfg (chLo + 3) chLo == c.val

/-- The FIFO of a capture input. -/
def State.fifo (s : State) (p : Fin 17) : List CapEntry := s.tcap.get p

/-- Replaces a capture FIFO. -/
def State.setFifo (s : State) (p : Fin 17) (l : List CapEntry) : State := { s with tcap := s.tcap.set p.val l p.isLt }

/-- A filtered edge is stamped, less the 6 fc of synchroniser and filter; with 8 entries held it is dropped. -/
def execTcapEdge (pin : Fin 17) (rising : Bool) (s : State) : Out :=
  .next (
    let cfg := s.reg (TCAP_CFG pin.val)
    if !cfg.getLsbD (if rising then 0 else 1) then s
    else if (s.fifo pin).length ≥ 8 then (s.orReg (TCAP_STAT pin.val) 0x10).inc (TCAP_DROP pin.val) 1
    else
      let t := s.nowFine - 6 * s.addend
      let s := s.setFifo pin (s.fifo pin ++ [⟨shortOf (t / 2 ^ 32), BitVec.ofNat 32 t, rising⟩])
      if cfg.getLsbD 6 then s else s.cause 43)

/-- A write to TCAP_POP removes the head entry; who may not pop is ignored, and so is a pop of an empty FIFO. -/
def State.tcapPop (s : State) (pin : Fin 17) (p : Path) : State :=
  if pinPath (s.reg (TCAP_CFG pin.val)) 2 6 p then s.setFifo pin (s.fifo pin).tail else s

/-- TCAP_POPp written. -/
def execTcapPop (pin : Fin 17) (p : Path) (s : State) : Out := .next (s.onPath p (fun s => s.tcapPop pin p))

/-! ## Triggers (R389) -/

/-- Trigger output `t`. -/
def State.trigger (s : State) (t : Fin 8) : Trg := s.trg.get t

/-- Changes trigger output `t`. -/
def State.setTrigger (s : State) (t : Fin 8) (g : Trg) : State := { s with trg := s.trg.set t.val g t.isLt }

/-- The level of a trigger pin (R389, R495): low before the first schedule, else active while a pulse lasts, by the POL of its
schedule. -/
def Trg.high (g : Trg) : Bool := match g.pol with | none => false | some p => g.pulse.isSome == p

/-- TRG_CMD.ARM: the staged schedule is checked; when it passes, the running schedule issues no pulse at or after the new
START. -/
def State.trgArm (s : State) (t : Fin 8) (p : Path) : State :=
  if !pinPath (s.reg (TRG_CFG t.val)) 1 5 p then s
  else
    let start := nsOf (s.reg64 (TRG_START t.val))
    let per := (s.reg (TRG_PERIOD t.val)).toNat
    let w := (s.reg (TRG_WIDTH t.val)).toNat
    if w < 5 || w > 1000000000 || (per != 0 && per < w + 5) || decide (start * 2 ^ 32 < s.nowFine) then
      (s.orReg (TRG_STAT t.val) 4).cause 44
    else s.setTrigger t { s.trigger t with next := some ⟨start, per, w, (s.reg (TRG_COUNT t.val)).toNat, 0, s.bit (TRG_CFG t.val) 0⟩ }

/-- TRG_CMD.CANCEL: no further pulse; one in progress completes. -/
def State.trgCancel (s : State) (t : Fin 8) (p : Path) : State :=
  if pinPath (s.reg (TRG_CFG t.val)) 1 5 p then s.setTrigger t { s.trigger t with run := none, next := none } else s

/-- TRG_CMDt.ARM written. -/
def execTrgArm (t : Fin 8) (p : Path) (s : State) : Out := .next (s.onPath p (fun s => s.trgArm t p))

/-- TRG_CMDt.CANCEL written. -/
def execTrgCancel (t : Fin 8) (p : Path) (s : State) : Out := .next (s.onPath p (fun s => s.trgCancel t p))

/-- The start of pulse `k`. -/
def Sched.at_ (c : Sched) (k : Nat) : Nat := c.start + k * c.period

/-- The last pulse of a schedule, or none when it has no end. -/
def Sched.last (c : Sched) : Option Nat :=
  if c.period == 0 then some 0 else if c.count == 0 then none else some (c.count - 1)

/-- The most recent pulse of a schedule that is due, before an instant that bounds it. -/
def Sched.due (c : Sched) (now : Nat) (before : Option Nat) : Option Nat :=
  let lim := match before with | some b => min (now + 1) b | none => now + 1
  if lim ≤ c.start then none
  else
    let m := if c.period == 0 then 0 else (lim - 1 - c.start) / c.period
    let m := match c.last with | some l => min m l | none => m
    if c.k ≤ m then some m else none

/-- A trigger pin goes active on the first fc at or after a pulse's start: of the pulses that a forward step passed, the
most recent one, with its full width; the earlier ones, and one due during a pulse in progress, are skipped. A pulse keeps the
polarity it began with. No pulse begins before the start is complete, nor in Calm mode (R495). -/
def execTrgPulseStart (t : Fin 8) (s : State) : Out :=
  .next (if !s.outputsOn then s else
    let g := s.trigger t
    let now := s.nowNs
    let take := match g.next with | some n => decide (n.start ≤ now) | none => false
    let old := if take then g.run.bind (fun c => (c.due now (g.next.map (·.start))).map (fun m => m + 1 - c.k)) else none
    let g := if take then { g with run := g.next, next := none, pol := if g.pulse.isSome then g.pol else g.next.map (·.pol) } else g
    let s := s.inc (TRG_SKIP t.val) (old.getD 0)
    match g.run with
    | none => s.setTrigger t g
    | some c =>
      match c.due now (g.next.map (·.start)) with
      | none => s.setTrigger t g
      | some m =>
        let done := match c.last with | some l => decide (l ≤ m) | none => false
        let run := if done then none else some { c with k := m + 1 }
        if g.pulse.isSome then (s.inc (TRG_SKIP t.val) (m + 1 - c.k)).setTrigger t { g with run := run }
        else
          let e := if s.crossing (c.at_ m) then (c.at_ m + c.width) * 2 ^ 32 else s.nowFine + c.width * 2 ^ 32
          ((s.inc (TRG_SKIP t.val) (m - c.k)).inc (TRG_PULSES t.val) 1).setTrigger t { g with run := run, pulse := some e })

/-- A trigger pin goes inactive on the first fc at or after start + WIDTH. -/
def execTrgPulseEnd (t : Fin 8) (s : State) : Out :=
  .next (
    let g := s.trigger t
    match g.pulse with
    | some e => if e ≤ s.nowFine then s.setTrigger t { g with pulse := none, pol := match g.run with | some c => some c.pol | none => g.pol } else s
    | none => s)

/-! ## PTP (R396, R397) -/

/-- The addend a trim of the supervisor's servo chooses: open, while LOCKED within ±500 ppm of the calibrated value, and
always in the range of R382. (DESIGN CHOICE, log entry 33.) -/
def State.trimTo (s : State) : Dword :=
  let d := s.tc.calAdd * 500 / 1000000
  let lo := if s.bit PTP_STAT 0 then max 4767413698 (s.tc.calAdd - d) else 4767413698
  let hi := if s.bit PTP_STAT 0 then min 4776958070 (s.tc.calAdd + d) else 4776958070
  BitVec.ofNat 64 (lo + Config.freeNat s.free % (hi - lo + 1))

/-- Arms a change of the servo; on a slave, and while a change is armed, it applies nothing. A cascade master sends it to the
other devices, as R385 gives. (DESIGN CHOICE, log entry 33.) -/
def State.servoArms (s : State) (c : Timed) : State :=
  if s.slave || s.tc.timed.isSome then s
  else
    let s := s.modTc (fun t => { t with timed := some { c with ptp := true } })
    if s.barred then
      s.sendAddend (addPayload (shortOf c.at_).toNat (c.add.getD 0) (c.step.getD 0) (b2n c.add.isSome + 2 * b2n c.step.isSome))
    else s

/-- Whether the supervisor runs gPTP on a port (R396). -/
def State.ptpOn (s : State) (p : Fin 2) : Bool := getField (s.reg PTP_CTRL) 1 0 == 1 && s.bit PTP_CTRL (3 + p.val)

/-- The part's own system identity in the best master clock algorithm of IEEE 802.1AS: priority1, clock quality, priority2 and
clock identity. (PRESUMED, log entry 33.) -/
def State.ptpOwn (s : State) : Nat :=
  let w := s.reg PTP_PRIO
  ((getField w 7 0 * 2 ^ 32 + Config.ptpQuality.toNat) * 256 + getField w 15 8) * 2 ^ 64 + Config.ptpIdentity.toNat

/-- The slave port that the algorithm chooses: the one with the best Announce, if it betters the part itself; none: the part
is grandmaster (R396). (PRESUMED, log entry 33.) -/
def State.ptpSlave (s : State) : Option (Fin 2) :=
  let h : Fin 2 → Option Nat := fun p =>
    if s.ptpOn p then (s.ptp.heard.get p).filter (fun v => decide (v / 2 ^ 96 < s.ptpOwn)) else none
  match h 0, h 1 with
  | some a, some b => some (if b < a then 1 else 0)
  | some _, none => some 0
  | none, some _ => some 1
  | none, none => none

/-- Whether the algorithm selects the part as grandmaster. -/
def State.ptpServes (s : State) : Bool := getField (s.reg PTP_CTRL) 1 0 == 1 && s.ptpSlave.isNone

/-- The part becomes grandmaster (R396): from here on it serves time at its calibrated addend, for which the servo arms a last
change in the place of a trim of its own not yet applied. `was`: it was so before. (DEDUCED, log entry 33.) -/
def State.ptpGrand (s : State) (was : Bool) : State :=
  if was || !s.ptpServes then s
  else
    let s := s.modTc (fun t => { t with timed := t.timed.filter (fun c => !c.ptp) })
    s.servoArms ⟨s.gridNow + 10000, some (BitVec.ofNat 64 s.tc.calAdd), none, true⟩

/-- The supervisor takes a gPTP frame of domain 0 (R396): the priority vector of an Announce is kept; what the other messages
bring to the servo comes with the Follow_Up. (PRESUMED, log entry 33.) -/
def State.ptpTake (s : State) (p : Fin 2) (pay : List Byte) : State :=
  let be : Nat → Nat → Nat := fun k n => ((pay.drop k).take n).foldl (fun a b => 256 * a + b.toNat) 0
  if !s.ptpOn p || be 0 1 != 0x1B || be 4 1 != 0 || pay.length < 64 then s
  else
    let v := (be 47 6 * 2 ^ 64 + be 53 8) * 2 ^ 96 + be 61 2 * 2 ^ 80 + be 20 10
    { s with ptp := { s.ptp with heard := s.ptp.heard.set p.val (some v) p.isLt } }.ptpGrand s.ptpServes

/-- PTP_PRIO is written (R396): the algorithm chooses again. -/
def State.ptpPrio (s : State) (v : Word) : State := (s.setReg PTP_PRIO v).ptpGrand s.ptpServes

/-- A Follow_Up on the slave port gives the servo an offset (R397): the servo clears RESTEP. -/
def execPtpFollowUp (port : Fin 2) (off : Dword) (s : State) : Out :=
  .next (
    if s.ptpSlave != some port then s
    else
      let a := off.toInt.natAbs
      let thr := (s.reg PTP_STEPTHR).toNat
      let s := (s.setReg64 PTP_OFFSET off).clrReg PTP_CTRL 4
      let good := if a < 100 then s.ptp.good + 1 else 0
      let s := { s with ptp := { s.ptp with good := good } }
      let trim : State → State := fun s => (s.servoArms ⟨s.gridNow + 10000, some s.trimTo, none, true⟩).drawFree 1
      if s.bit PTP_STAT 0 then
        if a > thr then
          (((({ s with ptp := { s.ptp with good := 0, hold := true } }).clrReg PTP_STAT 1).orReg PTP_STAT 2).cause 42).logEvent 0x0007 none (off.extractLsb' 0 32)
        else trim s
      else if s.ptp.hold then s
      else
        let s := if good ≥ 16 then s.orReg PTP_STAT 1 else s
        if a > thr then s.servoArms ⟨s.gridNow + 20000, none, some (-off.toInt), true⟩ else trim s)

/-- The host approves a step after a jump (R397). -/
def State.ptpRestep (s : State) : State := { (s.orReg PTP_CTRL 4) with ptp := { s.ptp with hold := false } }

/-- PTP_CTRL.RESTEP written. -/
def execPtpRestepWrite (s : State) : Out := .next (s.atPort (fun s => s.ptpRestep))

/-- PTP_CTRL is written (R410): what a port has heard goes when gPTP leaves it. -/
def State.ptpCtrl (s : State) (v : Word) : State :=
  let was := s.ptpServes
  let s := s.setReg PTP_CTRL (v &&& 0x1F)
  let s := { s with ptp := { s.ptp with heard := Vector.ofFn (fun p => if s.ptpOn p then s.ptp.heard.get p else none) } }.ptpGrand was
  if v.getLsbD 2 then s.ptpRestep else s

end Sys2Proof.Machine
end

