-- ==== Sys2Proof/Machine/Can.lean ====
section
/-!
DEFINITION. The CAN controllers (R398 to R409): BUS.SEND, BUS.CANCEL, the schedule matrix, fates, and received frames.
(DESIGN CHOICE, log entry 38.)
-/

namespace Sys2Proof.Machine

open Sys2Proof

/-- Changes a bus controller. -/
def Channel.modCan (x : Channel) (f : Can → Can) : Channel := { x with can := f x.can }

/-- CAN_CTRL.MODE. -/
def Channel.canMode (x : Channel) : Nat := getField (x.reg CAN_CTRL) 1 0

/-- Whether the controller may send: normal or loopback mode, and not bus-off. -/
def Channel.canSends (x : Channel) : Bool := (x.canMode == 1 || x.canMode == 3) && !x.can.off

/-- Whether the controller is error-passive (R401, ISO 11898-1). -/
def Channel.canPassive (x : Channel) : Bool := decide (getField (x.reg CAN_ERRC) 7 0 > 127) || x.can.recPass

/-- Whether a slot takes messages (R402). -/
def Channel.slotEn (x : Channel) (slot : Nat) : Bool := (x.reg (CAN_SLOTEN (slot / 32))).getLsbD (slot % 32)

/-- Column length in ns. -/
def Channel.colNs (x : Channel) : Nat := max 1 (getField (x.reg CAN_COLLEN) 15 0) * 1000

/-- The absolute number 512 c + s of the slot an instant lies in, none before CAN_T0 (R402). -/
def Channel.slotAt (x : Channel) (now : Nat) : Option Nat :=
  let t0 := nsOf (x.reg64 CAN_T0)
  if now < t0 then none else some ((now - t0) / x.colNs)

/-- Signals the error vector for CFGERR, RXOVF or BUSOFF when CAN_CTRL.ERR_IRQ is 1 (R63, R412). -/
def State.canErr (s : State) (c : ChId) (bit : Word) : State :=
  let s := s.modChan c (fun x => x.orReg CAN_STAT bit)
  if (s.chan c).bit CAN_CTRL 6 then s.chError c 0 else s

/-! ## The receive ring (R407) -/

/-- Writes a record into the receive ring, or drops it when the ring is full. -/
def State.canRecord (s : State) (c : ChId) (r : List Byte) : State :=
  let x := s.chan c
  let n := 2 ^ getField (x.reg CAN_RXSIZE) 4 0
  let h := x.reg CAN_RXHEAD
  if (h - x.reg CAN_RXTAIL).toNat ≥ n then (s.modChan c (fun x => x.inc CAN_RXDROP 1)).canErr c 0x10
  else s.setChan c ((x.dramPost ((x.reg64 CAN_RXBASE).toNat + 128 * (h.toNat % n)) r).inc CAN_RXHEAD 1)

/-- A receive record: stamp, identifier, format, fate, slot, data, zero beyond. -/
def canRcd (stamp : Dword) (id : Nat) (fmt fate slot : Nat) (data : List Byte) : List Byte :=
  (leBytes 8 stamp.toNat ++ leBytes 4 id ++ leBytes 1 fmt ++ leBytes 1 fate ++ leBytes 2 slot ++
    (data.take 64 ++ List.replicate (64 - data.length) 0) ++ List.replicate 48 0).take 128

/-- The data bytes a DLC gives, in classical and in FD format (R398). -/
def dlcBytes (fd : Bool) (dlc : Nat) : Nat :=
  if dlc ≤ 8 then dlc else if !fd then 8 else [12, 16, 20, 24, 32, 48, 64].getD (dlc - 9) 64

/-- The data of a message record. -/
def msgData (m : List Byte) : List Byte :=
  let fmt := field m 4 1
  if bitOf (field m 0 4) 30 then [] else (m.drop 8).take (dlcBytes (bitOf fmt 4) (fmt % 16))

/-! ## Fates (R404, R405) -/

/-- A message's fate is settled: its counter, its echo, its token. Fates: 1 SENT, 2 LATE, 3 CANCELLED, 4 SUPERSEDED,
5 BUSOFF, 7 PREEMPTED. -/
def State.canFate (s : State) (c : ChId) (slot : Nat) (m : CanMsg) (fate : Nat) : State :=
  let s := match fate with
    | 1 => s.modChan c (fun x => x.inc CAN_TXOK 1)
    | 2 => s.modChan c (fun x => x.inc CAN_LATE 1)
    | 3 => s.modChan c (fun x => x.inc CAN_CANCEL 1)
    | 4 => s.modChan c (fun x => x.inc CAN_SUPER 1)
    | _ => s
  let s := if (s.chan c).bit CAN_CTRL 4 then
      s.canRecord c (canRcd s.now (field m.rcd 0 4) (field m.rcd 4 1) (1 + 2 * fate) slot (msgData m.rcd))
    else s
  match m.tok with
  | some (k, o) => if m.frz then s.tokenFrozen c k else s.tokenIn c k o
  | none => s

/-- The entry of a slot. -/
def Channel.canSlot (x : Channel) (slot : Nat) : Option CanSlot := x.can.slots.find? (fun e => e.slot == slot)

/-- Puts, or takes away, the entry of a slot; the entries stay in ascending order of slot. -/
def Channel.putSlot (x : Channel) (slot : Nat) (e : Option CanSlot) : Channel :=
  let l := x.can.slots
  let l := l.filter (fun q => q.slot < slot) ++ e.toList ++ l.filter (fun q => slot < q.slot)
  x.modCan (fun b => { b with slots := l })

/-- Settles the message of a slot; the one held behind it becomes the slot's message and waits for the next opening. -/
def State.settle (s : State) (c : ChId) (e : CanSlot) (fate : Nat) : State :=
  let s := s.modChan c (fun x => x.putSlot e.slot (e.next.map (fun m => ⟨e.slot, { m with wait := true }, none⟩)))
  s.canFate c e.slot e.cur fate

/-- Withdraws every held message, those of a kind, with one fate; a message behind another goes as well. -/
def withdraw (c : ChId) (fate : Nat) : List CanSlot → State → State
  | [], s => s
  | e :: r, s =>
    let s := (s.modChan c (fun x => x.putSlot e.slot none)).canFate c e.slot e.cur fate
    let s := match e.next with | some m => s.canFate c e.slot m fate | none => s
    withdraw c fate r s

/-! ## Posting and cancelling (R403, R406) -/

/-- BUS.SEND (R403): posts the record at a[SA] to slot IMM[8:0]. -/
def execBusSend (ch : ChId) (f : FmtS) (s : State) : Out :=
  let w := wordS 0xC0 f
  let legal := f.sd == 0 && f.sb == 0 && !f.i && decide (f.imm.toNat < 512) && okA f.sa
  .next (
    let slot := f.imm.toNat % 512
    let s' := s.issue ch w legal (never f.pg f.pn) (!(s.chan ch).seq.guard f.pg f.pn) (fun s =>
      let x := s.chan ch
      let a := (x.seq.ra (aOf f.sa)).toNat
      guarded
        [(a % 8 != 0, .align), (decide (a + 72 > 0x2000000), .spadRange),
         (!x.slotEn slot || (x.canMode != 1 && x.canMode != 3), .axis)]
        (let q := x.spadRead a 72
         if q.2.2 then .went (s.setChan ch q.2.1)
         else
          let m := q.1
          let o : Org := ⟨x.seq.pc, w⟩
          let id := field m 0 4
          let fm := field m 4 1
          let s := (s.setChan ch q.2.1).modChan ch (fun x => x.modSeq (·.begin f.mod))
          match lowest [(bitOf id 31 || fm ≥ 64 || !zeroBytes m 5 8, .illegal),
              ((bitOf id 30 && bitOf fm 4) || (bitOf fm 5 && !bitOf fm 4) || (bitOf fm 4 && !x.bit CAN_CTRL 2), .desc)] with
          | some e => .went ((s.modChan ch (fun x => x.modSeq (·.step o.pc))).except ch e o true)
          | none =>
            let opened := x.can.opened.any (fun n => n % 512 == slot && x.slotAt s.nowNs == some n)
            let msg : CanMsg := { rcd := m, tok := some (f.mod, o), wait := !opened }
            .done (
              if x.can.off then s.canFate ch slot msg 5
              else match x.canSlot slot with
              | none => s.modChan ch (fun x => x.putSlot slot (some ⟨slot, msg, none⟩))
              | some e =>
                if e.cur.begun then
                  let t := s.modChan ch (fun x => x.putSlot slot (some { e with next := some msg }))
                  match e.next with | some old => t.canFate ch slot old 4 | none => t
                else (s.modChan ch (fun x => x.putSlot slot (some { e with cur := msg }))).canFate ch slot e.cur 4)))
    s')

/-- BUS.CANCEL (R406): withdraws the message of slot IMM[8:0] if it has never begun, the slot's own or one held behind a begun
one; sd and the token are written together. -/
def execBusCancel (ch : ChId) (f : FmtS) (s : State) : Out :=
  let w := wordS 0xC1 f
  let legal := f.sa == 0 && f.sb == 0 && !f.i && decide (f.imm.toNat < 512)
  .next (
    let slot := f.imm.toNat % 512
    s.issue ch w legal (never f.pg f.pn) (!(s.chan ch).seq.guard f.pg f.pn) (fun s =>
      let x := s.chan ch
      guarded [(!x.slotEn slot, .axis)]
        (let o : Org := ⟨x.seq.pc, w⟩
         let s := s.modChan ch (fun x => x.modSeq (·.begin f.mod))
         let q : State × Bool := match x.canSlot slot with
           | none => (s, false)
           | some e =>
             if !e.cur.begun then (s.settle ch e 3, true)
             else match e.next with
               | none => (s, false)
               | some m => ((s.modChan ch (fun x => x.putSlot slot (some { e with next := none }))).canFate ch slot m 3, true)
         .done ((q.1.modChan ch (fun x => x.modSeq (·.ws f.sd (if q.2 then 1 else 0)))).tokenIn ch f.mod o))))

/-! ## Modes and errors (R399, R401) -/

/-- Whether the bit timing is one the controller takes (R399). -/
def Channel.canTiming (x : Channel) : Bool :=
  let n := x.reg CAN_NBT
  let d := x.reg CAN_DBT
  let nq := (getField n 8 0 + 1) * (3 + getField n 16 9 + getField n 23 17)
  let dq := (getField d 4 0 + 1) * (3 + getField d 9 5 + getField d 13 10)
  80 ≤ nq && 10 ≤ dq && dq ≤ nq && !(d.getLsbD 18 && getField d 4 0 > 1)

/-- The controller leaves bus-off: its error counters begin anew (R401). -/
def Channel.canRejoin (x : Channel) : Channel :=
  (x.modCan (fun b => { b with off := false, recPass := false })).setReg CAN_ERRC 0

/-- A write of CAN_CTRL.MODE: leaving configuration mode checks the timing; bus-off without AUTOREC ends at it. A mode that does
not transmit cuts a frame in progress (R398), whose message stays in its slot. (DESIGN CHOICE, log entry 38.) -/
def State.canModeWrite (s : State) (c : ChId) (mode : BitVec 2) : State :=
  let x := s.chan c
  if !s.live c then s
  else if x.canMode == 0 && mode != 0 && !x.canTiming then s.canErr c 8
  else
    let x := x.setReg CAN_CTRL (setField (x.reg CAN_CTRL) 1 0 mode.toNat)
    let x := if x.can.off && !x.bit CAN_CTRL 3 then x.canRejoin else x
    let x := if mode == 1 || mode == 3 then x else x.modCan (fun b => { b with frame := none })
    let x := if mode == 0 then x.modCan (fun b => { b with opened := none }) else x
    s.setChan c x

/-- CAN_CTRL.MODE written. -/
def execCanModeWrite (ch : ChId) (mode : BitVec 2) (s : State) : Out := .next (s.canModeWrite ch mode)

/-- The controller enters bus-off (R401, R404): every held message is withdrawn with the fate BUSOFF. -/
def State.busOff (s : State) (c : ChId) : State :=
  let s := s.modChan c (fun x => (x.inc CAN_BUSOFF 1).modCan (fun b => { b with off := true, frame := none, safe := false, recPass := false }))
  (withdraw c 5 (s.chan c).can.slots s).canErr c 0x20

/-- After 128 occurrences of 11 recessive bits the controller rejoins the bus when AUTOREC is 1 (R401). -/
def execCanBusoffRecovery (ch : ChId) (s : State) : Out :=
  .next (if s.parked ch then s else s.modChan ch (fun x =>
    if x.can.off && x.bit CAN_CTRL 3 then x.canRejoin else x))

/-! ## The schedule (R402, R404) -/

/-- The slots that a forward step passes whole, of the slots before `n`, which opens on this fc: each closes, and a message that
waited for it is withdrawn LATE (R402, R404). A step back passes none. (DEDUCED, log entry 38.) -/
def State.slotsPassed (s : State) (c : ChId) (n : Nat) : State :=
  let k := match (s.chan c).slotAt (nsOf s.tc.last.short) with | some k => k + 1 | none => 0
  let passed : Nat → Bool := fun slot => (List.range (min 512 (n - k))).any (fun j => (k + j) % 512 == slot)
  ((s.chan c).can.slots.filter (fun e => e.cur.wait && passed e.slot)).foldl (fun t e => t.settle c e 2) s

/-- A slot opens on the first fc at or past its instant, once the slots that a forward step passed are closed. -/
def execCanSlotOpen (ch : ChId) (s : State) : Out :=
  .next (if s.parked ch then s else
    let x := s.chan ch
    if x.canMode == 0 || x.can.opened.isSome then s
    else match x.slotAt s.nowNs with
      | none => s
      | some n =>
        if !s.arrives (nsOf (x.reg64 CAN_T0) + n * x.colNs) then s
        else
          let s := s.slotsPassed ch n
          let x := (s.chan ch).modCan (fun b => { b with opened := some n })
          s.setChan ch (match x.canSlot (n % 512) with
            | some e => x.putSlot e.slot (some { e with cur := { e.cur with wait := false } })
            | none => x))

/-- A slot closes when the time base has left it: its message is withdrawn LATE, unless a frame of it is in progress. -/
def execCanSlotClose (ch : ChId) (s : State) : Out :=
  .next (if s.parked ch then s else
    let x := s.chan ch
    match x.can.opened with
    | none => s
    | some n =>
      if x.slotAt s.nowNs == some n then s
      else
        let x := x.modCan (fun b => { b with opened := none })
        let s := s.setChan ch x
        match x.canSlot (n % 512) with
        | none => s
        | some e =>
          if e.cur.wait then s
          else if x.can.frame == some (some e.slot) then
            s.setChan ch (x.putSlot e.slot (some { e with cur := { e.cur with closed := true } }))
          else s.settle ch e 2)

/-- At bus idle a message begins: the safe message ahead of every slot, else that of the open slot (R404, R409). -/
def execCanArbitration (ch : ChId) (s : State) : Out :=
  .next (if s.parked ch then s else
    let x := s.chan ch
    if !x.canSends || x.can.frame.isSome then s
    else if x.can.safe then s.setChan ch (x.modCan (fun b => { b with frame := some none }))
    else match x.can.opened.bind (fun n => x.canSlot (n % 512)) with
      | none => s
      | some e =>
        if e.cur.wait then s
        else s.setChan ch ((x.putSlot e.slot (some { e with cur := { e.cur with begun := true } })).modCan
          (fun b => { b with frame := some (some e.slot) })))

/-- The error counters after a transmission: TEC falls by 1 on success and rises by 8 on an error; above 127 the
controller is error-passive, above 255 bus-off (R401, ISO 11898-1). -/
def State.canTec (s : State) (c : ChId) (ok : Bool) : State :=
  let x := s.chan c
  let tec := getField (x.reg CAN_ERRC) 7 0
  let n := if ok then tec - 1 else tec + 8
  let s := s.setChan c (x.setReg CAN_ERRC (setField (x.reg CAN_ERRC) 7 0 (min n 255)))
  if n > 255 then s.busOff c else s

/-- Whether filter `k` takes a frame (R408). -/
def Channel.canMatch (x : Channel) (id : Word) (k : Nat) : Bool :=
  let f := x.reg (CAN_MFILT k)
  f.getLsbD 30 && f.getLsbD 29 == id.getLsbD 29 &&
    ((id ^^^ f) &&& x.reg (CAN_MMASK k) &&& 0x1FFFFFFF) == 0

/-- The receive error counter after a frame received (R401, ISO 11898-1): one less; from error-passive it falls to a value from
119 to 127, which is open. -/
def State.canRecDown (s : State) (c : ChId) : State :=
  let x := s.chan c
  let r := getField (x.reg CAN_ERRC) 14 8
  let put : Channel → Nat → Channel := fun x n => x.setReg CAN_ERRC (setField (x.reg CAN_ERRC) 14 8 n)
  if x.can.recPass then (s.setChan c (put (x.modCan (fun b => { b with recPass := false })) (119 + Config.freeNat s.free % 9))).drawFree 1
  else s.setChan c (put x (r - 1))

/-- A receive error (R401, ISO 11898-1): the counter rises by 1, or by 8; past 127 it stands at 127 and the controller is
error-passive. -/
def Channel.canRecUp (x : Channel) (n : Nat) : Channel :=
  let r := getField (x.reg CAN_ERRC) 14 8 + n
  ((x.inc CAN_ERRFR 1).setReg CAN_ERRC (setField (x.reg CAN_ERRC) 14 8 (min r 127))).modCan (fun b =>
    { b with recPass := b.recPass || decide (r > 127) })

/-- A received frame (R407, R408): to the buffer of the lowest matching filter, and to the ring unless that filter is
exclusive. `stamp` is the time at its SOF sample point. -/
def State.canReceive (s : State) (ch : ChId) (id : Word) (fmt : Byte) (data : List Byte) (stamp : Dword) : State :=
  let s := (s.modChan ch (fun x => x.inc CAN_RXOK 1)).canRecDown ch
  let x := s.chan ch
  let len := if id.getLsbD 30 then 0 else dlcBytes (fmt.getLsbD 4) (fmt.toNat % 16)
  let r := canRcd stamp (getField id 30 0) (fmt.toNat % 128) 0 0 ((data.take len) ++ List.replicate (len - data.length) 0)
  let hit := (List.range 8).find? (fun k => x.canMatch id k)
  let s := match hit with
    | none => s
    | some k =>
      let full := x.bit CAN_MSTAT k
      let y := (List.range 32).foldl (fun (y : Channel) j =>
        y.setReg (CAN_MBUF k + 4 * j) (BitVec.ofNat 32 (field r (4 * j) 4))) x
      let y := y.orReg CAN_MSTAT (BitVec.ofNat 32 (2 ^ k + (if full then 2 ^ (8 + k) else 0)))
      let s := s.setChan ch y
      if y.bit CAN_MIRQ k && !full then s.chError ch 0 else s
  let excl := match hit with | some k => x.bit (CAN_MFILT k) 31 | none => false
  if x.bit CAN_CTRL 5 && !excl then s.canRecord ch r else s

/-- A frame on the bus ends that this controller receives. `err`: 0 it is received, 1 a receive error that counts 1, 2 one that
counts 8 (R401). In internal loopback nothing comes from the bus. -/
def execCanFrameReceive (ch : ChId) (id : Word) (fmt : Byte) (data : List Byte) (stamp : Dword) (err : BitVec 2) (s : State) : Out :=
  .next (if s.parked ch then s else
    let x := s.chan ch
    if x.canMode == 0 || x.canMode == 3 || x.can.off then s
    else if err != 0 then s.setChan ch (x.canRecUp (if err == 1 then 1 else 8))
    else s.canReceive ch id fmt data stamp)

/-- The bytes of consecutive register words, from address 0. -/
def Channel.regBytes (x : Channel) (off n : Nat) : List Byte := (List.range n).flatMap (fun k => leBytes 4 (x.reg (off + 4 * k)).toNat)

/-- A frame this controller took part in ends (R404, R405, R409): sent (0), arbitration lost (1), in error (2 and above). Of the
errors, 3 is a missing acknowledgement with no dominant bit in the passive error flag, which leaves the transmit error count of an
error-passive controller as it is, and 4 a stuff error in arbitration, a recessive bit sent and read dominant, which never
advances it (R401, ISO 11898-1; PRESUMED, log entry 38). What is not sent retries while its slot is open, and else is withdrawn LATE. `tdcv` is the loop delay, of a frame that came far enough for
its measurement (R400), `sof` the time at its SOF sample point. In internal loopback the controller receives what it sends
(R401). -/
def execCanFrameTxEnd (ch : ChId) (res : BitVec 3) (tdcv : Option (BitVec 7)) (sof : Dword) (s : State) : Out :=
  .next (if s.parked ch then s else
    let x := s.chan ch
    match x.can.frame with
    | none => s
    | some who =>
      let x := x.modCan (fun b => { b with frame := none })
      let rcd := match who with
        | none => x.regBytes CAN_SAFEMSG 18
        | some k => match x.canSlot k with | some e => e.cur.rcd | none => []
      let fmt := field rcd 4 1
      let x := match tdcv with
        | some d => if bitOf fmt 5 && x.bit CAN_DBT 18 && res != 1 then x.setReg CAN_TDCV (d.zeroExtend 32) else x
        | none => x
      let esi := b2n (bitOf fmt 4 && x.canPassive)
      let x := if 2 ≤ res then x.inc CAN_ERRFR 1 else x
      let spared := (res == 3 && x.canPassive) || res == 4
      let s := s.setChan ch x
      let s := match who with
        | none =>
          if res == 0 then
            let s := s.modChan ch (fun x => (x.orReg CAN_STAT 0x40).modCan (fun b => { b with safe := false }))
            if (s.chan ch).bit CAN_CTRL 4 then
              s.canRecord ch (canRcd s.now (field rcd 0 4) fmt 13 0 (msgData rcd))
            else s
          else s
        | some k =>
          match x.canSlot k with
          | none => s
          | some e => if res == 0 then s.settle ch e 1 else if e.cur.closed then s.settle ch e 2 else s
      let s := if res == 0 && x.canMode == 3 then
          s.canReceive ch (BitVec.ofNat 32 (field rcd 0 4)) (BitVec.ofNat 8 (fmt + 64 * esi)) (msgData rcd) sof
        else s
      if res == 0 then s.canTec ch true else if res == 1 || spared then s else s.canTec ch false)

/-- A write of CAN_RXTAIL (R407, R412): one that passes CAN_RXHEAD is ignored. -/
def Channel.canRxTail (x : Channel) (v : Word) : Channel :=
  let t := x.reg CAN_RXTAIL
  if (v - t).toNat ≤ (x.reg CAN_RXHEAD - t).toNat then x.setReg CAN_RXTAIL v else x

/-- CAN_RXTAIL written, by the host or through SYS.CSR of the channel itself. -/
def execCanRxtailWrite (ch : ChId) (v : Word) (p : Path) (s : State) : Out :=
  .next (match p with
    | .host => s.atPort (fun s => s.modChan ch (fun x => x.canRxTail v))
    | .csr c => if c = ch then s.modChan ch (fun x => x.canRxTail v) else s)

/-! ## Safe state (R409) -/

/-- CAN_SAFECTL.EN = 1: what has not begun is withdrawn PREEMPTED, and the safe message of a
controller that sends is due at the next bus idle. (DESIGN CHOICE, log entry 38.) -/
def State.canSafe (s : State) (c : ChId) : State :=
  let s := s.modChan c (fun x => x.modCan (fun b => { b with safe := x.canSends }))
  let s := (s.chan c).can.slots.foldl (fun (t : State) e =>
    if e.cur.begun then
      let t := t.modChan c (fun x => x.putSlot e.slot (some { e with next := none }))
      match e.next with | some m => t.canFate c e.slot m 7 | none => t
    else withdraw c 7 [e] t) s
  s

end Sys2Proof.Machine
end

