-- ==== Sys2Proof/Machine/Jpeg.lean ====
section
/-!
DEFINITION. The JPEG decoder (R276, R277): baseline frames of ISO/IEC 10918-1, their restart intervals, and the pixels of
undamaged MCUs. A byte that never arrived is `none`.
(DESIGN CHOICE, log entry 35.)
-/

namespace Sys2Proof.Machine

open Sys2Proof

/-- A component of a frame: identifier, sampling factors, and its quantisation and Huffman tables. -/
structure JComp where
  id : Nat
  h : Nat
  v : Nat
  tq : Nat
  td : Nat := 0
  ta : Nat := 0
deriving DecidableEq, Repr

/-- What the headers of a frame give: its size, components, tables (quantisation: 64 values in zigzag order; Huffman: class,
number, symbols with their code lengths and codes), restart interval in MCUs, and the entropy-coded bytes. -/
structure JHead where
  w : Nat := 0
  h : Nat := 0
  comps : List JComp := []
  qt : List (Nat × List Nat) := []
  ht : List (Nat × Nat × List (Nat × Nat × Nat)) := []
  dri : Nat := 0
  scan : List (Option Byte) := []
deriving DecidableEq, Repr

/-- Bytes that have all arrived. -/
def solid : List (Option Byte) → Option (List Nat)
  | [] => some []
  | none :: _ => none
  | some b :: r => (solid r).map (b.toNat :: ·)

/-- The canonical codes of a Huffman table from its counts by length and its symbols. -/
def hufCodes : List Nat → List Nat → Nat → Nat → List (Nat × Nat × Nat)
  | [], _, _, _ => []
  | n :: ns, syms, len, code =>
    ((syms.take n).zip (List.range n)).map (fun e => (len, code + e.2, e.1)) ++
      hufCodes ns (syms.drop n) (len + 1) (2 * (code + n))

/-- The tables of a DHT segment. -/
def jDht : Nat → List Nat → Option (List (Nat × Nat × List (Nat × Nat × Nat)))
  | 0, _ => none
  | _ + 1, [] => some []
  | fuel + 1, t :: r =>
    let cs := r.take 16
    let n := cs.foldl (· + ·) 0
    if cs.length < 16 || (r.drop 16).length < n || t / 16 > 1 || t % 16 > 1 then none
    else (jDht fuel (r.drop (16 + n))).map ((t / 16, t % 16, hufCodes cs (r.drop 16) 1 0) :: ·)

/-- The tables of a DQT segment: 8-bit only. -/
def jDqt : Nat → List Nat → Option (List (Nat × List Nat))
  | 0, _ => none
  | _ + 1, [] => some []
  | fuel + 1, t :: r => if t > 3 || r.length < 64 then none else (jDqt fuel (r.drop 64)).map ((t, r.take 64) :: ·)

/-- The components of a frame header. -/
def jComps : List Nat → List JComp
  | i :: hv :: tq :: r => { id := i, h := hv / 16, v := hv % 16, tq := tq } :: jComps r
  | _ => []

/-- Gives the components the tables a scan header names. -/
def jScan : List Nat → List JComp → List JComp
  | i :: t :: r, cs => jScan r (cs.map (fun c => if c.id == i then { c with td := t / 16, ta := t % 16 } else c))
  | _, cs => cs

/-- Whether the sampling of the components is one the decoder takes: grey, 4:4:4, 4:2:2 or 4:2:0. -/
def jSampled : List JComp → Bool
  | [_] => true
  | [a, b, c] => ((a.h == 1 && a.v == 1) || (a.h == 2 && a.v == 1) || (a.h == 2 && a.v == 2)) &&
      b.h == 1 && b.v == 1 && c.h == 1 && c.v == 1
  | _ => false

/-- Reads the segments up to the scan; none where they cannot be parsed or ask for what is not supported. -/
def jSegs : Nat → List (Option Byte) → JHead → Option JHead
  | 0, _, _ => none
  | fuel + 1, some 0xFF :: some m :: r, hd =>
    if m == 0xFF then jSegs fuel (some 0xFF :: r) hd
    else if m == 0xD8 then jSegs fuel r hd
    else match solid (r.take 2) with
      | some [hi, lo] =>
        let n := 256 * hi + lo
        match solid ((r.take n).drop 2) with
        | none => none
        | some seg =>
          if n < 2 || r.length < n then none
          else
            let rest := r.drop n
            if m == 0xC4 then (jDht (n + 1) seg).bind (fun t => jSegs fuel rest { hd with ht := t ++ hd.ht })
            else if m == 0xDB then (jDqt (n + 1) seg).bind (fun t => jSegs fuel rest { hd with qt := t ++ hd.qt })
            else if m == 0xDD then jSegs fuel rest { hd with dri := 256 * seg.getD 0 0 + seg.getD 1 0 }
            else if m == 0xC0 then
              if seg.getD 0 0 != 8 then none
              else jSegs fuel rest { hd with h := 256 * seg.getD 1 0 + seg.getD 2 0, w := 256 * seg.getD 3 0 + seg.getD 4 0,
                                             comps := jComps ((seg.drop 6).take (3 * seg.getD 5 0)) }
            else if m == 0xDA then
              let ns := seg.getD 0 0
              if ns != hd.comps.length || seg.length != 4 + 2 * ns || (seg.drop (1 + 2 * ns)) != [0, 63, 0] then none
              else
                let cs := jScan ((seg.drop 1).take (2 * ns)) hd.comps
                if jSampled cs && cs.all (fun c => hd.qt.any (·.1 == c.tq) && hd.ht.any (fun t => t.1 == 0 && t.2.1 == c.td) &&
                    hd.ht.any (fun t => t.1 == 1 && t.2.1 == c.ta)) then some { hd with comps := cs, scan := rest }
                else none
            else if decide (0xC1 ≤ m ∧ m ≤ 0xCF ∧ m ≠ 0xC8) || m == 0xD9 then none
            else jSegs fuel rest hd
      | _ => none
  | _, _, _ => none

/-- The headers of a frame. -/
def jHead (bs : List (Option Byte)) : Option JHead :=
  match bs with
  | some 0xFF :: some 0xD8 :: _ => jSegs (bs.length + 1) bs {}
  | _ => none

/-- The entropy-coded bytes cut at the restart markers: each segment with the number of the marker before it. -/
def jCut : List (Option Byte) → Option Nat → List (Option Byte) → List (Option Nat × List (Option Byte))
  | [], m, acc => [(m, acc.reverse)]
  | some 0xFF :: some c :: r, m, acc =>
    if c == 0 then jCut r m (some 0xFF :: acc)
    else if c == 0xFF then jCut (some c :: r) m acc
    else if decide (0xD0 ≤ c ∧ c ≤ 0xD7) then (m, acc.reverse) :: jCut r (some (c.toNat - 0xD0)) []
    else [(m, acc.reverse)]
  | b :: r, m, acc => jCut r m (b :: acc)

/-- A bit source: the bits left, most significant first; `none` from a missing byte on. -/
def jBits (bs : List (Option Byte)) : List (Option Bool) :=
  bs.flatMap (fun b => (List.range 8).map (fun k => b.map (fun v => v.getLsbD (7 - k))))

/-- Takes `n` bits as a number. -/
def takeBits : Nat → List (Option Bool) → Nat → Option (Nat × List (Option Bool))
  | 0, bs, acc => some (acc, bs)
  | n + 1, some b :: r, acc => takeBits n r (2 * acc + b2n b)
  | _, _, _ => none

/-- Takes a Huffman symbol. -/
def takeSym (t : List (Nat × Nat × Nat)) : Nat → List (Option Bool) → Nat → Nat → Option (Nat × List (Option Bool))
  | 0, _, _, _ => none
  | fuel + 1, some b :: r, len, code =>
    let code := 2 * code + b2n b
    match t.find? (fun e => e.1 == len + 1 && e.2.1 == code) with
    | some e => some (e.2.2, r)
    | none => takeSym t fuel r (len + 1) code
  | _, _, _, _ => none

/-- The value of `n` appended bits. -/
def jExtend (v n : Nat) : Int := if n == 0 then 0 else if v < 2 ^ (n - 1) then (v : Int) - (2 ^ n : Nat) + 1 else v

/-- The AC coefficients from place `k` on. -/
def jAc (t : List (Nat × Nat × Nat)) : Nat → List (Option Bool) → Nat → List Int → Option (List Int × List (Option Bool))
  | 0, _, _, _ => none
  | fuel + 1, bs, k, c =>
    if k == 64 then some (c, bs)
    else match takeSym t 16 bs 0 0 with
      | none => none
      | some (rs, r) =>
        if rs == 0 then some (c ++ List.replicate (64 - k) 0, r)
        else
          let run := rs / 16
          let n := rs % 16
          if n == 0 && run != 15 then none
          else if k + run > 63 then none
          else match takeBits n r 0 with
            | none => none
            | some (v, r) => jAc t fuel r (k + run + 1) (c ++ List.replicate run 0 ++ [jExtend v n])

/-- One block: its 64 coefficients in zigzag order, and the component's new predictor. -/
def jBlock (dc ac : List (Nat × Nat × Nat)) (pred : Int) (bs : List (Option Bool)) : Option (List Int × Int × List (Option Bool)) :=
  match takeSym dc 16 bs 0 0 with
  | none => none
  | some (n, r) =>
    if n > 11 then none
    else match takeBits n r 0 with
      | none => none
      | some (v, r) =>
        let d := pred + jExtend v n
        (jAc ac 65 r 1 [d]).map (fun q => (q.1, d, q.2))

/-- The Huffman table of a class and number. -/
def JHead.huf (hd : JHead) (cls k : Nat) : List (Nat × Nat × Nat) :=
  ((hd.ht.find? (fun t => t.1 == cls && t.2.1 == k)).map (·.2.2)).getD []

/-- The blocks of an MCU in the order of the scan, by component number. -/
def JHead.order (hd : JHead) : List Nat :=
  if hd.comps.length == 1 then [0]
  else ((List.range hd.comps.length).zip hd.comps).flatMap (fun e => List.replicate (e.2.h * e.2.v) e.1)

/-- The blocks of one MCU. -/
def jMcu (hd : JHead) : List Nat → List Int → List (Option Bool) → Option (List (List Int) × List Int × List (Option Bool))
  | [], ps, bs => some ([], ps, bs)
  | k :: ks, ps, bs =>
    let c := hd.comps.getD k ⟨0, 1, 1, 0, 0, 0⟩
    match jBlock (hd.huf 0 c.td) (hd.huf 1 c.ta) (ps.getD k 0) bs with
    | none => none
    | some (b, p, r) => (jMcu hd ks (ps.set k p) r).map (fun q => (b :: q.1, q.2.1, q.2.2))

/-- The MCUs of a restart interval; none when it is damaged (R277). -/
def jInterval (hd : JHead) : Nat → List Int → List (Option Bool) → Option (List (List (List Int)))
  | 0, _, bs => if bs.length < 8 && bs.all (·.isSome) then some [] else none
  | n + 1, ps, bs =>
    match jMcu hd hd.order ps bs with
    | none => none
    | some (m, ps, r) => (jInterval hd n ps r).map (m :: ·)

/-- The number of each segment's interval: decoding resumes at the next valid marker, the one after next where a marker is
missing; a marker no interval is left for is out of sequence. -/
def jPlace (total : Nat) : Option Nat → List (Option Nat × List (Option Byte)) → List (Nat × List (Option Byte))
  | _, [] => []
  | cur, (m, bs) :: r =>
    let i := match cur, m with
      | some c, some n => c + 1 + (n + 8 - c % 8) % 8
      | _, _ => 0
    if i < total then (i, bs) :: jPlace total (some i) r else jPlace total cur r

/-- The size of an MCU in pixels. -/
def JHead.mcu (hd : JHead) : Nat × Nat :=
  match hd.comps with
  | [_] => (8, 8)
  | a :: _ => (8 * a.h, 8 * a.v)
  | [] => (8, 8)

/-- MCUs across and down. -/
def JHead.grid (hd : JHead) : Nat × Nat := ((hd.w + hd.mcu.1 - 1) / hd.mcu.1, (hd.h + hd.mcu.2 - 1) / hd.mcu.2)

/-- Every MCU of a frame in order: its blocks, or none where its interval is damaged (R277). -/
def JHead.mcus (hd : JHead) : List (Option (List (List Int))) :=
  let n := hd.grid.1 * hd.grid.2
  let per := if hd.dri == 0 then max 1 n else hd.dri
  let total := (n + per - 1) / per
  let segs := jPlace total none (jCut hd.scan none [])
  (List.range total).flatMap (fun i =>
    let k := min per (n - i * per)
    match segs.find? (fun e => e.1 == i) with
    | none => List.replicate k none
    | some e =>
      match jInterval hd k [0, 0, 0] (jBits e.2) with
      | some ms => ms.map some
      | none => List.replicate k none)

/-- The place of coefficient `k` of the zigzag order in the block, row by row. -/
def zigzag : List Nat :=
  [0, 1, 8, 16, 9, 2, 3, 10, 17, 24, 32, 25, 18, 11, 4, 5, 12, 19, 26, 33, 40, 48, 41, 34, 27, 20, 13, 6, 7, 14, 21, 28] ++
  [35, 42, 49, 56, 57, 50, 43, 36, 29, 22, 15, 23, 30, 37, 44, 51, 58, 59, 52, 45, 38, 31, 39, 46, 53, 60, 61, 54, 47, 55, 62, 63]

/-- The dequantised coefficients of a block, row by row. -/
def JHead.dequant (hd : JHead) (tq : Nat) (b : List Int) : List Int :=
  let q : List Nat := ((hd.qt.find? (·.1 == tq)).map (·.2)).getD []
  (List.range 64).map (fun p => match zigzag.idxOf? p with | some k => b.getD k 0 * ((q.getD k 0 : Nat) : Int) | none => 0)

/-- The sample of component `c` at pixel (px, py) of an MCU: chroma is replicated. -/
def JHead.sample (hd : JHead) (cls : Nat) (m : List (List Int)) (c px py : Nat) : Int :=
  let k := hd.comps.getD c ⟨0, 1, 1, 0, 0, 0⟩
  let one := hd.comps.length == 1
  let hm := if one then 1 else (hd.mcu.1) / 8
  let vm := if one then 1 else (hd.mcu.2) / 8
  let x := if one then px else px * k.h / hm
  let y := if one then py else py * k.v / vm
  let first := if one then 0 else ((hd.comps.take c).map (fun q => q.h * q.v)).foldl (· + ·) 0
  let blk := first + (if one then 0 else (y / 8) * k.h + x / 8)
  (Config.idct cls (hd.dequant k.tq (m.getD blk [])) (8 * (y % 8) + x % 8)).toNat

/-- `v ÷ 2^n` rounded to nearest, ties to even (R286). -/
def rneI (v : Int) (n : Nat) : Int :=
  let f := v / (2 ^ n : Nat)
  let r := (v % (2 ^ n : Nat)).toNat
  if 2 * r > 2 ^ n || (2 * r == 2 ^ n && f % 2 == 1) then f + 1 else f

/-- Clamps to a byte. -/
def clampB (v : Int) : Nat := (max 0 (min 255 v)).toNat

/-- The colours of a pixel (R276). -/
def JHead.rgb (hd : JHead) (cls : Nat) (m : List (List Int)) (px py : Nat) : List Byte :=
  let y := hd.sample cls m 0 px py
  if hd.comps.length == 1 then List.replicate 3 (BitVec.ofInt 8 y)
  else
    let cb := hd.sample cls m 1 px py - 128
    let cr := hd.sample cls m 2 px py - 128
    [y + rneI (91881 * cr) 16, y - rneI (22554 * cb + 46802 * cr) 16, y + rneI (116130 * cb) 16].map
      (fun v => BitVec.ofNat 8 (clampB v))

/-- A decode (R276, R277): the first and the last damaged MCU, and the pixels; a damaged MCU shows the reference, or
mid-grey without one. A frame whose headers cannot be parsed, or of another size, is damaged as a whole, from MCU 0 to a
last one that has no number. -/
def jDecode (cls w h : Nat) (bs : List (Option Byte)) (ref : Option (List Byte)) : Option (Nat × Option Nat) × List Byte :=
  let conceal : Nat → Nat → List Byte := fun x y =>
    match ref with | some r => (r.drop (3 * (y * w + x))).take 3 | none => List.replicate 3 128
  let all : (Nat → Nat → List Byte) → List Byte := fun f =>
    (List.range h).flatMap (fun y => (List.range w).flatMap (fun x => f x y))
  match (jHead bs).filter (fun hd => hd.w == w && hd.h == h && decide (hd.grid.1 * hd.grid.2 ≤ 65535)) with
  | none => (some (0, none), all conceal)
  | some hd =>
    let ms := hd.mcus
    let bad := (List.range ms.length).filter (fun k => (ms.getD k none).isNone)
    (bad.head?.map (fun a => (a, some (bad.getLastD a))),
     all (fun x y =>
      match ms.getD (y / hd.mcu.2 * hd.grid.1 + x / hd.mcu.1) none with
      | some m => hd.rgb cls m (x % hd.mcu.1) (y % hd.mcu.2)
      | none => conceal x y))

end Sys2Proof.Machine
end

