-- ==== Sys2Proof/Machine/IntakeOps.lean ====
section
/-!
DEFINITION. What the intake computes: the camera path (R265 to R271), pyramids (R289), augmentation (R286 to R288),
fragments of compressed frames (R273 to R275), and guard records (R291).
(PRESUMED, log entry 34.)
-/

namespace Sys2Proof.Machine

open Sys2Proof

/-! ## Fields of a stream -/

/-- A field of IN_Sn_CFG. -/
def Channel.inCfg (x : Channel) (st : Fin 2) (hi lo : Nat) : Nat := getField (x.reg (IN_S_CFG st.val)) hi lo

/-- WIDTH and HEIGHT. -/
def Channel.inW (x : Channel) (st : Fin 2) : Nat := getField (x.reg (IN_S_SIZE st.val)) 15 0
def Channel.inH (x : Channel) (st : Fin 2) : Nat := getField (x.reg (IN_S_SIZE st.val)) 31 16

/-- Whether a stream runs and has a source: 0 CSI-2, 1 Ethernet. -/
def Channel.inRuns (x : Channel) (st : Fin 2) (src : Nat) : Bool :=
  !x.fenced && x.inCfg st 0 0 == 1 && x.inCfg st 1 1 == src

/-- The data type of a raw stream. -/
def Channel.inDt (x : Channel) (st : Fin 2) : Nat := x.inCfg st 11 6

/-- Bits per pixel of a RAW type; none for YUV422 and RGB888. -/
def rawDepth : Nat → Option Nat
  | 0x2A => some 8
  | 0x2B => some 10
  | 0x2C => some 12
  | 0x2E => some 16
  | _ => none

/-- The payload bytes of a line. -/
def lineBytes (dt w : Nat) : Nat :=
  match rawDepth dt with
  | some d => (w * d + 7) / 8
  | none => if dt == 0x1E then 2 * w else 3 * w

/-- Levels of the pyramid. -/
def Channel.inLevels (x : Channel) (st : Fin 2) : Nat := max 1 (x.inCfg st 18 16)

/-- Elements per pixel and bytes per element of what a raw stream writes. -/
def Channel.inElem (x : Channel) (st : Fin 2) : Nat × Nat :=
  if x.inCfg st 14 14 == 1 then (3, 1)
  else match rawDepth (x.inDt st) with
    | some 8 => (1, 1)
    | some _ => (1, 2)
    | none => if x.inDt st == 0x1E then (2, 1) else (3, 1)

/-- The size of a dimension at a pyramid level (R289). -/
def levelDim (d : Nat) : Nat → Nat
  | 0 => d
  | n + 1 => (levelDim d n + 1) / 2

/-- The ring a level goes to. -/
def Channel.inRing (x : Channel) (st : Fin 2) : Nat → BitVec 6
  | 0 => (x.reg (IN_S_RING st.val)).extractLsb' 0 6
  | l + 1 => BitVec.ofNat 6 (getField (x.reg (IN_S_LRING st.val)) (6 * l + 5) (6 * l))

/-- The guard ring. -/
def Channel.inGuard (x : Channel) (st : Fin 2) : BitVec 6 := BitVec.ofNat 6 (getField (x.reg (IN_S_RING st.val)) 11 6)

/-- Error bits of IN_STAT; they signal the error vector when IN_CTRL.ERR_IRQ is 1 (R293). -/
def State.inErr (s : State) (c : ChId) (bits : Word) : State :=
  let s := s.modChan c (fun x => x.orReg IN_STAT bits)
  if (s.chan c).bit IN_CTRL 4 then s.chError c 0 else s

/-- Changes a raw stream. -/
def Channel.modRaw (x : Channel) (st : Fin 2) (f : Raw → Raw) : Channel :=
  { x with intake := { x.intake with raw := x.intake.raw.set st.val (f (x.intake.raw.get st)) st.isLt } }

/-- Changes a compressed stream. -/
def Channel.modComp (x : Channel) (st : Fin 2) (f : CStream → CStream) : Channel :=
  { x with intake := { x.intake with comp := x.intake.comp.set st.val (f (x.intake.comp.get st)) st.isLt } }

/-- Byte `k` of DRAM at `a` as a read delivers it: a byte of an uncorrectable half is open. -/
def Channel.dramAt (x : Channel) (free a k : Nat) : Byte :=
  if x.dram.err.any (fun e => e.1 == (a + k) / 32 && e.2 == 2) then Config.freeByte (free + k) else rd8 x.dram.mem (a + k)

/-! ## Lines (R265, R266) -/

/-- Pixel `k` of a packed RAW line. -/
def rawPixel (depth : Nat) (bs : List Byte) (k : Nat) : Nat :=
  match depth with
  | 8 => field bs k 1
  | 10 => 4 * field bs (k / 4 * 5 + k % 4) 1 + field bs (k / 4 * 5 + 4) 1 / 4 ^ (k % 4) % 4
  | 12 => 16 * field bs (k / 2 * 3 + k % 2) 1 + field bs (k / 2 * 3 + 2) 1 / 16 ^ (k % 2) % 16
  | _ => 256 * field bs (2 * k) 1 + field bs (2 * k + 1) 1

/-- How many pixels a line holds. -/
def linePixels (dt : Nat) (bs : List Byte) : Nat :=
  match rawDepth dt with
  | some d => bs.length * 8 / d
  | none => if dt == 0x1E then bs.length / 4 * 2 else bs.length / 3

/-- Sample `x` of a RAW line; a short line repeats its last pixel. -/
def rawAt (dt : Nat) (bs : List Byte) (x : Nat) : Nat :=
  rawPixel ((rawDepth dt).getD 8) bs (min x (linePixels dt bs - 1))

/-- The three components of a pixel of a YUV422 (Y, Cb, Cr) or an RGB888 line. -/
def triAt (dt : Nat) (bs : List Byte) (x : Nat) : List Nat :=
  let k := min x (linePixels dt bs - 1)
  if dt == 0x1E then
    let b := k / 2 * 4
    [field bs (b + 1 + 2 * (k % 2)) 1, field bs b 1, field bs (b + 2) 1]
  else [field bs (3 * k + 2) 1, field bs (3 * k + 1) 1, field bs (3 * k) 1]

/-! ## The camera path (R268, R269) -/

/-- The colour of a CFA position: 0 R, 1 G, 2 B. -/
def cfaColour (cfa r c : Nat) : Nat :=
  let p := 2 * (r % 2) + c % 2
  match cfa with
  | 0 => [0, 1, 1, 2].getD p 0
  | 1 => [1, 0, 2, 1].getD p 0
  | 2 => [1, 2, 0, 1].getD p 0
  | _ => [2, 1, 1, 0].getD p 0

/-- The nearest edge place of the same parity. -/
def edge (i : Int) (n : Nat) : Nat :=
  if i < 0 then min 1 (n - 1) else if i ≥ (n : Int) then n - 2 else i.toNat

/-- Steps 1 to 3 at a RAW site. -/
def Channel.camSite (x : Channel) (st : Fin 2) (lines : List (List Byte × Bool)) (r c : Nat) : Nat :=
  let dt := x.inDt st
  let d := (rawDepth dt).getD 8
  let v := rawAt dt ((lines.getD r ([], false)).1) c * 2 ^ (16 - d)
  let p := 2 * (r % 2) + c % 2
  let bl := getField (x.reg (if p < 2 then IN_S_BLACK01 st.val else IN_S_BLACK23 st.val)) (16 * (p % 2) + 15) (16 * (p % 2))
  let col := cfaColour (x.inCfg st 13 12) r c
  let g := if col == 2 then getField (x.reg (IN_S_GAINB st.val)) 15 0
           else getField (x.reg (IN_S_GAINRG st.val)) (16 * col + 15) (16 * col)
  min 65535 (rneI ((v - bl : Nat) * g : Nat) 12).toNat

/-- The colours of a RAW pixel after the bilinear demosaic. -/
def Channel.demosaic (x : Channel) (st : Fin 2) (lines : List (List Byte × Bool)) (r c : Nat) : List Nat :=
  let w := x.inW st
  let h := x.inH st
  let cfa := x.inCfg st 13 12
  let v : Int → Int → Nat := fun dr dc => x.camSite st lines (edge ((r : Int) + dr) h) (edge ((c : Int) + dc) w)
  let avg : List Nat → Nat → Nat := fun l n => (rneI ((l.foldl (· + ·) 0 : Nat) : Int) n).toNat
  let here := cfaColour cfa r c
  (List.range 3).map (fun k =>
    if k == here then v 0 0
    else if here == 1 then
      if cfaColour cfa r (c + 1) == k then avg [v 0 (-1), v 0 1] 1 else avg [v (-1) 0, v 1 0] 1
    else if k == 1 then avg [v 0 (-1), v 0 1, v (-1) 0, v 1 0] 2
    else avg [v (-1) (-1), v (-1) 1, v 1 (-1), v 1 1] 2)

/-- Half-word `k` of the colour matrix registers, signed. -/
def Channel.ccm (x : Channel) (st : Fin 2) (k : Nat) : Int :=
  toSigned 16 (getField (x.reg (IN_S_CCM st.val + 4 * (k / 2))) (16 * (k % 2) + 15) (16 * (k % 2)))

/-- Steps 5 and 6: colour matrix and gamma. -/
def Channel.camOut (x : Channel) (st : Fin 2) (v : List Nat) : List Nat :=
  (List.range 3).map (fun i =>
    let t := ((List.range 3).map (fun k => x.ccm st (3 * i + k) * ((v.getD k 0 : Int) - x.ccm st (9 + k)))).foldl (· + ·) 0
    let o := (max 0 (min 65535 (rneI t 12 + x.ccm st (12 + i)))).toNat
    let e := o / 64
    getField (x.reg (IN_S_GAMMA st.val + 4 * (e / 4))) (8 * (e % 4) + 7) (8 * (e % 4)))

/-- Row `r` of a raw frame as values: a row that R266 fills repeats the one before it, and is mid-grey in row 0. -/
def Channel.rawRow (x : Channel) (st : Fin 2) (lines : List (List Byte × Bool)) (prev : Option (List Nat)) (r : Nat) : List Nat :=
  let w := x.inW st
  let dt := x.inDt st
  let l := lines.getD r ([], true)
  if l.2 then prev.getD (List.replicate (w * (x.inElem st).1) 128)
  else if x.inCfg st 14 14 == 1 then
    (List.range w).flatMap (fun c =>
      x.camOut st (if (rawDepth dt).isSome then x.demosaic st lines r c else (triAt dt l.1 c).map (· * 256)))
  else match rawDepth dt with
    | some _ => (List.range w).map (fun c => rawAt dt l.1 c)
    | none =>
      if dt == 0x1E then (List.range w).flatMap (fun c =>
        let b := min c (linePixels dt l.1 - 1)
        [field l.1 (b / 2 * 4 + 2 * (b % 2)) 1, field l.1 (b / 2 * 4 + 2 * (b % 2) + 1) 1])
      else (List.range w).flatMap (fun c => let b := min c (linePixels dt l.1 - 1); [field l.1 (3 * b) 1, field l.1 (3 * b + 1) 1, field l.1 (3 * b + 2) 1])

/-! ## Pyramids (R289) -/

/-- A place of the row or column above, tap `i` of five, edges replicated. -/
def pyrAt (m r i : Nat) : Nat := min (m - 1) (2 * r + i - 2)

/-- Row `r` of the level above: the binomial filter at even rows and columns, edges replicated. `n` values a pixel. -/
def pyrRow (n w h : Nat) (rows : List (List Nat)) (r : Nat) : List Nat :=
  let k : List Nat := [1, 4, 6, 4, 1]
  (List.range ((w + 1) / 2)).flatMap (fun c => (List.range n).map (fun e =>
    let ts := (List.range 5).flatMap (fun i => (List.range 5).map (fun j =>
      k.getD i 0 * k.getD j 0 * (rows.getD (pyrAt h r i) []).getD (n * pyrAt w c j + e) 0))
    (rneI ((ts.foldl (· + ·) 0 : Nat) : Int) 8).toNat))

/-- The levels above level 0 of a whole image, as lists of rows. -/
def pyramid (n w h : Nat) (rows : List (List Nat)) : Nat → List (List (List Nat))
  | 0 => []
  | k + 1 =>
    let up := (List.range ((h + 1) / 2)).map (fun r => pyrRow n w h rows r)
    up :: pyramid n ((w + 1) / 2) ((h + 1) / 2) up k

/-! ## Augmentation (R286 to R288) -/

/-- The generator of R286. -/
def augDraw (seed : Dword) (sample : BitVec 40) (op k : Nat) : Dword :=
  mix (seed ^^^ mix (BitVec.ofNat 64 (0xA5 * 2 ^ 56 + sample.toNat * 2 ^ 16 + op * 256 + k)))

/-- `pick` of R286. -/
def augPick (r : Dword) (lo hi : Int) : Int := lo + (((r.toNat / 2 ^ 32 : Nat) : Int) * (hi - lo + 1)) / (2 ^ 32 : Nat)

/-- What the operations choose: the window (x0, y0, cw, ch), whether rows are mirrored, brightness and contrast. -/
structure Aug where
  x0 : Nat
  y0 : Nat
  cw : Nat
  ch : Nat
  flip : Bool
  d : Int
  c : Int
deriving DecidableEq, Repr

/-- The operations of R287 on a stream's frame. -/
def Channel.augment (x : Channel) (st : Fin 2) (sample : BitVec 40) : Aug :=
  let a := x.reg (IN_S_AUG st.val)
  let seed := x.reg64 (IN_S_SEED st.val)
  let u := augDraw seed sample
  let w := x.inW st
  let h := x.inH st
  let ow := getField (x.reg (IN_S_OSIZE st.val)) 15 0
  let oh := getField (x.reg (IN_S_OSIZE st.val)) 31 16
  let sc := if a.getLsbD 0 then (augPick (u 0 0) (getField (x.reg (IN_S_SMIN st.val)) 19 0) (getField (x.reg (IN_S_SMAX st.val)) 19 0)).toNat else 65536
  let cw := min w (max 1 (rneI (ow * sc : Nat) 16).toNat)
  let ch := min h (max 1 (rneI (oh * sc : Nat) 16).toNat)
  let crop := a.getLsbD 1
  { x0 := if crop then (augPick (u 1 0) 0 ((w : Int) - cw)).toNat else (w - cw) / 2
    y0 := if crop then (augPick (u 1 1) 0 ((h : Int) - ch)).toNat else (h - ch) / 2
    cw := cw, ch := ch
    flip := a.getLsbD 2 && decide (getField (u 2 0) 63 56 < getField a 15 8)
    d := if a.getLsbD 3 then augPick (u 3 0) (toSigned 8 (getField a 23 16)) (toSigned 8 (getField a 31 24)) else 0
    c := if a.getLsbD 4 then augPick (u 4 0) (getField (x.reg (IN_S_CONTR st.val)) 15 0) (getField (x.reg (IN_S_CONTR st.val)) 31 16) else 256 }

/-- The source place of an output place: the two neighbours and the weight of the second (R288). -/
def resizeAt (o cw ow : Nat) : Nat × Nat × Nat :=
  let sx := max 0 (min (((cw - 1) * 65536 : Nat) : Int) ((((2 * o + 1) * cw * 32768 / ow : Nat) : Int) - 32768))
  let s := sx.toNat
  let xi := s / 65536
  (xi, min (xi + 1) (cw - 1), s / 256 % 256)

/-- A pixel's colours after resize, mirror and the byte operations; `p` reads a colour of the frame. -/
def Aug.pixel (g : Aug) (p : Nat → Nat → Nat → Nat) (ow oh ox oy : Nat) : List Nat :=
  let xx := resizeAt (if g.flip then ow - 1 - ox else ox) g.cw ow
  let yy := resizeAt oy g.ch oh
  (List.range 3).map (fun k =>
    let q := fun yi xi => p (g.x0 + xi) (g.y0 + yi) k
    let fx := xx.2.2
    let fy := yy.2.2
    let t := (q yy.1 xx.1 * (256 - fx) + q yy.1 xx.2.1 * fx) * (256 - fy) +
             (q yy.2.1 xx.1 * (256 - fx) + q yy.2.1 xx.2.1 * fx) * fy
    let v : Int := rneI (t : Int) 16
    let v := max 0 (min 255 (v + g.d))
    clampB (128 + rneI ((v - 128) * g.c) 8))

/-! ## Guard records (R291) -/

/-- A guard record. -/
def guardRcd (bid slot st ch : Nat) (flags : BitVec 16) (cam : Word) (dcrc : Word) (capture : Dword) (src damage : Word) : List Byte :=
  leBytes 4 bid ++ leBytes 1 slot ++ leBytes 1 (st + 2 * ch) ++ leBytes 2 flags.toNat ++ leBytes 4 cam.toNat ++
    leBytes 4 dcrc.toNat ++ leBytes 8 capture.toNat ++ leBytes 4 src.toNat ++ leBytes 4 damage.toNat

/-- The DAMAGE field. -/
def damageWord (d : Option (Nat × Nat)) : Word := match d with | some (a, b) => BitVec.ofNat 16 b ++ BitVec.ofNat 16 a | none => 0

/-- The bytes of a row: elements of one or two bytes, less 128 when the output is int8 (R268). -/
def outBytes (size : Nat) (int8 : Bool) (vs : List Nat) : List Byte :=
  vs.flatMap (fun v => leBytes size (if int8 then v + 128 else v))

/-! ## Fragments (R273 to R275) -/

/-- Adds a range to disjoint ranges. -/
def addRange (a b : Nat) (l : List (Nat × Nat)) : List (Nat × Nat) :=
  let hit := l.filter (fun r => r.1 ≤ b && a ≤ r.2)
  let lo := hit.foldl (fun m r => min m r.1) a
  let hi := hit.foldl (fun m r => max m r.2) b
  (l.filter (fun r => r.2 < lo)) ++ [(lo, hi)] ++ (l.filter (fun r => hi < r.1))

/-- How many bytes ranges cover. -/
def rangeLen (l : List (Nat × Nat)) : Nat := (l.map (fun r => r.2 - r.1)).foldl (· + ·) 0

/-- Whether FRAME `a` is newer than `b`, modulo 2^32. -/
def newer (a b : Word) : Bool := decide (0 < (a - b).toNat) && decide ((a - b).toNat < 2 ^ 31)

/-- Whether a place in the DRAM ring is free of the stream's frames. -/
def CStream.fits (c : CStream) (pos len size : Nat) : Bool :=
  decide (pos + len ≤ size) && c.frames.all (fun f => f.gone || decide (f.pos + f.len ≤ pos) || decide (pos + len ≤ f.pos))

/-- The place a new frame takes: at the head, or at the base when the ring's end is short. -/
def CStream.alloc (c : CStream) (len size : Nat) : Option Nat :=
  if c.fits c.head len size then some c.head
  else if c.head + len > size && c.fits 0 len size then some 0
  else none

/-- Closes an open frame: its place in FRAME order is fixed. Frames it leaves behind are kept as past ones. -/
def CStream.close (c : CStream) (frame : Word) : CStream :=
  let n := match c.newest with | some n => if newer frame n then frame else n | none => frame
  { c with
    frames := c.frames.map (fun f => if f.frame == frame then { f with isOpen := false } else f)
    newest := some n
    past := (frame :: c.past.filter (· != frame) ++ c.dropped.filter (fun d => !newer d n)).filter (fun d => !newer d n)
    dropped := c.dropped.filter (fun d => newer d n) }

/-- Frames at the front that have been discarded leave the list. -/
def CStream.trim : Nat → CStream → CStream
  | 0, c => c
  | fuel + 1, c =>
    match c.frames with
    | f :: r => if f.gone && !f.isOpen then CStream.trim fuel { c with frames := r, base := c.base + 1 } else c
    | [] => c

/-- Discards the frames whose ordinals are to be dropped on arrival, one frame for each LATE slot (R283). -/
def CStream.dropDue (c : CStream) : CStream :=
  let fs : List (Nat × CFrame) := (List.range c.frames.length).zip c.frames
  let c := { c with
    frames := fs.map (fun (e : Nat × CFrame) => if c.drops.contains (c.base + e.1) then { e.2 with gone := true } else e.2)
    drops := c.drops.filter (fun d => d ≥ c.base + c.frames.length) }
  c.trim (c.frames.length + 1)

/-- Whether a frame that is not held may no longer be: it is not newer than a frame that has closed, or that a slot has taken
and discarded, since the frames go to slots in FRAME order (R275, R282); or it lies between two open frames. (DEDUCED, log entry 51.) -/
def CStream.stale (c : CStream) (frame : Word) : Bool :=
  (match c.newest with | some n => !newer frame n | none => false) ||
    c.frames.any (fun f => f.gone && !newer frame f.frame) ||
    ((c.frames.filter (·.isOpen)).length ≥ 2 && !(c.frames.filter (·.isOpen)).all (fun f => newer frame f.frame))

/-- Counts a frame that is dropped, once (R293). -/
def Channel.dropFrame (x : Channel) (st : Fin 2) (frame : Word) : Channel :=
  let c := x.intake.comp.get st
  if c.dropped.contains frame || c.past.contains frame then x
  else
    let old := match c.newest with | some n => !newer frame n | none => false
    (x.modComp st (fun c => if old then { c with past := frame :: c.past } else { c with dropped := frame :: c.dropped })).inc
      (IN_S_DROPS st.val) 1

/-- A steered fragment (R273 to R275). `stamp` is the arrival stamp of its Ethernet frame. -/
def Channel.fragment (x : Channel) (st : Fin 2) (p : List Byte) (stamp : Dword) : Channel :=
  let c := x.intake.comp.get st
  let frame : Word := BitVec.ofNat 32 (field p 0 4)
  let off := field p 4 4
  let total := field p 8 4
  let body := p.drop 24
  let size := (x.reg (IN_S_DRING_SIZE st.val)).toNat
  if p.length < 24 || !x.inRuns st 1 then x
  else
    let put : Channel → CFrame → Channel := fun x f =>
      if off + body.length > f.total || total != f.total || f.gone then x
      else
        let f := { f with got := if body.isEmpty then f.got else addRange off (off + body.length) f.got }
        let x := x.dramPost ((x.reg64 (IN_S_DRING_BASE st.val)).toNat + f.pos + off) body
        let x := x.modComp st (fun c => { c with frames := c.frames.map (fun g => if g.frame == frame then f else g) })
        if rangeLen f.got == f.total then
          (x.modComp st (fun c => (c.close frame).dropDue)).inc (IN_S_FRAMES st.val) 1
        else x
    match c.frames.find? (fun f => f.frame == frame) with
    | some f => if f.isOpen then put x f else x
    | none =>
      let opened := c.frames.filter (·.isOpen)
      if total == 0 || total > 2 ^ 24 || c.dropped.contains frame then x
      else if c.stale frame then x.dropFrame st frame
      else
        let x := if opened.length ≥ 2 then
            match opened with
            | f :: _ => (x.modComp st (fun c => (c.close f.frame).dropDue)).inc (IN_S_FRAMES st.val) 1
            | [] => x
          else x
        let c := x.intake.comp.get st
        let len := (total + 63) / 64 * 64
        match c.alloc len size with
        | none => x.dropFrame st frame
        | some pos =>
          let f : CFrame := { frame := frame, total := total, capture := BitVec.ofNat 64 (field p 12 8),
                              fcrc := BitVec.ofNat 32 (field p 20 4), stamp := stamp, pos := pos, len := len, got := [],
                              isOpen := true, gone := false }
          let x := x.modComp st (fun c => { c with
            head := pos + len
            frames := c.frames.filter (fun g => newer frame g.frame) ++ [f] ++ c.frames.filter (fun g => !newer frame g.frame) })
          put x f

end Sys2Proof.Machine
end

