-- ==== Sys2Proof/Machine/Intake.lean ====
section
/-!
DEFINITION. The intake's events (R264 to R293): the CSI-2 receiver, output rows, batches, decodes, assembly, SYNC.BATCH.
(DESIGN CHOICE, log entry 8; DEDUCED, log entry 51.)
-/

namespace Sys2Proof.Machine

open Sys2Proof

/-! ## CSI-2 (R265 to R267) -/

/-- Whether the receiver delivers a raw stream's packets. -/
def Channel.csiRuns (x : Channel) (st : Fin 2) : Bool := x.bit IN_CTRL 0 && x.inRuns st 0

/-- Marks a receive error of a raw frame: it is CORRUPT, and damaged from row `r` on; no row is where `r` lies past the
last (R266). (DEDUCED, log entry 51.) -/
def Channel.rawError (x : Channel) (st : Fin 2) (r : Nat) : Channel :=
  x.modRaw st (fun f => { f with
    flags := f.flags ||| 1
    dmg := if r ≥ x.inH st then f.dmg else some (match f.dmg with | some (a, b) => (min a r, b) | none => (r, x.inH st - 1)) })

/-- Bytes of a line whose pixels are open: what the demosaic of its neighbours reads of a row that R266 fills. -/
def State.openLine (s : State) (c : ChId) (st : Fin 2) : List Byte :=
  let x := s.chan c
  (List.range (lineBytes (x.inDt st) (x.inW st))).map (fun k => Config.freeByte (s.free + k))

/-- Ends a frame: missing rows at the bottom repeat the last row received (R266). (DEDUCED, log entry 51.) -/
def State.rawEnd (s : State) (c : ChId) (st : Fin 2) : State :=
  let x := s.chan c
  let f := x.intake.raw.get st
  let h := x.inH st
  let n := f.lines.length
  let x := if n < h then x.rawError st n else x
  let l := s.openLine c st
  (s.setChan c (x.modRaw st (fun f =>
    { f with ended := true, lines := f.lines ++ List.replicate (h - n) (l, true),
             flags := if x.inCfg st 20 20 == 1 && f.emb then f.flags else f.flags ||| 8 }))).drawFree l.length

/-- A packet on a virtual channel that no enabled stream names is discarded and counted (R265). -/
def State.csiDiscard (s : State) (c : ChId) : State :=
  s.modChan c (fun x => if x.bit IN_CTRL 0 then x.inc IN_CSI_DISC 1 else x)

/-- A packet's header and, of a long packet, its payload CRC-16 are checked before anything else (R265, R266). `err`: 1 a
header bit corrected, 2 a header that cannot be corrected, 3 a payload CRC-16 failure. The stream's open frame is CORRUPT.
Answers whether the packet is lost. (DEDUCED, log entry 51.) -/
def State.csiCheck (s : State) (c : ChId) (st : Fin 2) (err : BitVec 2) : State × Bool :=
  let x := s.chan c
  let f := x.intake.raw.get st
  let mark : State := if x.csiRuns st && f.active && !f.ended then s.modChan c (fun x => x.rawError st f.lines.length) else s
  if !x.bit IN_CTRL 0 || err == 0 then (s, false)
  else if err == 1 then (s.modChan c (fun x => x.inc IN_CSI_ECC 1), false)
  else if err == 2 then (mark.inErr c 2, true)
  else (mark.inErr c 4, false)

/-- A row of a level goes to its ring; answers whether the ring had the space. -/
def Channel.levelOut (x : Channel) (st : Fin 2) (l : Nat) (bs : List Byte) : Channel × Bool :=
  let r := x.inRing st l
  let d := x.ring r
  if d.free < bs.length then (x, false) else ((x.ringWrite d d.head bs).advHead r bs.length, true)

/-- The rows that the new state of the levels lets form: level by level, a row once the third row past its double exists,
or the level below is whole (R290). -/
def levelRows (n w h : Nat) : Nat → Nat → List (List (List Nat)) → List (List (List Nat))
  | 0, _, outs => outs
  | k + 1, l, outs =>
    let below := outs.getD l []
    let have_ := outs.getD (l + 1) []
    let hb := levelDim h l
    let up := (List.range (levelDim h (l + 1))).filter (fun r => have_.length ≤ r && (2 * r + 2 < below.length || below.length == hb))
    let rows := have_ ++ up.map (fun r => pyrRow n (levelDim w l) hb below r)
    levelRows n w h k (l + 1) (outs.set (l + 1) rows)

/-- Writes the rows that are new at each level. -/
def Channel.putLevels (x : Channel) (st : Fin 2) (size : Nat) (int8 : Bool) (old new : List (List (List Nat))) :
    Nat → Nat → Channel × Bool
  | 0, _ => (x, true)
  | k + 1, l =>
    let rows := (new.getD l []).drop (old.getD l []).length
    let q := rows.foldl (fun (q : Channel × Bool) vs =>
      if !q.2 then q
      else
        let bs := outBytes size int8 vs
        let p := q.1.levelOut st l bs
        if p.2 then (p.1.modRaw st (fun f => { f with bytes := f.bytes.set l (f.bytes.getD l [] ++ bs) }), true) else p) (x, true)
    if q.2 then Channel.putLevels q.1 st size int8 old new k (l + 1) else q

/-- The guard record of a raw frame goes to the guard ring, and the frame is done (R291). (DEDUCED, log entry 51.) -/
def State.rawDone (s : State) (c : ChId) (st : Fin 2) : State :=
  let x := s.chan c
  let f := x.intake.raw.get st
  let g := x.inGuard st
  let r := guardRcd 0 0xFF st.val c.val f.flags f.cam (crc32 f.bytes.flatten) f.stamp f.cam (damageWord f.dmg)
  let room := decide (32 ≤ (x.ring g).free)
  let x := if room then (x.ringWrite (x.ring g) (x.ring g).head r).advHead g 32 else x
  let x := (x.modRaw st (fun f => { f with active := false, lines := [], outs := [], bytes := [] })).inc (IN_S_FRAMES st.val) 1
  let x := if f.flags.getLsbD 0 then x.inc (IN_S_CORRUPT st.val) 1 else x
  let s := s.setChan c x
  if room then s else s.inErr c 8

/-- The camera path writes the next output row of a frame, with the pyramid rows it completes (R269, R270, R290); a row
whose ring lacks the space ends the frame's rows (R271); after the last row comes the guard record. -/
def State.rowOut (s : State) (c : ChId) (st : Fin 2) : State :=
  let x := s.chan c
  let f := x.intake.raw.get st
  let h := x.inH st
  let w := x.inW st
  let n := (f.outs.getD 0 []).length
  let e := x.inElem st
  let lv := x.inLevels st
  if !f.active || !x.inRuns st 0 then s
  else if f.overrun then (if f.ended then s.rawDone c st else s)
  else if n ≥ h then s.rawDone c st
  else if !(f.ended || (n + 1 < h && (if x.inCfg st 14 14 == 1 then decide (n + 1 < f.lines.length) else decide (n < f.lines.length)))) then s
  else
    let row := x.rawRow st f.lines (f.outs.getD 0 []).getLast? n
    let outs := if f.outs.isEmpty then List.replicate lv [] else f.outs
    let new := levelRows e.1 w h (lv - 1) 0 (outs.set 0 (outs.getD 0 [] ++ [row]))
    let x := x.modRaw st (fun f => { f with bytes := if f.bytes.isEmpty then List.replicate lv [] else f.bytes })
    let q := x.putLevels st e.2 (x.inCfg st 15 15 == 1 && x.inCfg st 14 14 == 1) outs new lv 0
    if q.2 then
      let s := s.setChan c (q.1.modRaw st (fun f => { f with outs := new }))
      if n + 1 = h then s.rawDone c st else s
    else
      let x := (q.1.rawError st n).modRaw st (fun f => { f with overrun := true, flags := f.flags ||| 0x40 })
      let s := (s.setChan c x).inErr c 8
      if f.ended then s.rawDone c st else s

/-- Writes out what is left of an ended frame. -/
def flushRows : Nat → State → ChId → Fin 2 → State
  | 0, s, _, _ => s
  | fuel + 1, s, c, st => if (((s.chan c).intake.raw.get st).active) then flushRows fuel (s.rowOut c st) c st else s

/-- A Frame Start completes and is stamped (R267); a previous frame without a Frame End ends first, in error (R266). -/
def execCsiFrameStart (ch : ChId) (st : Fin 2) (err : BitVec 2) (s : State) : Out :=
  .next (if s.parked ch then s else
    let q := s.csiCheck ch st err
    let s := q.1
    if q.2 then s
    else if !(s.chan ch).csiRuns st then s.csiDiscard ch
    else
      let f := (s.chan ch).intake.raw.get st
      let s := if f.active && !f.ended then (s.modChan ch (fun x => x.rawError st f.lines.length)).rawEnd ch st else s
      let s := if f.active then flushRows ((s.chan ch).inH st + 2) s ch st else s
      s.modChan ch (fun x =>
        let num := (x.intake.raw.get st).num
        x.modRaw st (fun _ => { active := true, stamp := s.now, cam := num, num := num + 1 })))

/-- An image line (R266, R267). `err`: 1 a header bit corrected, 2 a header that cannot be corrected, 3 a payload CRC-16
failure. -/
def execCsiImageLine (ch : ChId) (st : Fin 2) (data : List Byte) (err : BitVec 2) (s : State) : Out :=
  .next (if s.parked ch then s else
    let q := s.csiCheck ch st err
    let s := q.1
    let x := s.chan ch
    let f := x.intake.raw.get st
    if q.2 then s
    else if !x.csiRuns st then s.csiDiscard ch
    else if !(f.active && !f.ended) then s
    else
      let n := f.lines.length
      let bytes := lineBytes (x.inDt st) (x.inW st)
      let x := x.modRaw st (fun f => { f with crc := crcRun data f.crc })
      let bad := err == 3
      let x := if data.length < bytes then x.rawError st n
               else if n ≥ x.inH st || data.length > bytes then x.rawError st (n + 1) else x
      let line := if bad then s.openLine ch st else data
      let x := if n ≥ x.inH st then x else x.modRaw st (fun f => { f with lines := f.lines ++ [(line, bad)] })
      let s := s.setChan ch x
      if bad then s.drawFree bytes else s)

/-- A Frame End closes the frame (R266). -/
def execCsiFrameEnd (ch : ChId) (st : Fin 2) (err : BitVec 2) (s : State) : Out :=
  .next (if s.parked ch then s else
    let q := s.csiCheck ch st err
    let s := q.1
    let x := s.chan ch
    let f := x.intake.raw.get st
    if q.2 then s
    else if !x.csiRuns st then s.csiDiscard ch
    else if f.active && !f.ended then s.rawEnd ch st else s)

/-- The embedded line (R267): the camera's counter, and as a footer the CRC over the image lines. A line that fails its own
CRC-16 is read as it came. (DEDUCED, log entry 51.) -/
def execCsiEmbeddedLine (ch : ChId) (st : Fin 2) (data : List Byte) (err : BitVec 2) (s : State) : Out :=
  .next (if s.parked ch then s else
    let q := s.csiCheck ch st err
    let s := q.1
    let x := s.chan ch
    let f := x.intake.raw.get st
    if q.2 then s
    else if !x.csiRuns st then s.csiDiscard ch
    else if !f.active || f.ended || x.inCfg st 20 20 == 0 then s
    else
      let e := x.reg (IN_S_EMB st.val)
      let cam : Word := BitVec.ofNat 32 (field data (getField e 15 0) 4)
      let x := x.modRaw st (fun f => { f with cam := cam })
      if x.inCfg st 21 21 == 0 then s.setChan ch x
      else
        let bad := BitVec.ofNat 32 (field data (getField e 31 16) 4) != f.crc ^^^ 0xFFFFFFFF
        s.setChan ch (x.modRaw st (fun f => { f with emb := true, flags := if bad then f.flags ||| 5 else f.flags })))

/-- A packet of an unsupported type, or on a virtual channel no enabled stream names (R265): its header and payload are
checked like any other's. -/
def execCsiDiscardedPacket (ch : ChId) (err : BitVec 2) (s : State) : Out :=
  .next (if s.parked ch || !(s.chan ch).bit IN_CTRL 0 then s
    else if err == 2 then s.inErr ch 2
    else if err == 3 then (s.inErr ch 4).csiDiscard ch
    else (if err == 1 then s.modChan ch (fun x => x.inc IN_CSI_ECC 1) else s).csiDiscard ch)

/-- The receiver gains or loses the high-speed lanes (R293). -/
def execCsiLaneSync (ch : ChId) (sync : Bool) (s : State) : Out :=
  .next (if s.parked ch then s else s.modChan ch (fun x => x.setReg IN_STAT (setBit (x.reg IN_STAT) 0 (sync && x.bit IN_CTRL 0))))

/-- An output row is written (R270). -/
def execIntakeRowOutput (ch : ChId) (st : Fin 2) (s : State) : Out := .next (if s.parked ch then s else s.rowOut ch st)

/-! ## Enabling a stream (R264, R270, R293) -/

/-- Whether a stream's configuration keeps the rules of the chapter. -/
def Channel.inConfigOk (x : Channel) (st : Fin 2) : Bool :=
  let w := x.inW st
  let h := x.inH st
  let lv := x.inLevels st
  let size := 1 ≤ w && w ≤ 4096 && 1 ≤ h && h ≤ 8192 && lv ≤ 6
  if x.inCfg st 1 1 == 0 then
    let e := x.inElem st
    let rings := (List.range lv).map (fun l => x.inRing st l) ++ [x.inGuard st]
    size && [0x2A, 0x2B, 0x2C, 0x2E, 0x1E, 0x24].contains (x.inDt st) &&
      (List.range lv).all (fun l => levelDim w l * e.1 * e.2 % 128 == 0) &&
      rings.all (fun r => (x.ring r).valid && (x.ring r).prod.isNone) && rings.eraseDups.length == rings.length
  else
    let ow := getField (x.reg (IN_S_OSIZE st.val)) 15 0
    let oh := getField (x.reg (IN_S_OSIZE st.val)) 31 16
    let lo := getField (x.reg (IN_S_SMIN st.val)) 19 0
    let hi := getField (x.reg (IN_S_SMAX st.val)) 19 0
    let aug := x.reg (IN_S_AUG st.val)
    let con := x.reg (IN_S_CONTR st.val)
    size && h ≤ 4096 && 1 ≤ ow && ow ≤ w && 1 ≤ oh && oh ≤ h &&
      (!aug.getLsbD 3 || decide (toSigned 8 (getField aug 23 16) ≤ toSigned 8 (getField aug 31 24))) &&
      (!aug.getLsbD 4 || decide (getField con 15 0 ≤ getField con 31 16)) && 16384 ≤ lo && lo ≤ hi && hi ≤ 524288 &&
      (x.reg64 (IN_S_FBUF0 st.val)).toNat % 64 == 0 && (x.reg64 (IN_S_FBUF1 st.val)).toNat % 64 == 0 &&
      (x.reg64 (IN_S_DRING_BASE st.val)).toNat % 64 == 0 && (x.reg (IN_S_DRING_SIZE st.val)).toNat % 64 == 0 &&
      x.dramOk (x.reg64 (IN_S_FBUF0 st.val)).toNat (3 * w * h) && x.dramOk (x.reg64 (IN_S_FBUF1 st.val)).toNat (3 * w * h) &&
      x.dramOk (x.reg64 (IN_S_DRING_BASE st.val)).toNat (x.reg (IN_S_DRING_SIZE st.val)).toNat

/-- Binds, or unbinds, the rings a raw stream writes. -/
def Channel.inBind (x : Channel) (st : Fin 2) (bind : Bool) : Channel :=
  if x.inCfg st 1 1 != 0 then x
  else ((List.range (x.inLevels st)).map (fun l => x.inRing st l) ++ [x.inGuard st]).foldl
    (fun (y : Channel) r => if bind then y.bindProd r .intake else y.unbindProd r) x

/-- A write of IN_Sn_CFG.EN: a stream whose configuration breaks a rule does not enable and sets CFG_ERR. -/
def State.inEn (s : State) (c : ChId) (st : Fin 2) (en : Bool) : State :=
  let x := s.chan c
  let was := x.inCfg st 0 0 == 1
  let put : Channel → Channel := fun y => y.setReg (IN_S_CFG st.val) (setBit (y.reg (IN_S_CFG st.val)) 0 en)
  if en == was || !s.live c then s
  else if !en then s.setChan c (((put x).inBind st false).modRaw st (fun f => { num := f.num }))
  else if x.inConfigOk st then s.setChan c ((put x).inBind st true)
  else s.inErr c 0x20

/-- IN_Sn_CFG.EN written. -/
def execInStreamEnWrite (ch : ChId) (st : Fin 2) (en : Bool) (s : State) : Out := .next (s.inEn ch st en)

/-! ## Slots (R282, R283) -/

/-- Changes an outstanding batch. -/
def Channel.modBatch (x : Channel) (bid : Word) (f : Batch → Batch) : Channel :=
  { x with intake := { x.intake with batches := x.intake.batches.map (fun b => if b.bid == bid then f b else b) } }

/-- Slot `k` of an outstanding batch. -/
def Channel.bslot (x : Channel) (bid : Word) (k : Nat) : Option BSlot :=
  (x.intake.batches.find? (fun b => b.bid == bid)).bind (fun b => b.slots[k]?)

/-- The frame a slot took, once it has arrived. -/
def Channel.slotFrame (x : Channel) (t : BSlot) : Option CFrame :=
  let c := x.intake.comp.get t.stream
  if t.ord < c.base then none else c.frames[t.ord - c.base]?

/-- A slot resolves: it joins the resolution order, and its frame's bytes are released. -/
def Channel.resolve (x : Channel) (bid : Word) (k : Nat) (t : BSlot) (r : SlotRes) : Channel :=
  let x := x.modBatch bid (fun b => { b with slots := b.slots.set k { t with res := some r } })
  let x := { x with intake := { x.intake with resolved := x.intake.resolved ++ [(bid, k)] } }
  let x := x.modComp t.stream (fun c => { c with drops := c.drops ++ [t.ord] }.dropDue)
  let x := if r.flags.getLsbD 0 then x.inc (IN_S_CORRUPT t.stream.val) 1 else x
  if r.flags.getLsbD 1 then x.inc (IN_S_LATE t.stream.val) 1 else x

/-- The stream's reference frame, while its size is the stream's (R277). (DEDUCED, log entry 51.) -/
def Channel.streamRef (x : Channel) (st : Fin 2) : Option (Nat × Word) :=
  let c := x.intake.comp.get st
  if c.refSize == x.reg (IN_S_SIZE st.val) then c.ref else none

/-- The decoder stops: the fc it was busy are kept for IN_DEC_OCC. -/
def Channel.decodeEnds (x : Channel) (fc : Nat) : Channel :=
  match x.intake.decode with
  | none => x
  | some d => { x with intake := { x.intake with
      decode := none
      busy := (x.intake.busy ++ [(d.2.2, fc)]).filter (fun b => fc ≤ b.2 + 2 ^ 20) } }

/-- A slot resolves LATE: the whole reference frame, or mid-grey without one; the counter and the capture time of a frame
that has not arrived are open (R283, R291). -/
def State.late (s : State) (c : ChId) (bid : Word) (k : Nat) : State :=
  let x := s.chan c
  match x.bslot bid k with
  | none => s
  | some t =>
    let f := x.slotFrame t
    let ref := x.streamRef t.stream
    let cam := match f with | some f => f.frame | none => Config.freeWord s.free
    let cap : Dword := match f with
      | some f => if f.capture == 0 then f.stamp else f.capture
      | none => Config.freeWord (s.free + 1) ++ Config.freeWord (s.free + 2)
    let r : SlotRes :=
      { flags := 2 ||| (if ref.isNone then 0x10 else 0), buf := ref.map (·.1), cam := cam, capture := cap,
        src := match ref with | some q => q.2 | none => 0xFFFFFFFF, damage := 0 }
    let x := if x.intake.decode.any (fun d => d.1 == bid && d.2.1 == k) then x.decodeEnds s.fc else x
    (s.setChan c (x.resolve bid k t r)).drawFree 3

/-- Whether an assembly still has to read a frame buffer of a stream. -/
def Channel.bufRead (x : Channel) (st : Fin 2) (buf : Nat) : Bool :=
  x.intake.batches.any (fun b => b.slots.any (fun t =>
    t.stream == st && !t.asm && (match t.res with | some r => r.buf == some buf | none => false)))

/-- The working buffer of a stream: the one that is not the reference. -/
def Channel.workBuf (x : Channel) (st : Fin 2) : Nat :=
  match (x.intake.comp.get st).ref with | some (0, _) => 1 | _ => 0

/-- The address of a frame buffer. -/
def Channel.fbuf (x : Channel) (st : Fin 2) (buf : Nat) : Nat :=
  (x.reg64 (if buf == 0 then IN_S_FBUF0 st.val else IN_S_FBUF1 st.val)).toNat

/-- The unresolved slots in the order of submission. -/
def Channel.unresolved (x : Channel) : List (Word × Nat × BSlot) :=
  x.intake.batches.flatMap (fun b => ((List.range b.slots.length).zip b.slots).filterMap (fun e =>
    if e.2.res.isNone then some (b.bid, e.1, e.2) else none))

/-- Every slot whose batch's DEADLINE has passed and that has not resolved resolves LATE (R283): a decode of it that is
running stops. -/
def State.lateDue (s : State) (c : ChId) : State :=
  (s.chan c).unresolved.foldl (fun (t : State) e =>
    if (t.chan c).intake.batches.any (fun b => b.bid == e.1 && decide (b.deadline ≤ t.now)) then t.late c e.1 e.2.1 else t) s

/-- A decode that has run IN_Sn_DECMAX fc is abandoned, and its slot resolves LATE (R279). -/
def State.decodeOver (s : State) (c : ChId) : State :=
  let x := s.chan c
  match x.intake.decode with
  | none => s
  | some (bid, k, t0) =>
    match x.bslot bid k with
    | none => s
    | some t =>
      let m := (x.reg (IN_S_DECMAX t.stream.val)).toNat
      if m == 0 || s.fc < t0 + m then s else s.late c bid k

/-- The ordinal of the frame a host post names: none for a frame the stream has let go of or dropped (a LATE slot's);
`some none` for one the ring never held. -/
def CStream.postOrd (c : CStream) (v : Word) : Option (Option Nat) :=
  match c.frames.findIdx? (fun f => f.frame == v) with
  | some i => if (c.frames[i]?).any (·.gone) then none else some (some (c.base + i))
  | none => if c.past.contains v || c.dropped.contains v then none else some none

/-- Frames the host has posted resolve the next slots of their stream, good, once a swap of buffers may be made (R278,
R280). A post of a LATE slot's frame, which is discarded, takes no other slot (R283); a post of a later slot's frame waits for
the slots before it. (DEDUCED, log entry 51.) -/
def State.hostPosts : Nat → State → ChId → Fin 2 → State
  | 0, s, _, _ => s
  | fuel + 1, s, c, st =>
    let x := s.chan c
    let cs := x.intake.comp.get st
    match cs.host with
    | [] => s
    | v :: r =>
      match cs.postOrd v, x.unresolved.find? (fun e => e.2.2.stream == st) with
      | none, _ => State.hostPosts fuel (s.setChan c (x.modComp st (fun c => { c with host := r }))) c st
      | _, none => s
      | some o, some (bid, k, t) =>
        let w := x.workBuf st
        if o.any (fun d => t.ord < d) || x.bufRead st (1 - w) || x.bufRead st w then s
        else
          let f := x.slotFrame t
          let cap : Dword := match f with
            | some f => if f.capture == 0 then f.stamp else f.capture
            | none => Config.freeWord s.free ++ Config.freeWord (s.free + 1)
          let x := x.modComp st (fun c => { c with host := r, ref := some (w, v), refSize := x.reg (IN_S_SIZE st.val) })
          State.hostPosts fuel ((s.setChan c (x.resolve bid k t
            { flags := 0x20, buf := some w, cam := v, capture := cap, src := v, damage := 0 })).drawFree 2) c st

/-- The host posts the counter of a frame it has decoded (R280). -/
def State.hostPost (s : State) (c : ChId) (st : Fin 2) (v : Word) : State :=
  if (s.chan c).inRuns st 1 && (s.chan c).inCfg st 19 19 == 1 then
    State.hostPosts ((s.chan c).intake.comp.get st).host.length.succ
      ((s.lateDue c).modChan c (fun x => x.modComp st (fun q => { q with host := q.host ++ [v] }))) c st
  else s

/-- IN_Sn_HOSTPOST written. -/
def execInHostpostWrite (ch : ChId) (st : Fin 2) (v : Word) (s : State) : Out := .next (s.hostPost ch st v)

/-- The bytes of a slot's image with its pyramid: the levels, each from a 128-byte boundary (R290). -/
def slotBytes (w h : Nat) : Nat → Nat
  | 0 => 0
  | n + 1 => (3 * w * h + 127) / 128 * 128 + slotBytes ((w + 1) / 2) ((h + 1) / 2) n

/-- Output width and height of a stream. -/
def Channel.inOut (x : Channel) (st : Fin 2) : Nat × Nat :=
  (getField (x.reg (IN_S_OSIZE st.val)) 15 0, getField (x.reg (IN_S_OSIZE st.val)) 31 16)

/-- Whether a batch descriptor keeps the rules of R281. -/
def Channel.batchOk (x : Channel) (d : List Byte) : Bool :=
  let n := field d 4 1
  let odst := field d 16 4
  let pitch := field d 20 4
  let gdst := field d 24 4
  1 ≤ n && n ≤ 12 && zeroBytes d 5 8 && zeroBytes d 28 32 && odst % 128 == 0 && pitch % 128 == 0 && gdst % 32 == 0 &&
    odst + (n - 1) * pitch < 2 ^ 25 && gdst + 32 * n ≤ 2 ^ 25 &&
    !x.intake.batches.any (fun b => b.bid.toNat == field d 0 4) &&
    (List.range n).all (fun k =>
      let st : Fin 2 := Fin.ofNat 2 (field d (32 + 8 * k) 1)
      let o := x.inOut st
      let need := slotBytes o.1 o.2 (x.inLevels st)
      field d (32 + 8 * k) 1 < 2 && zeroBytes d (33 + 8 * k) (35 + 8 * k) && x.inRuns st 1 && need ≤ pitch &&
        odst + k * pitch + need ≤ 2 ^ 25)

/-- Slots take the frames of their streams in order (R282). -/
def takeSlots (d : List Byte) : Nat → Nat → Channel → List BSlot × Channel
  | 0, _, x => ([], x)
  | n + 1, k, x =>
    let st : Fin 2 := Fin.ofNat 2 (field d (32 + 8 * k) 1)
    let o := (x.intake.comp.get st).next
    let q := takeSlots d n (k + 1) (x.modComp st (fun c => { c with next := c.next + 1 }))
    ({ stream := st, sample := BitVec.ofNat 40 (field d (35 + 8 * k) 5), ord := o } :: q.1, q.2)

/-- The intake takes a batch descriptor (R281). -/
def execBatchSubmit (ch : ChId) (s : State) : Out :=
  .next (
    let x := s.chan ch
    let r : BitVec 6 := (x.reg IN_BRING).extractLsb' 0 6
    let d := x.ring r
    if x.fenced || s.parked ch || !x.bit IN_BRING 6 || d.fill < 128 || x.intake.batches.length ≥ 8 then s
    else
      let q := x.ringRead d d.tail 128
      if q.2.2 then s.setChan ch q.2.1
      else
        let x := q.2.1.advTail r 128
        if !x.batchOk q.1 then ((s.setChan ch x).modChan ch (fun x => x.orReg IN_STAT 0x10)).chError ch 0
        else
          let p := takeSlots q.1 (field q.1 4 1) 0 x
          let b : Batch := { bid := BitVec.ofNat 32 (field q.1 0 4), deadline := BitVec.ofNat 64 (field q.1 8 8),
                             odst := field q.1 16 4, opitch := field q.1 20 4, gdst := field q.1 24 4, slots := p.1 }
          let x := { p.2 with intake := { p.2.intake with batches := p.2.intake.batches ++ [b] } }
          (List.finRange 2).foldl (fun t st => State.hostPosts 12 t ch st) ((s.setChan ch x).lateDue ch))

/-! ## Decoding (R276 to R279) -/

/-- The decoder takes the earliest unresolved slot whose frame is complete or closed, each stream in slot order, while its
working buffer is free (R278, R282). -/
def execJpegDecodeStart (ch : ChId) (s : State) : Out :=
  .next (if s.parked ch then s else
    let s := s.lateDue ch
    let x := s.chan ch
    let us := x.unresolved
    let ok : Word × Nat × BSlot → Bool := fun e =>
      let t := e.2.2
      (match us.find? (fun q => q.2.2.stream == t.stream) with | some q => q.1 == e.1 && q.2.1 == e.2.1 | none => false) &&
      (match x.slotFrame t with | some f => !f.isOpen && !f.gone | none => false) &&
      x.inCfg t.stream 19 19 == 0 && x.inRuns t.stream 1 && !x.bufRead t.stream (x.workBuf t.stream)
    if !x.bit IN_CTRL 3 || x.intake.decode.isSome || x.fenced then s
    else match us.find? ok with
      | none => s
      | some e => s.setChan ch { x with intake := { x.intake with decode := some (e.1, e.2.1, s.fc) } })

/-- The bytes of a compressed frame, those that never arrived left out. -/
def Channel.frameBytes (x : Channel) (free : Nat) (st : Fin 2) (f : CFrame) : List (Option Byte) :=
  let a := (x.reg64 (IN_S_DRING_BASE st.val)).toNat + f.pos
  (List.range f.total).map (fun k => if f.got.any (fun r => r.1 ≤ k && k < r.2) then some (x.dramAt free a k) else none)

/-- A decode finishes (R276 to R278, R283): the working buffer holds the frame, concealed where it is damaged; without
damage it becomes the reference, once no assembly reads the outgoing one. A decode that has run past IN_Sn_DECMAX, or whose
batch's DEADLINE has passed, resolves LATE in its place. -/
def execJpegDecodeComplete (ch : ChId) (s : State) : Out :=
  .next (if s.parked ch || (s.chan ch).fenced || (s.chan ch).dramHeld then s else
    let s := ((s.lateDue ch).decodeOver ch).modChan ch Channel.dramTurn
    let x := s.chan ch
    match x.intake.decode with
    | none => s
    | some (bid, k, _) =>
      match x.bslot bid k with
      | none => s
      | some t =>
        match x.slotFrame t with
        | none => s
        | some f =>
          let st := t.stream
          let w := x.inW st
          let h := x.inH st
          let n := 3 * w * h
          let work := x.workBuf st
          let ref := x.streamRef st
          let refPix := ref.map (fun r => (List.range n).map (x.dramAt (s.free + f.total) (x.fbuf st r.1)))
          let bs := x.frameBytes s.free st f
          let q := jDecode (s.reg (GLB_ID + 4)).toNat w h bs refPix
          let whole := bs.all (·.isSome)
          let crcBad := whole && f.fcrc != 0 && crc32 (bs.filterMap id) != f.fcrc
          let fl : BitVec 16 := (if q.1.isSome || crcBad then 1 else 0) ||| (if crcBad then 4 else 0) ||| (if f.fcrc == 0 then 8 else 0)
          if q.1.isNone && x.bufRead st (1 - work) then s
          else
            let y := (x.dramRead ((x.reg64 (IN_S_DRING_BASE st.val)).toNat + f.pos) f.total).2.1
            let y := match q.1, ref with
              | some _, some r => (y.dramRead (x.fbuf st r.1) n).2.1
              | _, _ => y
            let y := (y.dramWrite (x.fbuf st work) q.2).decodeEnds s.fc
            let y := if q.1.isNone then y.modComp st (fun c => { c with ref := some (work, f.frame), refSize := y.reg (IN_S_SIZE st.val) }) else y
            let dmg : Word := match q.1 with
              | some (a, b) => damageWord (some (a, b.getD (Config.freeNat (s.free + f.total + n))))
              | none => 0
            (s.setChan ch (y.resolve bid k t
              { flags := fl, buf := some work, cam := f.frame, capture := if f.capture == 0 then f.stamp else f.capture,
                src := f.frame, damage := dmg })).drawFree (f.total + n + 1))

/-- A decode that has run DECMAX fc is abandoned, and its slot resolves LATE (R279); a fenced channel's intake stands (R424). -/
def execJpegDecodeAbandon (ch : ChId) (s : State) : Out :=
  .next (if s.parked ch || (s.chan ch).fenced then s else s.decodeOver ch)

/-- At a batch's DEADLINE every slot it has not resolved resolves LATE (R283). -/
def execBatchDeadline (ch : ChId) (s : State) : Out :=
  .next (if s.parked ch || (s.chan ch).fenced then s else s.lateDue ch)

/-! ## Assembly (R284, R290) -/

/-- Rows of a slot's output and of its levels, as bytes, each level from a 128-byte boundary. -/
def levelBytes (int8 : Bool) (lv : List (List (List Nat))) : List (List Byte) :=
  lv.map (fun rows => rows.flatMap (outBytes 1 int8))

/-- Writes the levels behind one another. -/
def Channel.putImage (x : Channel) (a : Nat) : List (List Byte) → Channel
  | [] => x
  | l :: r => Channel.putImage (x.spadWrite a l) (a + (l.length + 127) / 128 * 128) r

/-- The assembler's reads of a window, row by row: columns `x0` to `x0 + cw - 1` of a frame `w` pixels wide (R284). -/
def Channel.readWindow (x : Channel) (a w x0 cw : Nat) (rows : List Nat) : Channel :=
  rows.foldl (fun y r => (y.dramRead (a + 3 * (r * w + x0)) (3 * cw)).2.1) x

/-- The batches at the front whose slots are all in place leave as assembled, in submission order; the last 16 are
remembered with their flagged slots (R284, R285). -/
def batchesDone : Nat → Intake → Intake
  | 0, i => i
  | fuel + 1, i =>
    match i.batches with
    | b :: r =>
      if b.slots.all (·.asm) then
        let n := (b.slots.filter (fun t => match t.res with | some q => q.flags &&& 3 != 0 | none => false)).length
        batchesDone fuel { i with batches := r, past := ((b.bid, n) :: i.past.filter (fun p => p.1 != b.bid)).take 16 }
      else i
    | [] => i

/-- The assembler writes the next resolved slot's image, its pyramid and its guard record. -/
def execSlotAssemblyComplete (ch : ChId) (s : State) : Out :=
  .next (if s.parked ch || (s.chan ch).dramHeld then s else
    let x := (s.chan ch).dramTurn
    match x.intake.resolved with
    | [] => s
    | (bid, k) :: rest =>
      match x.intake.batches.find? (fun b => b.bid == bid) with
      | none => s
      | some b =>
        match b.slots[k]?, x.fenced || !x.bit IN_CTRL 3 with
        | some t, false =>
          match t.res with
          | none => s
          | some r =>
            let st := t.stream
            let o := x.inOut st
            let w := x.inW st
            let g := x.augment st t.sample
            let a := match r.buf with | some q => x.fbuf st q | none => 0
            let x := match r.buf with
              | some _ => x.readWindow a w g.x0 g.cw ((List.range g.ch).map (g.y0 + ·))
              | none => x
            let p : Nat → Nat → Nat → Nat := match r.buf with
              | some _ => fun y c e => (x.dramAt s.free a (3 * (y * w + c) + e)).toNat
              | none => fun _ _ _ => 128
            let rows := (List.range o.2).map (fun oy => (List.range o.1).flatMap (fun ox => g.pixel p o.1 o.2 ox oy))
            let int8 := x.inCfg st 15 15 == 1
            let lv := levelBytes int8 (rows :: pyramid 3 o.1 o.2 rows (x.inLevels st - 1))
            let x := x.putImage (b.odst + k * b.opitch) lv
            let x := x.spadWrite (b.gdst + 32 * k)
              (guardRcd bid.toNat k st.val ch.val r.flags r.cam (crc32 lv.flatten) r.capture r.src r.damage)
            let x := x.modBatch bid (fun b => { b with slots := b.slots.set k { t with asm := true } })
            let x := { x with intake := batchesDone 8 { x.intake with resolved := rest } }
            (List.finRange 2).foldl (fun t st => State.hostPosts 12 t ch st)
              (((s.setChan ch x).drawFree (3 * w * x.inH st)).lateDue ch)
        | _, _ => s)

/-! ## SYNC.BATCH (R285) -/

/-- The identifiers of the descriptors that wait in the submission ring. -/
def Channel.waitingBids (x : Channel) : List Nat :=
  let d := x.ring ((x.reg IN_BRING).extractLsb' 0 6)
  if !x.bit IN_BRING 6 || !d.valid then []
  else (List.range (d.fill / 128)).map (fun k => rdLe x.spad.mem (d.addr (d.tail + BitVec.ofNat 32 (128 * k))) 4)

/-- SYNC.BATCH: stalls until batch s[SA] is assembled, then adds its flagged slots to t[TK]; a batch the intake does not
know raises DEADLOCK. (DEDUCED, log entry 51.) -/
def execSyncBatch (ch : ChId) (f : FmtY) (s : State) : Out :=
  .next (issueY s ch 0xA4 f (f.cnt == 0 && f.imm == 0) (fun s =>
    let x := s.chan ch
    let b := (x.seq.rs f.sa).toNat
    if x.intake.batches.any (fun q => q.bid.toNat == b) || x.waitingBids.contains b then .stall .batch
    else match x.intake.past.find? (fun p => p.1.toNat == b) with
    | some p =>
      if f.tk ≠ 15 ∧ (x.seq.rt f.tk).toNat + p.2 > 65535 then .exc .token
      else .done (s.modChan ch (fun x => x.modSeq (fun q => q.wt f.tk (q.rt f.tk + BitVec.ofNat 16 p.2))))
    | none => .exc .deadlock))

end Sys2Proof.Machine
end

