-- ==== Sys2Proof/Machine/Scalar.lean ====
section
/-!
DEFINITION. The SCALAR instructions (R47, R48), NOP and the undefined opcodes.
-/

namespace Sys2Proof.Machine

open Sys2Proof

/-- Issues a format S instruction: skipped as a whole when bit 0 of its guard is 0 (R32). -/
def issueS (s : State) (c : ChId) (opc : Byte) (f : FmtS) (legal : Bool) (body : State → Issue) : State :=
  s.issue c (wordS opc f) legal (never f.pg f.pn) (!(s.chan c).seq.guard f.pg f.pn) body

/-- A change of the sequencer alone. -/
def seqDone (s : State) (c : ChId) (f : Seq → Seq) : Issue := .done (s.modChan c (fun x => x.modSeq f))

/-- The shape of the two-operand arithmetic: s[SD] = op s[SA] b (R48). -/
def arith (s : State) (c : ChId) (opc : Byte) (f : FmtS) (okMod : Bool) (op : Dword → Dword → Dword) : State :=
  issueS s c opc f (okB f && okMod) (fun s => seqDone s c (fun q => q.ws f.sd (op (q.rs f.sa) (q.opB f))))

/-- NOP (R47): nothing beyond its issue edge. -/
def execNop (ch : ChId) (f : FmtS) (s : State) : Out :=
  .next (issueS s ch 0x01 f (f.sd == 0 && f.sa == 0 && okNoB f && f.mod == 0) (fun s => .done s))

/-- The opcodes of R47. -/
def opcodeDefined (o : Byte) : Bool :=
  let n := o.toNat
  (1 ≤ n && n ≤ 0x15) || (0x20 ≤ n && n ≤ 0x26) || (0x30 ≤ n && n ≤ 0x46) || (0x50 ≤ n && n ≤ 0x59) ||
  (0x60 ≤ n && n ≤ 0x64) || (0x70 ≤ n && n ≤ 0x76) || (0x80 ≤ n && n ≤ 0x83) || (0x88 ≤ n && n ≤ 0x93) ||
  (0xA0 ≤ n && n ≤ 0xA4) || (0xB0 ≤ n && n ≤ 0xB2) || (0xC0 ≤ n && n ≤ 0xC1) || (0xD0 ≤ n && n ≤ 0xD7)

/-- Whether a word is no instruction: its opcode is not in the list, or it is an ATTN.SEQ with the operation the list does not
give (R47, R222). -/
def undefinedWord (w : Dword) : Bool := !opcodeDefined (opcOf w) || (opcOf w == 0x75 && getField w 1 0 == 3)

/-- An undefined opcode raises ILLEGAL, whatever its guard (R47, R68), and so does the undefined operation of ATTN.SEQ
(R222). A word that is an instruction is not this command, and nothing happens. -/
def execUndefinedOpcode (ch : ChId) (w : Dword) (s : State) : Out :=
  .next (if !undefinedWord w then s else s.issue ch w false false false (fun s => .done s))

/-- SCALAR.ADD (R48): 64-bit wrap. -/
def execScalarAdd (ch : ChId) (f : FmtS) (s : State) : Out := .next (arith s ch 0x02 f (f.mod == 0) (· + ·))

/-- SCALAR.SUB (R48). -/
def execScalarSub (ch : ChId) (f : FmtS) (s : State) : Out := .next (arith s ch 0x03 f (f.mod == 0) (· - ·))

/-- SCALAR.MUL (R48): the low 64 bits. -/
def execScalarMul (ch : ChId) (f : FmtS) (s : State) : Out := .next (arith s ch 0x04 f (f.mod == 0) (· * ·))

/-- The high 64 bits of a product, signed with MOD 0 and unsigned with MOD 1. -/
def mulHigh (mod : BitVec 4) (x y : Dword) : Dword :=
  if mod == 0 then BitVec.ofInt 64 ((x.toInt * y.toInt) / (2 ^ 64 : Int)) else BitVec.ofNat 64 (x.toNat * y.toNat / 2 ^ 64)

/-- SCALAR.MULH (R47). -/
def execScalarMulh (ch : ChId) (f : FmtS) (s : State) : Out :=
  .next (arith s ch 0x05 f (f.mod.toNat < 2) (mulHigh f.mod))

/-- SCALAR.AND (R47). -/
def execScalarAnd (ch : ChId) (f : FmtS) (s : State) : Out := .next (arith s ch 0x06 f (f.mod == 0) (· &&& ·))

/-- SCALAR.OR (R47). -/
def execScalarOr (ch : ChId) (f : FmtS) (s : State) : Out := .next (arith s ch 0x07 f (f.mod == 0) (· ||| ·))

/-- SCALAR.XOR (R47). -/
def execScalarXor (ch : ChId) (f : FmtS) (s : State) : Out := .next (arith s ch 0x08 f (f.mod == 0) (· ^^^ ·))

/-- The shift amount: the low 6 bits (R48). -/
def amount6 (y : Dword) : Nat := y.toNat % 64

/-- SCALAR.SHL (R48). -/
def execScalarShl (ch : ChId) (f : FmtS) (s : State) : Out :=
  .next (arith s ch 0x09 f (f.mod == 0) (fun x y => x <<< amount6 y))

/-- SCALAR.SHR (R48). -/
def execScalarShr (ch : ChId) (f : FmtS) (s : State) : Out :=
  .next (arith s ch 0x0A f (f.mod == 0) (fun x y => x >>> amount6 y))

/-- SCALAR.SRA (R48). -/
def execScalarSra (ch : ChId) (f : FmtS) (s : State) : Out :=
  .next (arith s ch 0x0B f (f.mod == 0) (fun x y => x.sshiftRight (amount6 y)))

/-- `x < y`, signed with MOD 0 and unsigned with MOD 1 (R47). -/
def lessMod (mod : BitVec 4) (x y : Dword) : Bool := if mod == 0 then x.slt y else x.ult y

/-- SCALAR.MIN (R47). -/
def execScalarMin (ch : ChId) (f : FmtS) (s : State) : Out :=
  .next (arith s ch 0x0C f (f.mod.toNat < 2) (fun x y => if lessMod f.mod y x then y else x))

/-- SCALAR.MAX (R47). -/
def execScalarMax (ch : ChId) (f : FmtS) (s : State) : Out :=
  .next (arith s ch 0x0D f (f.mod.toNat < 2) (fun x y => if lessMod f.mod x y then y else x))

/-- SCALAR.CMP (R32, R47): all ones or zero to a predicate register. -/
def execScalarCmp (ch : ChId) (f : FmtS) (s : State) : Out :=
  .next (issueS s ch 0x0E f (okB f && okP f.sd && f.mod.toNat < 6) (fun s => seqDone s ch (fun q =>
    q.wp (pOf f.sd) (allOrNone (condHolds f.mod.toNat (q.rs f.sa) (q.opB f))))))

/-- SCALAR.PLOG (R47). -/
def execScalarPlog (ch : ChId) (f : FmtS) (s : State) : Out :=
  .next (issueS s ch 0x0F f (okP f.sd && okP f.sa && okP f.sb && !f.i && f.imm == 0 && f.mod.toNat < 4)
    (fun s => seqDone s ch (fun q =>
      q.wp (pOf f.sd) (logicOp f.mod.toNat (q.rp (pOf f.sa)) (q.rp (pOf f.sb))))))

/-- SCALAR.LUI (R47): the upper half is IMM, the lower half is unchanged. -/
def execScalarLui (ch : ChId) (f : FmtS) (s : State) : Out :=
  .next (issueS s ch 0x10 f (f.sa == 0 && f.sb == 0 && !f.i && f.mod == 0) (fun s => seqDone s ch (fun q =>
    q.ws f.sd (f.imm ++ (q.rs f.sd).extractLsb' 0 32))))

/-- The exception causes of an 8-byte scratchpad access at a[SA] + IMM (R31, R47). -/
def scalarMemCauses (q : Seq) (f : FmtS) : List (Bool × Exc) :=
  let a := q.ra (aOf f.sa)
  [(spadRangeBad a f.imm.toInt 8, .spadRange), (effAddr a f.imm.toInt % 8 != 0, .align)]

/-- SCALAR.LD (R47, R88): s[SD] is the 8 bytes at a[SA] + IMM. -/
def execScalarLd (ch : ChId) (f : FmtS) (s : State) : Out :=
  .next (issueS s ch 0x11 f (okA f.sa && f.sb == 0 && !f.i && f.mod == 0) (fun s =>
    let x := s.chan ch
    guarded (scalarMemCauses x.seq f) (
      let r := x.spadRead (effAddr (x.seq.ra (aOf f.sa)) f.imm.toInt).toNat 8
      .done (s.setChan ch (r.2.1.modSeq (fun q => q.ws f.sd (BitVec.ofNat 64 (leNat r.1))))))))

/-- SCALAR.ST (R47, R74): a partial write, which waits while the bank's merge buffer is taken. -/
def execScalarSt (ch : ChId) (f : FmtS) (s : State) : Out :=
  .next (issueS s ch 0x12 f (f.sd == 0 && okA f.sa && !f.i && f.mod == 0) (fun s =>
    let x := s.chan ch
    guarded (scalarMemCauses x.seq f) (
      let a := (effAddr (x.seq.ra (aOf f.sa)) f.imm.toInt).toNat
      let bs := (leBytes 8 (x.seq.rs f.sb).toNat).map some
      if x.mergeBusy a bs then .stall .merge else .done (s.setChan ch (x.spadWriteHold a bs).1))))

/-- SCALAR.ADDA (R47): a[SD] = a[SA] + b. -/
def execScalarAdda (ch : ChId) (f : FmtS) (s : State) : Out :=
  .next (issueS s ch 0x13 f (okB f && okA f.sd && okA f.sa && f.mod == 0) (fun s => seqDone s ch (fun q =>
    q.wa (aOf f.sd) (q.ra (aOf f.sa) + q.opB f))))

/-- SCALAR.MOVA (R47): MOD 0 moves s[SA] to a[SD], MOD 1 moves a[SA] to s[SD]. -/
def execScalarMova (ch : ChId) (f : FmtS) (s : State) : Out :=
  .next (issueS s ch 0x14 f (okNoB f && f.mod.toNat < 2 && (if f.mod == 0 then okA f.sd else okA f.sa))
    (fun s => seqDone s ch (fun q =>
      if f.mod == 0 then q.wa (aOf f.sd) (q.rs f.sa) else q.ws f.sd (q.ra (aOf f.sa)))))

/-- Leading zeros of the low `n` bits. -/
def leadZeros (v : Nat) : Nat → Nat
  | 0 => 0
  | n + 1 => if bitOf v n then 0 else 1 + leadZeros v n

/-- Trailing zeros, counting from bit `k`, of `n` bits. -/
def trailZeros (v k : Nat) : Nat → Nat
  | 0 => 0
  | n + 1 => if bitOf v k then 0 else 1 + trailZeros v (k + 1) n

/-- Set bits among the low `n`. -/
def popCount (v : Nat) : Nat → Nat
  | 0 => 0
  | n + 1 => b2n (bitOf v n) + popCount v n

/-- The counts of SCALAR.BIT (R497): for 0 both zero counts are 64. -/
def bitCount (mod : BitVec 4) (x : Dword) : Nat :=
  if mod == 0 then leadZeros x.toNat 64 else if mod == 1 then trailZeros x.toNat 0 64 else popCount x.toNat 64

/-- SCALAR.BIT (R497). -/
def execScalarBit (ch : ChId) (f : FmtS) (s : State) : Out :=
  .next (issueS s ch 0x15 f (okNoB f && f.mod.toNat < 3) (fun s => seqDone s ch (fun q =>
    q.ws f.sd (BitVec.ofNat 64 (bitCount f.mod (q.rs f.sa))))))

end Sys2Proof.Machine
end

