-- ==== Sys2Proof/Machine/ServoOps.lean ====
section
/-!
DEFINITION. The servo engine's parts: loop-table banks and the checks of an arm (R301, R302), costs (R297), set-point
lists (R298 to R300), the evaluation of an axis (R303 to R308), and the frames of the drive link (R318 to R320).
(DEDUCED, log entry 36.)
-/

namespace Sys2Proof.Machine

open Sys2Proof

/-- Axis `a`. -/
def Servo.axis (v : Servo) (a : Fin 16) : Axis := v.axes.get a

/-- Replaces axis `a`. -/
def Servo.setAxis (v : Servo) (a : Fin 16) (x : Axis) : Servo := { v with axes := v.axes.set a.val x a.isLt }

/-- Changes the servo engine. -/
def Channel.modServo (x : Channel) (f : Servo → Servo) : Channel := { x with servo := f x.servo }

/-- Changes one axis. -/
def Channel.modAxis (x : Channel) (a : Fin 16) (f : Axis → Axis) : Channel :=
  x.modServo (fun v => v.setAxis a (f (v.axis a)))

/-- Signals the error vector when SERVO_CTRL.ERR_IRQ is 1. -/
def State.servoIrq (s : State) (c : ChId) : State :=
  if (s.chan c).bit SERVO_CTRL 1 then s.signal (2 * c.val + 1) else s

/-! ## Banks (R301) -/

/-- The active bank. -/
def Servo.bank (v : Servo) : Mem := v.banks.get v.active

/-- The other bank. -/
def Servo.otherBank (v : Servo) : Mem := v.banks.get (if v.active == 0 then 1 else 0)

def bPeriod (m : Mem) : Nat := rdLe m 0 2
def bTeval (m : Mem) : Nat := rdLe m 4 4 % 2 ^ 20
def bTout (m : Mem) : Nat := rdLe m 8 4 % 2 ^ 20
def bNax (m : Mem) : Nat := rdLe m 12 1
def bWaits (m : Mem) : Bool := bitOf (rdLe m 13 1) 0
def bStale (m : Mem) : Nat := rdLe m 14 1

/-- The bank offset of axis record `a`. -/
def axAt (a : Nat) : Nat := 64 + 256 * a

/-- The bank offset of loop `i` of axis `a`. -/
def loopAt (a i : Nat) : Nat := axAt a + 64 + 32 * i

/-- Whether axis `a` is on the link and enabled. -/
def axEn (m : Mem) (a : Nat) : Bool := decide (a < bNax m) && bitOf (rdLe m (axAt a) 1) 0

def axRcen (m : Mem) (a : Nat) : Bool := bitOf (rdLe m (axAt a) 1) 1
def axRcAngle (m : Mem) (a : Nat) : Bool := bitOf (rdLe m (axAt a) 1) 2
def axRcLoop (m : Mem) (a : Nat) : Nat := rdLe m (axAt a + 1) 1 % 4
def axRclen (m : Mem) (a : Nat) : Nat := rdLe m (axAt a + 2) 2
def loopEn (m : Mem) (a i : Nat) : Bool := bitOf (rdLe m (loopAt a i) 1) 0
def loopPriv (m : Mem) (a i : Nat) : Bool := bitOf (rdLe m (loopAt a i) 1) 1
def loopNosel (m : Mem) (a i : Nat) : Bool := bitOf (rdLe m (loopAt a i) 1) 2
def loopWrap (m : Mem) (a i : Nat) : Bool := bitOf (rdLe m (loopAt a i) 1) 3
def loopRef (m : Mem) (a i : Nat) : Nat := rdLe m (loopAt a i + 1) 1 % 16
def loopFb (m : Mem) (a i : Nat) : Nat := rdLe m (loopAt a i + 2) 1 % 16

/-- A signed 32-bit field of a bank. -/
def bInt (m : Mem) (o : Nat) : Int := toSigned 32 (rdLe m o 4)

/-- The four loop numbers. -/
def loops4 : List Nat := [0, 1, 2, 3]

/-- The sixteen axis numbers. -/
def axes16 : List Nat := List.range 16

/-- Whether an axis's learning table may be written: it is off, as it always acts with RCEN = 0, or on hold (R307). -/
def Servo.tableFree (v : Servo) (a : Fin 16) : Bool := !axRcen v.bank a.val || decide ((v.axis a).rc < 2)

/-- Whether the repetitive controller of axis `a` runs or holds: never with RCEN = 0 (R307). -/
def Servo.rcOn (v : Servo) (m : Mem) (a : Fin 16) : Bool :=
  axRcen m a.val && ((v.axis a).rc == 1 || (v.axis a).rc == 2)

/-- c_a (R297). -/
def Servo.axisCost (v : Servo) (m : Mem) (a : Fin 16) : Nat :=
  6 + 5 * (loops4.filter (loopEn m a.val)).length + (if v.rcOn m a then 4 else 0)

/-- The enabled axes of a bank, in index order. -/
def liveAxes (m : Mem) : List (Fin 16) := (List.finRange 16).filter (fun a => axEn m a.val)

/-- C of a bank (R297). -/
def Servo.cost (v : Servo) (m : Mem) : Nat := (liveAxes m).foldl (fun c a => c + v.axisCost m a) 0

/-- The reserved bytes and bits of a bank (R301) that are not 0. -/
def bankReserved (m : Mem) : Bool :=
  let z := fun (o n : Nat) => rdLe m o n != 0
  z 2 2 || decide (rdLe m 4 4 ≥ 2 ^ 20) || decide (rdLe m 8 4 ≥ 2 ^ 20) || decide (rdLe m 13 1 ≥ 2) || z 15 49 ||
  axes16.any (fun a =>
    decide (rdLe m (axAt a) 1 ≥ 8) || decide (rdLe m (axAt a + 1) 1 ≥ 4) || z (axAt a + 26) 2 || z (axAt a + 32) 32 ||
    z (axAt a + 192) 64 ||
    loops4.any (fun i => decide (rdLe m (loopAt a i) 1 ≥ 16) || decide (rdLe m (loopAt a i + 1) 1 ≥ 16) ||
      decide (rdLe m (loopAt a i + 2) 1 ≥ 16) || z (loopAt a i + 3) 1 || z (loopAt a i + 28) 4))

/-- Whether `n` is a power of two. -/
def pow2 (n : Nat) : Bool := n != 0 && 2 ^ Nat.log2 n == n

/-- The fields of an enabled axis that are out of range; the learning fields count with RCEN = 1. -/
def axisRange (m : Mem) (a : Nat) : Bool :=
  let n := axRclen m a
  decide (bInt m (axAt a + 12) < bInt m (axAt a + 8)) ||
  (axRcen m a && (n == 0 || decide (n > 4096) || (axRcAngle m a && !pow2 n) || decide (rdLe m (axAt a + 24) 2 ≥ n) ||
    decide (rdLe m (axAt a + 20) 2 + 2 * rdLe m (axAt a + 22) 2 > 65536)))

/-- Whether a loop, enabled or not, names source 14 in loop 0 or a reserved source (R302 code 5). -/
def badSource (m : Mem) (a i : Nat) : Bool :=
  let bad := fun c => c == 15 || (c == 14 && i == 0)
  bad (loopRef m a i) || bad (loopFb m a i)

/-- The code of the first failing condition of R302, 0 when the bank passes. -/
def Servo.armCode (v : Servo) (m : Mem) : Nat :=
  let live := (liveAxes m).map (·.val)
  let per := bPeriod m
  let nax := bNax m
  if bankReserved m || per == 0 || decide (per > 1000) || nax == 0 || decide (nax > 16) || bStale m == 0 ||
     decide (bStale m > 15) || live.any (axisRange m) then 1
  else if (live.map (fun a => (loops4.filter (loopPriv m a)).length)).foldl (· + ·) 0 > 4 then 2
  else if bTeval m + v.cost m + 24 > bTout m ∨ bTout m ≥ 900 * per then 3
  else if (((20 + 16 * nax + 7) / 8 + 4) * 1056 > per * 100000) then 4
  else if live.any (fun a => !loops4.any (fun i => loopEn m a i && !loopNosel m a i) || loops4.any (badSource m a)) then 5
  else if live.any (fun a => axRcen m a && !loopEn m a (axRcLoop m a)) then 6
  else 0

/-! ## Set-points (R298 to R300) -/

/-- Marks a discarded set-point of axis `a` (R299). -/
def State.spOvf (s : State) (c : ChId) (a : Fin 16) : State :=
  (s.modChan c (fun x => x.orReg SERVO_SPOVF (BitVec.ofNat 32 (2 ^ a.val)))).servoIrq c

/-- A set-point becomes eligible (R299): later pending entries go, then it is inserted; a full list discards it. -/
def State.eligible (s : State) (c : ChId) (a : Fin 16) (e : SetPoint) : State :=
  let keep := ((s.chan c).servo.axis a).pend.filter (fun p => decide (p.act < e.act))
  if keep.length ≥ 8 then (s.modChan c (fun x => x.modAxis a (fun y => { y with pend := keep }))).spOvf c a
  else s.modChan c (fun x => x.modAxis a (fun y => { y with pend := keep ++ [{ e with el := s.fc }] }))

/-- The staged entries of one axis that a finished command owns become eligible on DONE, in posting order, and are
discarded otherwise (R298). -/
def State.gateAxis (s : State) (c : ChId) (owner : Dword) (done : Bool) (a : Fin 16) : State :=
  let st := ((s.chan c).servo.axis a).stage
  let s := s.modChan c (fun x => x.modAxis a (fun y => { y with stage := st.filter (fun e => e.owner != owner) }))
  if done then (st.filter (fun e => e.owner == owner)).foldl (fun s e => s.eligible c a e) s else s

/-- The commit gate of a command's set-points (R298). -/
def State.spGate (s : State) (c : ChId) (owner : Dword) (done : Bool) : State :=
  (List.finRange 16).foldl (fun s a => s.gateAxis c owner done a) s

/-- A checker event removes the command's gated set-points, and its ungated ones whose time has not come (R416). -/
def State.spPurge (s : State) (c : ChId) (owner : Dword) : State :=
  s.modChan c (fun x => x.modServo (fun v => { v with axes := v.axes.map (fun y =>
    { y with stage := y.stage.filter (fun e => e.owner != owner)
             pend := y.pend.filter (fun e => e.gated || e.owner != owner || decide (e.act ≤ s.now)) }) }))

/-- The last entry of a list. -/
def lastOf {α : Type} : List α → Option α
  | [] => none
  | [x] => some x
  | _ :: r => lastOf r

/-- The pop at a tick start (R299, R300): due entries leave, and the latest becomes the target. -/
def Axis.pop (y : Axis) (t : Dword) (fc : Nat) : Axis :=
  let due := y.pend.filter (fun e => decide (e.act ≤ t) && decide (e.el < fc))
  match lastOf due with
  | none => y
  | some e => { y with pend := y.pend.filter (fun e => !(decide (e.act ≤ t) && decide (e.el < fc))), ref := e.ref, aux := e.aux }

/-! ## Evaluation (R303 to R308) -/

/-- A value clamped to bounds, and whether that changed it (R304, R305). -/
def clampI (v lo hi : Int) : Int × Bool := if v < lo then (lo, true) else if v > hi then (hi, true) else (v, false)

/-- sat32 of R304. -/
def sat32 (v : Int) : Int × Bool := clampI v (-(2 ^ 31)) (2 ^ 31 - 1)

/-- The saturation of the 64-bit sums of R304. -/
def sat64 (v : Int) : Int × Bool := clampI v (-(2 ^ 63)) (2 ^ 63 - 1)

/-- rne(v, k) of R304: v ÷ 2^k to nearest, ties to even. -/
def rneShift (v : Int) (k : Nat) : Int := roundInt .rne (decide (v < 0)) v.natAbs (-(k : Int))

/-- A signed 32-bit field of a sample record (R320). -/
def smpInt (r : List Byte) (o : Nat) : Int := toSigned 32 (field r o 4)

/-- The sources of R303. `prev` is the candidate of the loop before, a free value when that loop has none. -/
def source (y : Axis) (r : List Byte) (sv : Int) (lim prev : Int) (code : Nat) : Int :=
  let ia := smpInt r 0
  let ib := smpInt r 4
  let ic := if bitOf (field r 24 2) 1 then smpInt r 8 else (sat32 (-ia - ib)).1
  let mag := fun (v : Int) => min (v.natAbs : Int) (2 ^ 31 - 1)
  match code with
  | 0 => 0
  | 1 => sv
  | 2 => y.aux.toInt
  | 3 => lim
  | 4 => ia
  | 5 => ib
  | 6 => ic
  | 7 => max (mag ia) (max (mag ib) (mag ic))
  | 8 => smpInt r 12
  | 9 => (field r 16 4 : Int)
  | 10 => smpInt r 20
  | 11 => (sat32 (toSigned 16 (field r 26 2) * 2 ^ 12)).1
  | 12 => smpInt r 28
  | 13 => y.out.toInt
  | _ => prev

/-- What the loops evaluated so far have given: by loop, e, Ic and u; the last candidate; whether anything clamped. -/
structure LoopAcc where
  res : List (Nat × Int × Int × Int)
  prev : Int
  sat : Bool

/-- One enabled loop (R304). -/
def evalLoop (m : Mem) (a : Nat) (y : Axis) (r : List Byte) (sv : Int) (free : Nat → Int) (acc : LoopAcc) (i : Nat) : LoopAcc :=
  if !loopEn m a i then { acc with prev := free i }
  else
    let lim := bInt m (loopAt a i + 20)
    let rf := source y r sv lim acc.prev (loopRef m a i)
    let fb := source y r sv lim acc.prev (loopFb m a i)
    let e := if loopWrap m a i then (toSigned 32 (ofSigned 32 (rf - fb)), false) else sat32 (rf - fb)
    let ic := sat64 ((y.i.get (Fin.ofNat 4 i)).toInt + bInt m (loopAt a i + 8) * e.1)
    let imax : Int := (rdLe m (loopAt a i + 24) 4 * 2 ^ 24 : Nat)
    let ic' := if imax = 0 then (ic.1, false) else clampI ic.1 (-imax) imax
    let s1 := sat64 (bInt m (loopAt a i + 4) * e.1 + ic'.1)
    let de := sat32 (e.1 - (y.ep.get (Fin.ofNat 4 i)).toInt)
    let s2 := sat64 (s1.1 + bInt m (loopAt a i + 12) * de.1)
    let s3 := sat64 (s2.1 + bInt m (loopAt a i + 16) * rf)
    let u := sat32 (rneShift s3.1 24)
    ⟨acc.res ++ [(i, e.1, ic'.1, u.1)], u.1,
     acc.sat || e.2 || ic.2 || ic'.2 || s1.2 || de.2 || s2.2 || s3.2 || u.2⟩

/-- The selected loop (R304): the lowest candidate of an enabled loop free of NOSEL, the lowest index on a tie. -/
def pickLoop (m : Mem) (a : Nat) : List (Nat × Int × Int × Int) → Option (Nat × Int)
  | [] => none
  | (i, _, _, u) :: r =>
    match pickLoop m a r with
    | none => if loopNosel m a i then none else some (i, u)
    | some (j, w) => if loopNosel m a i then some (j, w) else if u ≤ w then some (i, u) else some (j, w)

/-- The learning entry of a tick (R306): tick phase or encoder angle. -/
def rcIndex (m : Mem) (a : Nat) (tick : Word) (pos : Nat) : Nat :=
  let n := axRclen m a
  if n == 0 then 0
  else if axRcAngle m a then pos / 2 ^ (32 - Nat.log2 n)
  else (tick - BitVec.ofNat 32 (rdLe m (axAt a + 28) 4)).toNat % n

/-- Learning entry `k` of axis `a`. -/
def Servo.learnAt (v : Servo) (a k : Nat) : Int := (sget 0 v.learn (a * 4096 + k)).toInt

/-- The update of a learning entry (R308), and whether it saturated. -/
def Servo.learnNew (v : Servo) (m : Mem) (a k : Nat) (e : Int) : Int × Bool :=
  let n := axRclen m a
  let q0 : Int := rdLe m (axAt a + 20) 2
  let q1 : Int := rdLe m (axAt a + 22) 2
  let nb := v.learnAt a ((k + n - 1) % n) + v.learnAt a ((k + 1) % n)
  sat32 (rneShift (q0 * v.learnAt a k + q1 * nb) 16 + rneShift (bInt m (axAt a + 16) * e) 24)

/-- An evaluated axis, the learning table, and whether any clamp of R304 acted (R305). -/
def Servo.evalAxis (v : Servo) (m : Mem) (a : Fin 16) (tick : Word) (r : List Byte) (free : Nat → Int) : Servo × Bool :=
  let y := v.axis a
  let slew : Int := rdLe m (axAt a.val + 4) 4
  let d := clampI (y.ref.toInt - y.s.toInt) (-slew) slew
  let sv := if slew = 0 then (y.ref.toInt, false) else let q := sat32 (y.s.toInt + d.1); (q.1, q.2 || d.2)
  let acc := loops4.foldl (evalLoop m a.val y r sv.1 free) ⟨[], 0, false⟩
  match pickLoop m a.val acc.res with
  | none => (v, false)
  | some (sel, u) =>
    let lo := bInt m (axAt a.val + 8)
    let hi := bInt m (axAt a.val + 12)
    let k := rcIndex m a.val tick (field r 16 4)
    let n := axRclen m a.val
    let ff := if v.rcOn m a then v.learnAt a.val ((k + rdLe m (axAt a.val + 24) 2) % n) else 0
    let yv := clampI u lo hi
    let out := clampI (yv.1 + ff) lo hi
    let satd := yv.2 || out.2
    let upd : (Nat → Option (Int × Int)) := fun i => (acc.res.find? (fun q => q.1 == i)).map (fun q => (q.2.1, q.2.2.1))
    let i' := Vector.ofFn (fun (i : Fin 4) =>
      match upd i.val with
      | none => y.i.get i
      | some q => if loopPriv m a.val i.val && (i.val != sel || satd) then y.i.get i else BitVec.ofInt 64 q.2)
    let ep' := Vector.ofFn (fun (i : Fin 4) => match upd i.val with | none => y.ep.get i | some q => BitVec.ofInt 32 q.1)
    let y' : Axis := { y with
      s := BitVec.ofInt 32 sv.1, out := BitVec.ofInt 32 out.1, i := i', ep := ep', evald := true, sel := sel,
      ff := BitVec.ofInt 32 ff, held := false, sat := satd, fin := true }
    let learns := axRcen m a.val && y.rc == 2 && !satd
    let nw := v.learnNew m a.val k (match upd (axRcLoop m a.val) with | none => 0 | some q => q.1)
    let tbl := if learns then sset 0 v.learn (a.val * 4096 + k) (BitVec.ofInt 32 nw.1) else v.learn
    ({ (v.setAxis a y') with learn := tbl }, sv.2 || acc.sat || satd)

/-! ## Frames (R318 to R320) -/

/-- A drive-link frame with its CRC (R319). -/
def withCrc (bs : List Byte) : List Byte := bs ++ leBytes 4 (crc32 bs).toNat

/-- The record of one axis in a command frame (R312, R319). `miss` says that its evaluation has not finished. -/
def Axis.frameRec (y : Axis) (en safe miss : Bool) : List Byte :=
  if safe then List.replicate 8 0 ++ [8] ++ List.replicate 7 0
  else if !en then List.replicate 16 0
  else
    let out := if y.evald then y.out else 0
    let held := y.held || miss
    let flags := 1 + 2 * b2n held + 4 * b2n (y.sat && !held) + 16 * b2n (y.stale && !miss)
    leBytes 4 out.toNat ++ leBytes 4 y.aux.toNat ++ leBytes 1 flags ++ leBytes 1 y.sel ++ leBytes 2 0 ++ leBytes 4 y.ff.toNat

end Sys2Proof.Machine
end

