-- ==== Sys2Proof/Machine/Servo.lean ====
section
/-!
DEFINITION. The SERVO instructions and the servo engine's ticks (R294 to R314).
(DEDUCED, log entry 36.)
-/

namespace Sys2Proof.Machine

open Sys2Proof

/-! ## Instructions -/

/-- Whether an axis is configured: SERVO_CTRL.EN = 1, below the active bank's NAX, and enabled (R298). -/
def Channel.axisOk (x : Channel) (a : Nat) : Bool := x.bit SERVO_CTRL 0 && axEn x.servo.bank a

/-- The axis a SERVO instruction names. -/
def axisOf (f : FmtS) : Fin 16 := Fin.ofNat 16 f.imm.toNat

/-- SERVO.SET (R298, R299): posts a set-point, staged behind its command's commit with MOD[0] = 0. -/
def execServoSet (ch : ChId) (f : FmtS) (s : State) : Out :=
  .next (issueS s ch 0xB0 f (f.sd == 0 && !f.i && f.imm.toNat < 16 && f.mod.toNat < 2) (fun s =>
    let x := s.chan ch
    let a := axisOf f
    let owner := match x.cmd.run with | none => 0 | some r => r.cmd.seq
    let e : SetPoint := ⟨x.seq.rs f.sa, (x.seq.rs f.sb).extractLsb' 0 32, (x.seq.rs f.sb).extractLsb' 32 32, f.mod == 0, owner, 0⟩
    guarded [(!x.axisOk a.val, .axis)]
      (if f.mod != 0 then .done (s.eligible ch a e)
       else if (x.servo.axis a).stage.length ≥ 8 then .done (s.spOvf ch a)
       else .done (s.modChan ch (fun x => x.modAxis a (fun y => { y with stage := y.stage ++ [e] }))))))

/-- A field of SERVO.RD (R313); `free` stands for a field of a sample the axis has not got. -/
def Axis.readField (y : Axis) (free : Dword) (mod : Nat) : Dword :=
  let sx := fun (v : Int) => BitVec.ofInt 64 v
  match mod with
  | 10 => y.sent.signExtend 64
  | 11 => y.s.signExtend 64
  | 12 => BitVec.ofNat 64 (y.sel + 4 * y.bits.toNat)
  | k =>
    match y.smp with
    | none => free
    | some p =>
      match k with
      | 4 => BitVec.ofNat 64 (field p.rcd 16 4)
      | 5 => sx (smpInt p.rcd 20)
      | 6 => sx (smpInt p.rcd 24)
      | 7 => sx (smpInt p.rcd 28)
      | 8 => p.stamp
      | 9 => p.tick.zeroExtend 64
      | k => sx (smpInt p.rcd (4 * k))

/-- SERVO.RD (R313). -/
def execServoRd (ch : ChId) (f : FmtS) (s : State) : Out :=
  .next (issueS s ch 0xB1 f (f.sa == 0 && f.sb == 0 && !f.i && f.imm.toNat < 16 && f.mod.toNat < 13) (fun s =>
    let x := s.chan ch
    let y := x.servo.axis (axisOf f)
    let free : Dword := Config.freeWord s.free ++ Config.freeWord (s.free + 1)
    guarded [(!x.axisOk (axisOf f).val, .axis)]
      (.done ((s.modChan ch (fun x => x.modSeq (fun q => q.ws f.sd (y.readField free f.mod.toNat)))).drawFree 2))))

/-- SERVO.LEARN (R307): the new state takes effect from the next tick start. -/
def execServoLearn (ch : ChId) (f : FmtS) (s : State) : Out :=
  .next (issueS s ch 0xB2 f
    (f.sd == 0 && f.sa == 0 && f.sb == 0 && !f.i && f.imm.toNat < 16 && f.mod.toNat < 4) (fun s =>
    .done (s.modChan ch (fun x => x.modAxis (axisOf f) (fun y => { y with rcNext := some f.mod.toNat })))))

/-! ## The grid (R294, R295) -/

/-- The period in force in ns; before any bank is in force, the armed bank's places the grid. -/
def Servo.periodNs (v : Servo) : Nat :=
  1000 * (if bPeriod v.bank != 0 then bPeriod v.bank else if v.armed then bPeriod v.otherBank else 0)

/-- Places the next tick: the first grid instant at or after the present (R294). -/
def Channel.servoPlan (x : Channel) (now : Nat) : Channel :=
  let per := x.servo.periodNs
  let t0 := nsOf (x.reg64 SERVO_T0)
  if per == 0 then x
  else
    let n := if now ≤ t0 then 0 else (now - t0 + per - 1) / per
    (x.setReg SERVO_TICK (BitVec.ofNat 32 n)).modServo (fun v => { v with next := some (t0 + n * per, BitVec.ofNat 32 n) })

/-- Ticks that a forward step of the time base has passed do not run (R295). -/
def Channel.servoSkip (x : Channel) (now : Nat) : Channel :=
  match x.servo.next with
  | none => x
  | some (t, n) =>
    let per := x.servo.periodNs
    if !x.bit SERVO_CTRL 0 || per == 0 || now < t then x
    else
      let k := (now - t) / per + 1
      let x := x.inc SERVO_SKIP k
      { x with servo := { x.servo with next := some (t + k * per, n + BitVec.ofNat 32 k) }, drv := { x.drv with first := true } }

/-- A write of SERVO_CTRL.EN (R294): ticks start at the first grid instant, or stop with the state kept. -/
def State.servoEnWrite (s : State) (c : ChId) (en : Bool) : State :=
  let was := (s.chan c).bit SERVO_CTRL 0
  if !s.live c then s else s.modChan c (fun x =>
    let x := x.setReg SERVO_CTRL (setBit (x.reg SERVO_CTRL) 0 en)
    if en && !was then x.servoPlan s.gridNow
    else if !en && was then x.modServo (fun v => { v with next := none, phase := .idle })
    else x)

/-- SERVO_CTRL.EN written (R294). -/
def execServoCtrlEnWrite (ch : ChId) (en : Bool) (s : State) : Out := .next (s.servoEnWrite ch en)

/-! ## Ticks (R296, R299, R300, R302, R307) -/

/-- The armed bank becomes active (R302). -/
def Channel.servoSwitch (x : Channel) (t : Dword) : Channel :=
  if x.servo.armed && decide (x.reg64 SERVO_SWTIME ≤ t) then
    let x := x.orReg SERVO_STAT 0x40
    { x with servo := { x.servo with active := if x.servo.active == 0 then 1 else 0, armed := false }, drv := { x.drv with first := true } }
  else x

/-- The controller states that SERVO.LEARN named take effect (R307). -/
def Axis.rcStep (y : Axis) : Axis := match y.rcNext with | none => y | some k => { y with rc := k, rcNext := none }

/-- A tick starts on the first fc on which the time base is at or past its instant (R294): the bank switch, the pop of
the set-points and the controller states. -/
def execServoTickStart (ch : ChId) (s : State) : Out :=
  .next (
    let x := s.chan ch
    match x.servo.next with
    | none => s
    | some (t, n) =>
      if s.parked ch || !x.bit SERVO_CTRL 0 || decide (s.nowNs < t) then s
      else
        let x := (x.servoSwitch (shortOf t)).setReg SERVO_TICK n
        let per := x.servo.periodNs
        s.setChan ch (x.modServo (fun v => { v with
          next := if per == 0 then none else some (t + per, n + 1)
          started := v.started + 1
          phase := .started
          fc0 := s.fc
          axes := v.axes.map (fun y => { ((y.pop (shortOf t) s.fc).rcStep) with fin := false }) })))

/-! ## Samples and evaluation -/

/-- The samples of a frame become the newest valid ones of their axes (R320). -/
def Servo.takeFrame (v : Servo) (fr : List Byte) (stamp : Dword) (tick : Word) : Servo :=
  let v := { v with used := some (fr, stamp) }
  if bitOf (field fr 10 1) 0 then v
  else
    { v with axes := Vector.ofFn (fun (a : Fin 16) =>
        let y := v.axis a
        let r := (fr.drop (16 + 32 * a.val)).take 32
        if decide (a.val < min (bNax v.bank) (field fr 12 1)) && bitOf (field r 24 2) 0 then
          { y with smp := some ⟨r, stamp, tick, v.started⟩ }
        else y) }

/-- The sample of a tick (R321): the newest frame seen before evaluation starts, before fc `upto`; earlier ones are counted. One seen
later is left for the next tick (R310). -/
def Channel.servoSelect (x : Channel) (upto : Nat) : Channel × Bool :=
  let new := x.servo.arrived.filter (fun e => decide (e.2.2 < upto))
  let x := x.modServo (fun v => { v with arrived := v.arrived.filter (fun e => !decide (e.2.2 < upto)) })
  match lastOf new with
  | none => (x.inc DRV_NOSMP 1, false)
  | some (fr, stamp, _) =>
    ((x.inc DRV_EXTRA (new.length - 1)).modServo (fun v => v.takeFrame fr stamp (x.reg SERVO_TICK)), true)

/-- The sample record of a tick (R314). -/
def Channel.servoRecord (x : Channel) (isNew : Bool) : Channel :=
  if !x.bit SERVO_RING 6 then x
  else
    let n := 16 + 32 * bNax x.servo.bank
    let u : List Byte × Dword := match x.servo.used with | none => (List.replicate n 0, 0) | some (fr, st) => ((fr ++ List.replicate n 0).take n, st)
    let head := leBytes 8 u.2.toNat ++ leBytes 4 (x.reg SERVO_TICK).toNat ++
      leBytes 4 (b2n (!isNew) + 2 * b2n x.servo.used.isNone)
    let rcd := head ++ u.1
    let full := rcd ++ List.replicate ((128 - rcd.length % 128) % 128) 0
    match x.servo.ring with
    | none => x.inc SERVO_SRDROP 1
    | some k =>
      let d := x.ring k
      if d.free < full.length then x.inc SERVO_SRDROP 1
      else (x.ringWrite d d.head full).advHead k full.length

/-- Axis `a` at the end of its evaluation (R309, R311): held, or evaluated with its datapath copies in agreement. -/
def State.servoAxis (s : State) (c : ChId) (cmp ecc : BitVec 16) (a : Fin 16) : State :=
  let x := s.chan c
  let v := x.servo
  let y := v.axis a
  let aged := match y.smp with | none => true | some p => decide (v.started - p.started > bStale v.bank)
  let x := if aged then x.bump SERVO_STALECNT 1 else x
  let hold := fun (x : Channel) => x.modAxis a (fun y => { y with held := true, sat := false, stale := false, fin := true })
  if x.drv.state != .up || aged then s.setChan c (hold x)
  else if cmp.getLsbD a.val then
    ((s.setChan c ((((hold x).bump SERVO_CMPCNT 1).orReg SERVO_STAT 8).raise 0x0C)).servoIrq c)
  else if ecc.getLsbD a.val then s.setChan c (((hold x).orReg SERVO_STAT 0x10).raise 0x0D)
  else
    match y.smp with
    | none => s.setChan c (hold x)
    | some p =>
      let q := v.evalAxis v.bank a (x.reg SERVO_TICK) p.rcd (fun i => (Config.freeWord (s.free + 4 * a.val + i)).toInt)
      let x := { x with servo := q.1 }
      let x := if q.2 then x.orReg SERVO_SAT (BitVec.ofNat 32 (2 ^ a.val)) else x
      s.setChan c (x.modAxis a (fun y => { y with stale := decide (p.started ≠ v.started) }))

/-- The axes that finish by the hand-off, in index order, each after its cost (R297, R310). -/
def State.servoAxes (c : ChId) (cmp ecc : BitVec 16) (limit : Nat) : List (Fin 16) → Nat → State → State
  | [], _, s => s
  | a :: r, t, s =>
    let v := (s.chan c).servo
    let t' := t + v.axisCost v.bank a
    if t' > limit then s else State.servoAxes c cmp ecc limit r t' (s.servoAxis c cmp ecc a)

/-- Evaluation starts on fc `t0` from the newest sample seen before fc `upto` (R296, R310); nothing is evaluated in the safe state (R312). -/
def State.servoEval (s : State) (c : ChId) (cmp ecc : BitVec 16) (t0 upto : Nat) : State :=
  let x := s.chan c
  let limit := x.servo.fc0 + bTout x.servo.bank - 24
  if x.bit SERVO_STAT 1 then s.modChan c (fun x => x.modServo (fun v => { v with phase := .evaluated }))
  else
    let q := x.servoSelect upto
    let x := q.1.servoRecord q.2
    let x := x.modServo (fun v => { v with phase := .evaluated, evalEnd := min limit (t0 + v.cost v.bank) })
    ((s.setChan c x).servoAxes c cmp ecc limit (liveAxes x.servo.bank) t0).drawFree 64

/-- At T_EVAL the engine evaluates every enabled axis (R296): from that fc on, however late the event is told. `cmp` and `ecc`
name the axes whose datapath copies disagree, or in whose memories an error is uncorrectable (R311). With WAITS = 1 it waits for
a sample frame of which `sof` says that its SOF, and not yet its EOF, has arrived (R310). (DEDUCED, log entry 36.) -/
def execServoEvalStart (ch : ChId) (cmp ecc : BitVec 16) (sof : Bool) (s : State) : Out :=
  .next (
    let v := (s.chan ch).servo
    let t0 := v.fc0 + bTeval v.bank
    if s.parked ch || v.phase != .started || decide (s.fc < t0) then s
    else if bWaits v.bank && sof && !(s.chan ch).bit SERVO_STAT 1 then
      s.modChan ch (fun x => x.modServo (fun v => { v with phase := .waiting cmp ecc }))
    else s.servoEval ch cmp ecc t0 t0)

/-- The frame that evaluation waits for has ended, or failed its checks: evaluation starts at once (R310). The frame itself is
new in this tick. -/
def State.servoWaited (s : State) (c : ChId) : State :=
  let v := (s.chan c).servo
  match v.phase with
  | .waiting cmp ecc => s.servoEval c cmp ecc s.fc (min (s.fc + 1) (v.fc0 + bTout v.bank - 24))
  | _ => s

/-! ## Hand-off (R309, R312, R318, R319) -/

/-- The axes that have not finished at hand-off miss (R309). -/
def State.servoMiss (s : State) (c : ChId) : State × Bool :=
  let v := (s.chan c).servo
  let late := (liveAxes v.bank).filter (fun a => !(v.axis a).fin)
  let s := s.modChan c (fun x => late.foldl (fun x a =>
    (x.orReg SERVO_MISS (BitVec.ofNat 32 (2 ^ a.val))).bump SERVO_MISSCNT 1) x)
  (if late.isEmpty then s else s.servoIrq c, !late.isEmpty)

/-- The command frame of this tick (R318, R319). `sof` is the ns from hand-off to the first bit of SOF. -/
def State.cmdFrame (s : State) (c : ChId) (missed : Bool) (sof : Nat) : List Byte :=
  let x := s.chan c
  let v := x.servo
  let m := v.bank
  let nax := bNax m
  let safe := x.bit SERVO_STAT 1
  let live := liveAxes m
  let time := s.nowNs + sof
  let next := match v.next with | none => time | some (t, _) => t
  let after := if v.armed && decide (x.reg64 SERVO_SWTIME ≤ shortOf next) then v.otherBank else m
  let lead := (9 * (next : Int) + 10 * bTeval after - 9 * time) / 144
  let stale := live.any (fun a => (v.axis a).stale && (v.axis a).fin)
  let flags := if safe then 1 + 4 * b2n x.drv.first else 2 * b2n missed + 4 * b2n x.drv.first + 8 * b2n stale
  let full := s.time.sec.toNat * 1000000000 + s.time.ns.toNat + sof
  leBytes 4 (x.reg SERVO_TICK).toNat ++ leBytes 6 (full % 2 ^ 48) ++ leBytes 1 flags ++ leBytes 1 1 ++ leBytes 1 nax ++
    leBytes 1 0 ++ leBytes 2 (min lead.toNat 65535) ++
    (((List.finRange 16).filter (fun a => a.val < nax)).map (fun a =>
      (v.axis a).frameRec (axEn m a.val) safe (!(v.axis a).fin))).flatten

/-- What the frame carried of each axis, for SERVO.RD (R313). -/
def Servo.sentAxes (v : Servo) (safe : Bool) : Servo :=
  { v with phase := .handed, axes := Vector.ofFn (fun (a : Fin 16) =>
      let y := v.axis a
      if decide (a.val ≥ bNax v.bank) then y
      else if safe || !axEn v.bank a.val then { y with sent := 0, bits := 0 }
      else
        let held := y.held || !y.fin
        { y with sent := if y.evald then y.out else 0
                 bits := BitVec.ofNat 3 (b2n held + 2 * b2n (y.sat && !held) + 4 * b2n (y.stale && y.fin)) }) }

/-- The STS block that the device sends after a frame's EOF (R316, R317). -/
def Channel.stsBlock (x : Channel) : List Byte :=
  leBytes 1 0x2D ++ leBytes 1 (b2n (x.drv.state == .up) + 2 * b2n (x.bit SERVO_STAT 1)) ++ leBytes 2 (x.reg DRV_BLKERR).toNat ++
    leBytes 4 (x.reg DRV_RTT).toNat

/-- Evaluation that has not started by the hand-off (R310): at T_EVAL, or, of an engine that still waits, at the hand-off. -/
def State.servoDue (s : State) (c : ChId) : State :=
  let v := (s.chan c).servo
  match v.phase with
  | .started => s.servoEval c 0 0 (v.fc0 + bTeval v.bank) (v.fc0 + bTeval v.bank)
  | .waiting cmp ecc => s.servoEval c cmp ecc (v.fc0 + bTout v.bank - 24) (v.fc0 + bTout v.bank - 24)
  | _ => s

/-- At T_OUT − 24 fc the command frame is fixed and passed to the transmitter (R296). The first bit of its SOF leaves
`sof` ns later, 13 to 27; the link carries it when UP. -/
def execServoHandoff (ch : ChId) (sof : Nat) (s : State) : Out :=
  .next (
    let x := s.chan ch
    let v := x.servo
    if s.parked ch || v.phase == .idle || v.phase == .handed || bNax v.bank == 0 ||
       decide (s.fc + 24 < v.fc0 + bTout v.bank) then s
    else
      let s := s.servoDue ch
      let safe := (s.chan ch).bit SERVO_STAT 1
      let q := if safe then (s, false) else s.servoMiss ch
      let fr := withCrc (q.1.cmdFrame ch q.2 (min (max sof 13) 27))
      q.1.modChan ch (fun x =>
        let x := x.modServo (fun v => v.sentAxes safe)
        if x.drv.state != .up then x
        else { (x.inc DRV_TXFR 1) with
          drv := { x.drv with frame := fr, sts := x.stsBlock, first := false, invalid := x.drv.invalid + b2n safe } }))

/-- Zeroing a learning table completes, and the controller goes to hold (R307). -/
def execLearnClearDone (ch : ChId) (axis : Fin 16) (s : State) : Out :=
  .next (s.modChan ch (fun x =>
    if s.parked ch || (x.servo.axis axis).rc != 3 then x
    else (x.modServo (fun v => { v with learn := sclear v.learn (axis.val * 4096) 4096 })).modAxis axis
      (fun y => { y with rc := 1 })))

/-- SERVO_SWCTL.DISARM (R302). -/
def State.servoDisarm (s : State) (c : ChId) : State := s.modChan c (fun x => x.modServo (fun v => { v with armed := false }))

/-- SERVO_SWCTL.ARM (R302): the inactive bank is checked; a bank that fails arms nothing and leaves its code. -/
def State.servoArm (s : State) (c : ChId) : State :=
  let x := s.chan c
  if x.servo.armed then s
  else
    let code := x.servo.armCode x.servo.otherBank
    if code != 0 then
      (s.setChan c ((x.orReg SERVO_STAT 0x20).setReg SERVO_LT_ERR (BitVec.ofNat 32 code))).servoIrq c
    else
      let x := x.modServo (fun v => { v with armed := true })
      s.setChan c (if x.bit SERVO_CTRL 0 && x.servo.next.isNone then x.servoPlan s.gridNow else x)

/-- SERVO_SWCTL written with ARM. -/
def execServoSwctlArm (ch : ChId) (s : State) : Out := .next (s.servoArm ch)

/-- SERVO_SWCTL written with DISARM. -/
def execServoSwctlDisarm (ch : ChId) (s : State) : Out := .next (s.servoDisarm ch)

/-- A write of SERVO_RING (R314): the engine binds the producer side of the ring that EN names. -/
def Channel.servoRingWrite (x : Channel) (v : Word) : Channel :=
  let x := match x.servo.ring with | none => x | some k => (x.unbindProd k).modServo (fun v => { v with ring := none })
  let x := x.setReg SERVO_RING (v &&& 0x7F)
  let k : BitVec 6 := v.extractLsb' 0 6
  let d := x.ring k
  if v.getLsbD 6 && d.valid && bindOk d.prod .servo then (x.bindProd k .servo).modServo (fun v => { v with ring := some k })
  else x

end Sys2Proof.Machine
end

