-- ==== Sys2Proof/Machine/RunOps.lean ====
section
/-!
DEFINITION. What commands and standing runs share: their records, starting, stopping, draining, the end of a run, commits,
fault records and transients (R34, R51 to R60, R66, R121, R336, R353, R354, R419, R433).
(DEDUCED, log entries 39 and 41.)
-/

namespace Sys2Proof.Machine

open Sys2Proof

/-- Changes the command path. -/
def Channel.modCmd (x : Channel) (f : CmdSt → CmdSt) : Channel := { x with cmd := f x.cmd }

/-- Changes the command in the sequencer. -/
def Channel.modRun (x : Channel) (f : RunCmd → RunCmd) : Channel := x.modCmd (fun d => { d with run := d.run.map f })

/-- An accepted command reaches a state (R431). -/
def Channel.setStage (x : Channel) (seq : Dword) (st : Stage) : Channel :=
  x.modCmd (fun d => { d with table := d.table.map (fun e => if e.seq == seq then { e with stage := st } else e) })

/-- CH_STATUS.IDLE: no command running, none accepted and uncommitted. -/
def Channel.idle (x : Channel) : Bool := x.cmd.run.isNone && x.cmd.side.isNone && x.cmd.table.isEmpty

/-! ## Records (R51, R54) -/

/-- The fields of a 64-byte command record (R51). -/
def cmdOf (b : List Byte) : Cmd :=
  { seq := BitVec.ofNat 64 (field b 0 8), kind := byteAt b 8, cls := byteAt b 9, flags := BitVec.ofNat 16 (field b 10 2),
    prog := BitVec.ofNat 64 (field b 16 8), arg := BitVec.ofNat 64 (field b 24 8), deadline := BitVec.ofNat 64 (field b 32 8),
    argLen := BitVec.ofNat 32 (field b 40 4), budget := BitVec.ofNat 32 (field b 44 4), out := BitVec.ofNat 64 (field b 48 8) }

/-- Whether a command record's CRC holds (R51). -/
def rcdCrcOk (b : List Byte) : Bool := field b 60 4 == (crc32 (b.take 60)).toNat

/-- A 32-byte completion record (R54). -/
def cplRcd (seq start endT : Dword) (epoch : Word) (status verdict : Byte) (code : BitVec 16) : List Byte :=
  leBytes 8 seq.toNat ++ leBytes 8 start.toNat ++ leBytes 8 endT.toNat ++ leBytes 4 epoch.toNat ++ [status, verdict] ++
    leBytes 2 code.toNat

/-- A count that stops at 0xFFFF_FFFF (R353). -/
def cap32 (n : Nat) : Nat := min n 0xFFFFFFFF

/-- The counters of waits, in the report's order: BANK, DRAM, RING, LINK, HALO, HOST (R353). -/
def stallRegs : List Nat :=
  [BARO_STALL_BANK, BARO_STALL_DRAM, BARO_STALL_RING, BARO_STALL_LINK, BARO_STALL_HALO, BARO_STALL_HOST]

/-- The waits of the command in the sequencer. -/
def Channel.stalls (x : Channel) : List Word := stallRegs.map x.reg

/-- The 64-byte Barometer report of a command (R354); `own` says that it is still in the sequencer, so that the BARO_ registers
are its own. -/
def Channel.report (x : Channel) (r : RunCmd) (own : Bool) : List Byte :=
  let ac := cap32 r.acs
  let waits := if own then x.stalls else r.stalls
  leBytes 8 r.cmd.seq.toNat ++ leBytes 4 ac ++ leBytes 4 r.est ++
    leBytes 4 (if r.est == 0 then 0 else cap32 (ac * 65536 / r.est)) ++
    (List.range 6).flatMap (fun k => leBytes 4 (waits.getD k 0).toNat) ++ leBytes 4 (cap32 r.late) ++ leBytes 2 r.entry ++ leBytes 2 r.flags.toNat ++
    leBytes 4 r.frame.toNat ++ leBytes 4 r.mark.toNat ++ leBytes 4 (cap32 r.markAc)

/-! ## The completion ring (R58 to R62) -/

/-- Entries of the command ring. -/
def Channel.cmdSize (x : Channel) : Nat := 2 ^ getField (x.reg CH_CMD_SIZE) 4 0

/-- Entries of the completion ring. -/
def Channel.cplSize (x : Channel) : Nat := 2 ^ getField (x.reg CH_CPL_SIZE) 4 0

/-- Whether the completion ring is full (R59). -/
def Channel.cplFull (x : Channel) : Bool := (x.reg CH_CPL_PROD - x.reg CH_CPL_CONS).toNat ≥ x.cplSize

/-- Whether a finished command waits for its commit (R59). -/
def Channel.waiting (x : Channel) : Bool :=
  !x.cmd.done.isEmpty || (match x.cmd.run with
    | some r => r.phase == .finished && (match r.src with | .standing _ => false | _ => true)
    | none => false)

/-- Rewrites the write-back area (R60). -/
def State.writeBack (s : State) (c : ChId) : State :=
  let x := s.chan c
  s.hostWrite (x.reg64 CH_WB_ADDR).toNat (leBytes 8 (x.reg64 CH_CMD_ACK).toNat ++ leBytes 4 (x.reg CH_CPL_PROD).toNat ++ leBytes 4 0)

/-- Writes a completion record at the producer index, advances it, and rewrites the write-back area (R58). -/
def State.putCpl (s : State) (c : ChId) (rcd : List Byte) : State :=
  let x := s.chan c
  let s := s.hostWrite ((x.reg64 CH_CPL_BASE).toNat + 32 * ((x.reg CH_CPL_PROD).toNat % x.cplSize)) rcd
  (s.modChan c (fun x => x.setReg CH_CPL_PROD (x.reg CH_CPL_PROD + 1))).writeBack c

/-- An ABORTED record (R434): START and END hold the short time of the write. -/
def State.putAborted (s : State) (c : ChId) (seq : Dword) (code : BitVec 16) : State :=
  s.putCpl c (cplRcd seq s.now s.now ((s.chan c).reg ALM_EPOCH) 0x04 0 code)

/-! ## Fault records and transients (R419, R444) -/

/-- The ring slot of fault record number `n`. -/
def fltSlot (n : Nat) : Nat := FLT_ENTRY (n % 64)

/-- Writes a fault record, counts it and signals vector 33 (R444). -/
def State.fltRecord (s : State) (ch : Option ChId) (src : Byte) (action : Nat) (detail : Word) : State :=
  let s := s.inc FLT_COUNT 1
  let o := fltSlot (s.reg FLT_COUNT).toNat
  let w : Word := BitVec.ofNat 32 ((match ch with | some c => c.val | none => 0xFF) + 256 * src.toNat + 65536 * action)
  let s := ((s.setReg64 o s.now).setReg (o + 8) w).setReg (o + 12) detail
  s.cause 33

/-- Amends the ACTION of fault record number `n`, if the ring still holds it. -/
def State.fltAction (s : State) (n action : Nat) : State :=
  if (s.reg FLT_COUNT).toNat < n + 64 then
    let o := fltSlot n + 8
    s.setReg o (setField (s.reg o) 23 16 action)
  else s

/-- Counts a transient (R419). A ninth within 1,000,000 starts of the first of the eight before it is permanent: the
channel's safe state is due. -/
def State.transient (s : State) (c : ChId) (src : Byte) (rcd : Nat) : State :=
  let d := (s.chan c).cmd
  let perm := match d.trans with
    | t :: r => r.length == 7 && d.starts < t + 1000000
    | [] => false
  let s := (s.inc (SAFE_TRANS c.val) 1).modChan c (fun x => x.modCmd (fun d =>
    { d with trans := (if d.trans.length ≥ 8 then d.trans.drop 1 else d.trans) ++ [d.starts] }))
  if perm then { s.fltAction rcd 4 with safeDue := s.safeDue ++ [(c, src)] } else s

/-! ## Stopping and draining (R66, R121, R416) -/

/-- Takes the bindings of the engines that work for a command off a ring; those of open link slots, halos (R201), the servo
engine and the intake stay. -/
def RingD.released (d : RingD) : RingD :=
  let prod := match d.prod with
    | some (e, n) => if e == .link || e == .halo || e == .servo || e == .intake then some (e, n) else none
    | none => none
  let cons := match d.cons with
    | some (e, n) => if e == .intake || e == .halo then some (e, n) else none
    | none => none
  { d with prod := prod, cons := cons }

/-- An array with no instruction left. -/
def Arr.idle (a : Arr) : Arr := { a with queue := [], run := none, slot := none }

/-- The window generator with no instruction left: no halo is waited for. -/
def Win.idle (w : Win) : Win :=
  { w with queue := [], slots := Vector.replicate 2 none, halos := w.halos.map (fun h => { h with waiting := false }) }

/-- A held CAN message awaits no token of its command any more. -/
def CanMsg.forget (m : CanMsg) : CanMsg := if m.frz then m else { m with tok := none }

/-- The engines give up what a stopped command left in them (R66, R121, R237): queues, transfers, collectives and bindings
go, and no operation stays outstanding. -/
def Channel.drainWork (x : Channel) : Channel :=
  let x := x.dmaDrain
  { x with
    rings := x.rings.map RingD.released
    front := { x.front with queue := [] }
    arrs := x.arrs.map Arr.idle
    joint := []
    win := x.win.idle
    attn := { x.attn with queue := [], page := none }
    ptu := { x.ptu with queue := [] }
    scan := { x.scan with queue := [], fence := [] }
    link := { x.link with xfers := [], colls := [], bar := none }
    can := { x.can with slots := x.can.slots.map (fun e => { e with cur := e.cur.forget, next := e.next.map CanMsg.forget }) }
    seq := { x.seq with outst := Vector.replicate 16 0, vpend := 0, stall := .none } }

/-- A stopped command's work drains: a running transfer stops some way on (R121), the operations presented to the PTU complete
(R237), and the engines give up the rest. -/
def State.drainWork (s : State) (c : ChId) : State := ((s.dmaStop c false).ptuFinish c).modChan c Channel.drainWork

/-- Whether every Front stream has come to rest. -/
def Channel.frontRests (x : Channel) : Bool := x.front.streams.toList.all (fun t => !t.busy)

/-! ## Starting (R34, R57, R336, R338) -/

/-- The counts of the present command are set to 0 (R161, R170, R205, R241, R263, R353): draws, VEC_STAT and the clip
pairs, the WIN_, ATT_, SCAN_ and BARO_ counts. -/
def Channel.zeroCounts (x : Channel) : Channel :=
  let zero := (List.range 32).map (fun k => 0x13000 + 4 * k) ++
    [VEC_STAT, WIN_VEC, WIN_SKIPV, WIN_SKIPT, WIN_INIT, WIN_SLOW_AC, WIN_CLIP, WIN_HALO_AC, ATT_BLOCKS, ATT_EMPTY, ATT_PROMO,
     SCAN_STEPS, SCAN_NORMS, SCAN_OUT, SCAN_CLIP, SCAN_FENCE_FC, BARO_STALL_BANK, BARO_STALL_DRAM, BARO_STALL_RING,
     BARO_STALL_LINK, BARO_STALL_HALO, BARO_STALL_HOST, BARO_RUN_AC]
  { zero.foldl (fun (y : Channel) o => y.setReg o 0) x with draws := Vector.replicate 3 0 }

/-- The registers that hold counts a freeze image records (R346): as zeroed at a start. -/
def countRegs : List Nat :=
  (List.range 33).map (fun k => 0x13000 + 4 * k) ++
    [WIN_VEC, WIN_SKIPV, WIN_SKIPT, WIN_INIT, WIN_SLOW_AC, WIN_CLIP, WIN_HALO_AC, ATT_BLOCKS, ATT_EMPTY, ATT_PROMO,
     SCAN_STEPS, SCAN_NORMS, SCAN_OUT, SCAN_CLIP, SCAN_FENCE_FC, BARO_STALL_BANK, BARO_STALL_DRAM, BARO_STALL_RING,
     BARO_STALL_LINK, BARO_STALL_HALO, BARO_STALL_HOST, BARO_RUN_AC, PTU_CMD_OPS]

/-- The sequencer state a program starts with (R34): only the generator key passes on. -/
def Seq.fresh (q : Seq) (m : Cmd) (epoch : Word) : Seq :=
  let q : Seq := { key := q.key, pc := m.prog.extractLsb' 0 15 }
  ((((q.ws 1 m.arg).ws 2 (m.argLen.zeroExtend 64)).ws 3 m.seq).ws 4 m.deadline).ws 5 (epoch.zeroExtend 64)

/-- Marks what an earlier command left in an array: it writes no register of the next (R34). -/
def Arr.leftOver (a : Arr) : Arr :=
  { a with queue := a.queue.map (fun i => { i with stale := true }), run := a.run.map (fun i => { i with stale := true }) }

/-- What a start leaves behind of the command before: the arrays' stationary state is empty (R130), the counts are 0, no
ring side counts as bound by the command, nothing of it is replayed, and its work still in the arrays is marked. -/
def Channel.freshStart (x : Channel) (m : Cmd) : Channel :=
  let x := x.zeroCounts
  let x := x.setReg PTU_CMD_OPS 0
  { x with
    seq := x.seq.fresh m (x.reg ALM_EPOCH)
    arrs := x.arrs.map (fun a => { a.leftOver with loaded := false })
    rings := x.rings.map (fun d => { d with xp := false, xc := false })
    ptu := { x.ptu with insOps := [], skipIns := [], discard := 0 } }

/-- The class charge of LINKB in this frame (R338). -/
def Channel.charged (x : Channel) (cls : Nat) : Nat := x.alm.linkb.get (Fin.ofNat 16 cls)

/-- Charges LINKB to a class (R338). -/
def Channel.charge (x : Channel) (cls n : Nat) : Channel :=
  x.modAlm (fun a => { a with linkb := a.linkb.set (Fin.ofNat 16 cls).val (a.linkb.get (Fin.ofNat 16 cls) + n) (Fin.ofNat 16 cls).isLt })

/-- The grant, the charge and the budget of a start check (R338): in a slot, those of the entry. -/
def Channel.slotTerms (x : Channel) (r : RunCmd) : Option Decl × Nat × Nat :=
  match r.src with
  | .ring => (none, 0, r.limit)
  | _ => if !x.alm.running then (none, 0, r.limit) else let e := bkEnt x.bank r.entry; (some (bkGrant x.bank e.cls), x.charged e.cls, r.limit)

/-- A command of the ring has ended without running: it waits for its commit with this outcome (R54). -/
def State.endUnrun (s : State) (c : ChId) (r : RunCmd) (status : Byte) (code : BitVec 16) : State :=
  let s := if status = 0x03 then s.modChan c (fun x => x.setReg ALM_REFUSED (code.zeroExtend 32)) else s
  s.modChan c (fun x => (x.setStage r.cmd.seq .finished).modCmd (fun d => { d with done := d.done ++
    [{ r with phase := .finished, status := status, code := code, start := s.now, endT := s.now, epoch := x.reg ALM_EPOCH,
              flags := if status = 0x03 then r.flags ||| 0x20 else r.flags }] }))

/-- The record-level code of a command (R52, R53, R64): the lowest that holds; 0 for none. -/
def Channel.rcdCode (x : Channel) (m : Cmd) : Nat :=
  let top := x.dramTop
  let p := m.prog.toNat
  let a := m.arg.toNat
  let n := m.argLen.toNat
  firstCode
    [(m.kind.toNat < 1 || 6 < m.kind.toNat, 0xF0),
     (m.flags.toNat ≥ 8 || (m.flags.getLsbD 2 && m.kind != 0x01), 0xF1),
     (match m.kind.toNat with
      | 1 => top ≤ a || top < a + n || top ≤ m.out.toNat
      | 2 => p % 8 != 0 || n % 8 != 0 || top < p + n || 32768 < a % 32768 + n / 8
      | 3 => top < p + n
      | 6 => top < p + 768
      | _ => false, 0xF2)]

/-- Whether a command's deadline has passed at its start check (R57). -/
def State.expired (s : State) (m : Cmd) : Bool := m.flags.getLsbD 0 && decide (m.deadline ≤ s.now)

/-- A class R event, a drain or a cut has made a Hail entry miss or fail, or it has passed: the outcome and its frame
(R335, R439). 1 pass, 2 missed, 3 failed. -/
def Channel.hailOutcome (x : Channel) (o : Nat) (frame : Word) : Channel :=
  let x := (x.setReg CH_HAIL_STAT (BitVec.ofNat 32 o)).setReg CH_HAIL_FRAME frame
  if o == 2 then (x.inc ALM_HAILMISS 1).orReg ALM_STAT 0x20 else x

/-- Whether a run is that of a Hail standing record (R330, R438). -/
def RunCmd.hailRun (r : RunCmd) : Bool :=
  match r.src with | .standing _ => r.cmd.hail | _ => false

/-- A run that its start check refuses (R338): a command waits for its commit, a standing run for its report; a Hail
entry is missed. -/
def State.refuseRun (s : State) (c : ChId) (r : RunCmd) (code : Nat) : State :=
  match r.src with
  | .standing _ =>
    let h := r.hailRun
    let r' := { r with phase := .finished, status := if h then 0x01 else 0x03, verdict := if h then 2 else 0 }
    let r' := { r' with code := if h then 0 else BitVec.ofNat 16 code, start := s.now, endT := s.now, flags := r.flags ||| 0x20 }
    s.modChan c (fun x =>
      let x := x.setReg ALM_REFUSED (BitVec.ofNat 32 code)
      let x := x.modCmd (fun d => { d with run := some { r' with epoch := x.reg ALM_EPOCH } })
      if h then x.hailOutcome 2 r.frame else x)
  | _ => s.endUnrun c r 0x03 (BitVec.ofNat 16 code)

/-- A run takes the sequencer (R34, R338, R419): its counts are 0, its LINKB is charged, and it counts as a start. A THAW begins
with the reading of its image (R351). -/
def State.beginRun (s : State) (c : ChId) (r : RunCmd) : State :=
  s.modChan c (fun x =>
    let h := x.header (r.cmd.prog.toNat % 0x8000)
    let x := match r.src with
      | .ring => x
      | _ => x.charge (bkEnt x.bank r.entry).cls (if r.cmd.kind == 0x06 then 0 else (hdDecl h).linkb)
    let est := if r.est != 0 || r.cmd.kind == 0x06 then r.est else hdEst h
    ((x.freshStart r.cmd).setReg BARO_LATE (BitVec.ofNat 32 (cap32 r.late))).modCmd (fun d =>
      { d with run := some { r with est := est, phase := .started, epoch := x.reg ALM_EPOCH, start := s.now, endT := s.now },
               starts := d.starts + 1 }))

/-- Starts a command or a standing run (R57, R338): record-level codes, the deadline, the start check; then it takes the
sequencer. A THAW meets its checks once it has read its image (R350). -/
def State.startRun (s : State) (c : ChId) (r : RunCmd) : State :=
  let x := s.chan c
  let standing := match r.src with | .standing _ => true | _ => false
  let code := if standing then 0 else x.rcdCode r.cmd
  if code != 0 then s.endUnrun c r 0x02 (BitVec.ofNat 16 code)
  else if !standing && s.expired r.cmd then s.endUnrun c r 0x01 0
  else if r.cmd.kind == 0x06 then s.beginRun c r
  else
    let t := x.slotTerms r
    let code := x.startCheck (r.cmd.prog.toNat % 0x8000) t.1 t.2.1 t.2.2 true
    if code != 0 then s.refuseRun c r code else s.beginRun c r

/-! ## The end of a run, and commits (R58, R253, R298, R433) -/

/-- The VERDICT of a command's record (R439, R440). -/
def Channel.verdict (x : Channel) (r : RunCmd) : Byte :=
  if r.status ≠ 0 then 0
  else if r.cmd.hail then 1
  else if !x.alm.running then 0
  else if getField (x.reg CH_HAIL_STAT) 1 0 == 1 then 1 else 2

/-- A program that has ended, with no operation outstanding and its Hail check passed, is finished (R58, R438); a retry
that gets so far confirms its transient (R419). -/
def State.finishRun (s : State) (c : ChId) : State :=
  let x := s.chan c
  match x.cmd.run with
  | some r =>
    if r.phase = .ended ∧ x.seq.quiet ∧ !x.halted ∧ !x.freezing ∧ (r.cmd.hail → r.hailOk) then
      let s := s.modChan c (fun x => (x.setStage r.cmd.seq .finished).modRun (fun r => { r with phase := .finished, status := 0x00 }))
      if r.retried then (s.fltAction r.ckRec 2).transient c r.ckSrc r.ckRec else s
    else s
  | none => s

/-- What a run's end does to the state it held back: set-points (R298), state slots (R253), registers written through
SYS.CSR for its duration (R151). -/
def State.settleRun (s : State) (c : ChId) (r : RunCmd) : State :=
  let s := s.spGate c r.cmd.seq (r.status = 0x00)
  s.modChan c (fun x =>
    let x := x.scanCommit (r.status = 0x00)
    { x.restore.foldl (fun (y : Channel) e => y.setReg e.1 e.2) x with restore := [] })

/-- The Almanac entry of a run ends with it; a FILL entry stays open (R332, R333). When the next entry's gate was met stays noted
(R353). -/
def Channel.closeEntry (x : Channel) : Channel :=
  if x.alm.running && x.alm.isOpen && (bkEnt x.bank x.alm.entry).typ != 1 then
    x.modAlm (fun a => { a with isOpen := false, entry := a.entry + 1 })
  else x

/-- Takes a freeze, or refuses it, at a command boundary at `t`: the context is empty (R345, R352). A request that the next
protected boundary leaves no room for, or that finds FROZEN 1, is refused. -/
def Channel.boundaryFreeze (x : Channel) (fits : Bool) (t : Dword) : Channel :=
  if x.bit FRZ_STAT 0 && x.cmd.run.isNone then
    if fits && x.frz.isNone then
      (x.setReg FRZ_STAT ((x.reg FRZ_STAT &&& ~~~0x11) ||| 0x12)).modCmd (fun d => { d with frzAt := t })
    else (x.setReg FRZ_STAT ((x.reg FRZ_STAT &&& ~~~0x1) ||| 0x8)).clrReg FRZ_CTRL 1
  else x

/-- The command a freeze sets aside: that of the sequencer, or the one a THAW brings back (R352). -/
def Channel.frzRun (x : Channel) : Option RunCmd :=
  match x.cmd.run with
  | none => none
  | some r => if r.cmd.kind == 0x06 then x.frz.bind (·.run) else some r

/-- The accumulator ranges a freeze saves (R346). -/
def Channel.frzAccs (x : Channel) : List (Fin 2 × Nat × Nat) :=
  match x.frzRun with
  | none => [(0, 0, 4096), (1, 0, 4096)]
  | some r =>
    let d := hdDecl (x.header (r.cmd.prog.toNat % 0x8000))
    [(0, d.a0lo, d.a0n), (1, d.a1lo, d.a1n)]

/-- The entries of a range that lie in no LIVE slot. -/
def Channel.frzEntries (x : Channel) (q : Fin 2 × Nat × Nat) : List Nat :=
  ((List.range q.2.2).map (q.2.1 + ·)).filter (fun e => !x.slotOwns q.1 e 1)

/-- The rings a freeze saves (R346), those that a THAW at work restores included. -/
def Channel.frzRings (x : Channel) : List (Nat × RingD) :=
  let now := ((List.range 64).map (fun r => (r, x.rings.get (Fin.ofNat 64 r)))).filter (fun q => q.2.valid && q.2.live && !x.outside q.1)
  match x.cmd.run, x.frz with
  | some _, some f => now ++ f.rings.filter (fun q => !now.any (fun p => p.1 == q.1))
  | _, _ => now

/-- The length of a slot's section (R259). -/
def Slot.secLen (t : Slot) : Nat := 64 + ceilDiv t.rows 64 * 64 + 512 * t.entries

/-- The LIVE slots. -/
def Channel.liveSlots (x : Channel) : List Nat := (List.range 32).filter (fun n => (x.slot n).state == 1)

/-- `n` rounded up to a multiple of `k`. -/
def upTo (k n : Nat) : Nat := ceilDiv n k * k

/-- The bytes of a freeze image (R345, R349): the fixed sections, the rings, the accumulator entries, the LIVE slots. With `whole`
the bound of R345, which takes each ring's SIZE; else the image itself, with each ring's record and its fill. -/
def Channel.frzBytes (x : Channel) (whole : Bool) : Nat :=
  239360 + (x.frzRings.map (fun q => if whole then q.2.size.toNat else 64 + upTo 128 q.2.fill)).foldl (· + ·) 0 +
  512 * (x.frzAccs.map (fun q => (x.frzEntries q).length)).foldl (· + ·) 0 +
  (x.liveSlots.map (fun n => (x.slot n).secLen)).foldl (· + ·) 0

/-- Whether an image written from now on at 18.07 GB/s ends before the next protected boundary of a running Almanac
(R345): bytes ÷ 18.07 are ns. -/
def State.frzFits (s : State) (c : ChId) : Bool :=
  let x := s.chan c
  !x.alm.running || decide ((x.frzBytes false) * 100 < (x.horizon - s.nowNs) * 1807)

/-- A pending freeze meets a command boundary. -/
def State.meetFreeze (s : State) (c : ChId) : State :=
  s.modChan c (fun x => x.boundaryFreeze (s.frzFits c) s.now)

/-- Commits a finished command (R58, R433): its report, its record, the write-back area, its interrupt; its place in the
acceptance table is free. A number the table does not hold is dropped and counted. An ABORTED record carries the time of its write
(R434). -/
def State.commitRcd (s : State) (c : ChId) (r : RunCmd) (own : Bool) : State :=
  let x := s.chan c
  if !x.cmd.table.any (fun e => e.seq == r.cmd.seq) then s.inc (SAFE_DUP c.val) 1
  else
    let s := if x.bit BARO_CTRL 0 then
        s.hostWrite ((x.reg64 BARO_BASE).toNat + 64 * (r.cmd.seq.toNat % 2 ^ getField (x.reg BARO_SIZE) 4 0)) (x.report r own)
      else s
    let at_ (t : Dword) : Dword := if r.status = 0x04 then s.now else t
    let s := s.putCpl c (cplRcd r.cmd.seq (at_ r.start) (at_ r.endT) r.epoch r.status (x.verdict r) r.code)
    let s := s.modChan c (fun x => x.modCmd (fun d => { d with table := d.table.filter (fun e => e.seq != r.cmd.seq) }))
    if r.cmd.flags.getLsbD 1 && x.bit CH_CTRL 1 then s.signal (2 * c.val) else s

/-- The sequence number the next commit must carry (R55, R351): the lowest accepted and uncommitted one, the frozen
command's apart. -/
def Channel.commitSeq (x : Channel) : Option Nat :=
  let frozen := match x.frz with
    | some f => (match f.run with | some r => some r.cmd.seq | none => none)
    | none => none
  minNat? ((x.cmd.table.filter (fun e => some e.seq != frozen)).map (fun e => e.seq.toNat))

/-- The sequencer's command has been committed or stopped: what it held back is settled, its entry ends, a THAW that brought it
back is done (R351), a pending freeze finds the boundary. With `stay` it waits for its commit. -/
def State.leaveRun (s : State) (c : ChId) (r : RunCmd) (stay : Bool) : State :=
  let s := s.settleRun c r
  let s := s.modChan c (fun x =>
    let x := x.modCmd (fun d => { d with run := none, done := if stay then d.done ++ [{ r with stalls := x.stalls }] else d.done })
    match r.src with | .ring => x | _ => x.closeEntry)
  let s := match r.thaw with
    | some m => s.endUnrun c { cmd := m, src := r.src, entry := r.entry, frame := r.frame } 0x00 0
    | none => s
  s.meetFreeze c

/-- A host command that was stopped and has drained has ended (R332): it leaves the sequencer and waits for its commit. -/
def State.endStopped (s : State) (c : ChId) : State :=
  match (s.chan c).cmd.run with
  | none => s
  | some r =>
    match r.src with
    | .standing _ => s
    | _ => if r.phase = .finished ∧ r.status ≠ 0x00 then s.leaveRun c r true else s

end Sys2Proof.Machine
end

