-- ==== Sys2Proof/Machine/Command.lean ====
section
/-!
DEFINITION. The command path of a channel (R51 to R63, R339 to R341): records, acceptance, starts, the kinds, completions.
(DEDUCED, log entry 39.)
-/

namespace Sys2Proof.Machine

open Sys2Proof

/-! ## Fetching and acceptance (R55, R56, R61, R62, R431, R432) -/

/-- The host writes CH_CMD_TAIL (R62): a value more than the ring ahead of HEAD is ignored and sets TAIL_ERR. -/
def State.cmdTail (s : State) (c : ChId) (v : Word) : State :=
  let x := s.chan c
  if (v - x.reg CH_CMD_HEAD).toNat > x.cmdSize then s.chError c 0x10
  else s.modChan c (fun x => x.setReg CH_CMD_TAIL v)

/-- CH_CMD_TAIL is written (R62). -/
def execChCmdTailWrite (ch : ChId) (v : Word) (s : State) : Out := .next (s.atPort (fun s => s.cmdTail ch v))

/-- The channel reads the next record (R56): fetching is on, the ring holds one, at most seven commands are uncommitted,
and no record is on its way. -/
def execRecordFetch (ch : ChId) (s : State) : Out :=
  .next (s.modChan ch (fun x =>
    if x.fenced || !x.bit CH_CTRL 0 || x.reg CH_CMD_HEAD == x.reg CH_CMD_TAIL || x.cmd.table.length ≥ 8 ||
        x.cmd.fetch.isSome || x.cmd.arrived.isSome then x
    else x.modCmd (fun d => { d with fetch := some ((x.reg CH_CMD_HEAD).toNat), again := false })))

/-- Fetching stops with an error (R55). -/
def State.fetchError (s : State) (c : ChId) (bits : Word) : State :=
  (s.modChan c (fun x => x.clrReg CH_CTRL 1)).chError c bits

/-- The record arrives (R55): its CRC and its sequence number decide whether it goes on to the journal. It is discarded
when fetching has been switched off. -/
def execRecordArrival (ch : ChId) (s : State) : Out :=
  .next (
    let x := s.chan ch
    match x.cmd.fetch with
    | none => s
    | some k =>
      let b := rdBytes s.hostMem ((x.reg64 CH_CMD_BASE).toNat + 64 * (k % x.cmdSize)) 64
      let m := cmdOf b
      let s := s.modChan ch (fun x => x.modCmd (fun d => { d with fetch := none, again := false }))
      if x.fenced || !x.bit CH_CTRL 0 then s
      else if !rcdCrcOk b then s.fetchError ch 0x8
      else if m.seq = 0 ∨ m.seq ≠ x.reg64 CH_SEQ_NEXT then s.fetchError ch 0x4
      else s.modChan ch (fun x => x.modCmd (fun d => { d with arrived := some (m, b) })))

/-- The lowest journal slot that is free (R432). -/
def freeSlot (t : List Accept) : Nat := ((List.range 8).find? (fun k => !t.any (fun e => e.slot == k))).getD 8

/-- The journal copy is written (R56, R431): the command is accepted and acknowledged. -/
def execJournalWriteDone (ch : ChId) (s : State) : Out :=
  .next (
    let x := s.chan ch
    match x.cmd.arrived with
    | none => s
    | some (m, b) =>
      let k := freeSlot x.cmd.table
      if x.dramHeld then s
      else
      let s := s.modChan ch (fun x => x.dramTurn.modCmd (fun d => { d with arrived := none }))
      if x.fenced || !x.bit CH_CTRL 0 || k ≥ 8 then s
      else
        let s := s.modChan ch (fun x =>
          let x := x.dramWrite ((x.reg64 CH_JRNL_BASE).toNat + 64 * k) b
          let x := ((x.setReg64 CH_CMD_ACK m.seq).setReg64 CH_SEQ_NEXT (m.seq + 1)).setReg CH_CMD_HEAD (x.reg CH_CMD_HEAD + 1)
          x.modCmd (fun d => { d with accepted := d.accepted ++ [m], table := d.table ++ [{ seq := m.seq, slot := k }] }))
        s.writeBack ch)

/-- A timed-out read of a record (R446): it is retried once; the second time-out stops the fetching. The tag of a channel whose
leases are revoked returns to the pool (R427). -/
def execPcieCompletionTimeout (ch : ChId) (s : State) : Out :=
  .next (
    let d := (s.chan ch).cmd
    if d.fetch.isNone then s
    else if (s.chan ch).fenced then s.modChan ch (fun x => x.modCmd (fun d => { d with fetch := none, again := false }))
    else if !d.again then s.modChan ch (fun x => x.modCmd (fun d => { d with again := true }))
    else (s.modChan ch (fun x => x.modCmd (fun d => { d with fetch := none, again := false }))).fetchError ch 0x8)

/-- The host writes CH_CPL_CONS (R62): a value that would pass PROD is ignored and sets CONS_ERR. -/
def State.cplCons (s : State) (c : ChId) (v : Word) : State :=
  let x := s.chan c
  if (v - x.reg CH_CPL_CONS).toNat > (x.reg CH_CPL_PROD - x.reg CH_CPL_CONS).toNat then s.chError c 0x20
  else s.modChan c (fun x => x.setReg CH_CPL_CONS v)

/-- CH_CPL_CONS is written (R62). -/
def execChCplConsWrite (ch : ChId) (v : Word) (s : State) : Out := .next (s.atPort (fun s => s.cplCons ch v))

/-- The pending numbers of a channel (R435). -/
def State.pendSeqs (s : State) (c : ChId) : List Dword :=
  ((List.range 8).map (fun j => s.reg64 (SAFE_PEND c.val + 8 * j))).filter (· ≠ 0)

/-- Puts a number into its place in an ascending list. -/
def insertSeq (q : Dword) : List Dword → List Dword
  | [] => [q]
  | p :: r => if q.toNat ≤ p.toNat then q :: p :: r else p :: insertSeq q r

/-- Numbers in ascending order. -/
def sortSeqs (l : List Dword) : List Dword := l.foldr insertSeq []

/-- A write of CH_CTRL (R63, R435): the first that sets FETCH_EN after a reset commits the pending numbers ABORTED. -/
def State.chCtrl (s : State) (c : ChId) (v : Word) : State :=
  let s := s.modChan c (fun x => x.setReg CH_CTRL (v &&& 0x7))
  if v.getLsbD 0 && s.bit SAFE_PENDV c.val then
    let s := (sortSeqs (s.pendSeqs c)).foldl (fun (s : State) q => s.putAborted c q 0) s
    s.clrReg SAFE_PENDV (BitVec.ofNat 32 (2 ^ c.val))
  else s

/-- CH_CTRL is written with FETCH_EN = 1 (R435). -/
def execFetchEnable (ch : ChId) (v : Word) (s : State) : Out := .next (s.atPort (fun s => s.chCtrl ch (v ||| 1)))

/-! ## Starting (R326, R57) -/

/-- Whether the sequencer is free to take a command (R57, R59, R473): nothing runs, no freeze image is written, no
finished command waits on a full ring, and the channel is neither fenced nor parked. -/
def State.seqFree (s : State) (c : ChId) : Bool :=
  let x := s.chan c
  !x.fenced && s.point c != 3 && x.cmd.run.isNone && !x.freezing && !(x.cplFull && x.waiting)

/-- Whether a kind needs no sequencer (R326): LOAD_PROG, LOAD_ALM, SWITCH, MARK, and the undefined ones. -/
def sideKind (k : Byte) : Bool := k != 0x01 && k != 0x06

/-- The head of the accepted commands leaves the list: it has started. -/
def Channel.popHead (x : Channel) : Channel :=
  match x.cmd.accepted with
  | [] => x
  | m :: r => (x.setStage m.seq .started).modCmd (fun d => { d with accepted := r })

/-- The command at the head starts (R57, R326). With the Almanac stopped it needs the sequencer and nothing beside it; with
the Almanac running only a kind that needs no sequencer starts here. It counts as a start (R419). -/
def execCommandStart (ch : ChId) (s : State) : Out :=
  .next (
    let x := s.chan ch
    match x.cmd.accepted with
    | [] => s
    | m :: _ =>
      let r : RunCmd := { cmd := m, limit := m.budget.toNat, frame := x.reg ALM_FRAME }
      let t := s.modChan ch Channel.popHead
      let full := x.cplFull && x.waiting
      if x.fenced || s.point ch == 3 || x.cmd.side.isSome || full then s
      else if sideKind m.kind then
        if !x.alm.running && x.cmd.run.isSome then s
        else
          let code := x.rcdCode m
          if code != 0 then t.endUnrun ch r 0x02 (BitVec.ofNat 16 code)
          else if s.expired m then t.endUnrun ch r 0x01 0
          else if m.kind == 0x04 && m.argLen.toNat > 3 then t.endUnrun ch r 0x03 0x0014
          else t.modChan ch (fun x => x.modCmd (fun d => { d with side := some r, starts := d.starts + 1 }))
      else if x.alm.running || !s.seqFree ch then s
      else t.startRun ch r)

/-- RUN (R34, R52): the registers are set and the first instruction can issue; START is stamped, and the counts of the
header's rings are noted for a retry (R417). -/
def execKindRun (ch : ChId) (s : State) : Out :=
  .next (
    let x := s.chan ch
    match x.cmd.run with
    | some r =>
      if r.phase ≠ .started ∨ r.cmd.kind ≠ 0x01 ∨ x.fenced then s
      else
        let rings := (hdDecl (x.header (r.cmd.prog.toNat % 0x8000))).rings
        let save := ((List.range 64).filter (bitOf rings)).map (fun k =>
          let d := x.rings.get (Fin.ofNat 64 k); (k, d.head, d.tail))
        s.modChan ch (fun x => x.modRun (fun r =>
          { r with phase := .running, acs := 0, start := s.now, endT := s.now, epoch := x.reg ALM_EPOCH,
                   ringSave := if r.retried then r.ringSave else save }))
    | none => s)

/-! ## The kinds that need no sequencer -/

/-- The command beside the sequencer has done its work: it waits for its commit. A retry that gets so far confirms its transient
(R419). -/
def State.sideEnd (s : State) (c : ChId) (status : Byte) (code : Nat) : State :=
  match (s.chan c).cmd.side with
  | none => s
  | some r =>
    let t := (s.modChan c (fun x => x.modCmd (fun d => { d with side := none }))).endUnrun c r status (BitVec.ofNat 16 code)
    if r.retried then (t.fltAction r.ckRec 2).transient c r.ckSrc r.ckRec else t

/-- The command beside the sequencer, if it has kind `k` and no checker event has stopped it. -/
def Channel.sideOf (x : Channel) (k : Byte) : Option Cmd :=
  match x.cmd.side with
  | some r => if r.cmd.kind = k && r.phase == .started && !x.fenced then some r.cmd else none
  | none => none

/-- Writes an image of `n` instructions from index `a`, with fresh check bits (R36, R340). -/
def PMem.load (m : PMem) (a : Nat) (bs : List Byte) : PMem :=
  let n := bs.length / 8
  if n == 0 then m
  else
    { words := ssets 0 m.words a ((List.range n).map (fun i => BitVec.ofNat 64 (field bs (8 * i) 8)))
      err := sclear m.err a n
      images := (a, n) :: m.images.filter (fun e => !(a ≤ e.1 && e.1 + e.2 ≤ a + n)) }

/-- What a load's own reads have raised from `x` to `y` stands apart: it concerns the load (R414). -/
def Channel.readAside (x y : Channel) : Channel :=
  { y with raised := x.raised, aside := y.aside ++ y.raised.drop x.raised.length }

/-- LOAD_PROG (R52, R340). An uncorrectable DRAM word stops it before it writes (R66, R414). -/
def execKindLoadProg (ch : ChId) (s : State) : Out :=
  .next (
    match (s.chan ch).sideOf 0x02 with
    | none => s
    | some m =>
      let x := s.chan ch
      let a := m.arg.toNat % 0x8000
      let n := m.argLen.toNat
      if x.progBusy a (n / 8) then s.sideEnd ch 0x03 0x0016
      else if x.dramHeld || x.halted || !x.aside.isEmpty then s
      else
        let x := x.dramTurn
        let q := x.dramRead m.prog.toNat n
        if q.2.2 then s.setChan ch (x.readAside q.2.1)
        else (s.setChan ch { q.2.1 with pm := q.2.1.pm.load a q.1 }).sideEnd ch 0x00 0)

/-- LOAD_ALM (R339): the image is read into the inactive bank and checked; while a switch is armed the bank is left alone. -/
def execKindLoadAlm (ch : ChId) (s : State) : Out :=
  .next (
    match (s.chan ch).sideOf 0x03 with
    | none => s
    | some m =>
      let x := s.chan ch
      if x.dramHeld || x.halted || !x.aside.isEmpty then s
      else
      let n := m.argLen.toNat
      let b := x.alm.inactive
      let x := x.dramTurn
      let q := x.dramRead m.prog.toNat n
      if q.2.2 then s.setChan ch (x.readAside q.2.1)
      else
      let img := wrBytes [] 0 (q.1.take 0x11000)
      let code := q.2.1.loadCode img n
      let y := if x.alm.armed.isSome then q.2.1
        else q.2.1.modAlm (fun a => { a with banks := a.banks.set b.val img b.isLt, loaded := a.loaded.set b.val (code == 0) b.isLt })
      (s.setChan ch y).sideEnd ch (if code == 0 then 0x00 else 0x03) code)

/-- SWITCH with rule `k` (R341, R343): `allowed` tells whether the present state allows the rule; `useBank` whether the rule
needs the inactive bank. -/
def State.switchRule (s : State) (ch : ChId) (k : Nat) (allowed : Cmd → Bool) (useBank : Bool) (f : Cmd → Channel → Channel) : State :=
  match (s.chan ch).sideOf 0x04 with
  | none => s
  | some m =>
    if m.argLen.toNat ≠ k then s
    else
      let x := s.chan ch
      let code := firstCode
        [(useBank && !x.alm.loaded.get x.alm.inactive, 0x0013), (!allowed m, 0x0014),
         (useBank && x.strands (x.alm.bank x.alm.inactive), 0x0015)]
      if code != 0 then s.sideEnd ch 0x03 code else (s.modChan ch (f m)).sideEnd ch 0x00 0

/-- Arms a rule. -/
def Channel.armRule (x : Channel) (k : Option Nat) (t : Dword) : Channel :=
  (x.setReg64 ALM_SWTIME t).modAlm (fun a => { a with armed := k })

/-- SWITCH rule 0, next (R341). -/
def execSwitchNext (ch : ChId) (s : State) : Out :=
  let a := (s.chan ch).alm
  .next (s.switchRule ch 0 (fun _ => a.running && a.armed.isNone) true (fun _ x => x.armRule (some 0) 0))

/-- SWITCH rule 1, timed (R341). -/
def execSwitchTimed (ch : ChId) (s : State) : Out :=
  let a := (s.chan ch).alm
  .next (s.switchRule ch 1 (fun m => a.armed.isNone && decide (s.now < m.arg)) true (fun m x => x.armRule (some 1) m.arg))

/-- SWITCH rule 2, stop (R341). -/
def execSwitchStop (ch : ChId) (s : State) : Out :=
  let a := (s.chan ch).alm
  .next (s.switchRule ch 2 (fun _ => a.running && a.armed.isNone) false (fun _ x => x.armRule (some 2) 0))

/-- SWITCH rule 3, disarm (R341). -/
def execSwitchDisarm (ch : ChId) (s : State) : Out :=
  let a := (s.chan ch).alm
  .next (s.switchRule ch 3 (fun _ => a.armed.isSome) false (fun _ x => x.armRule none 0))

/-- MARK (R52): does nothing and completes DONE in order. -/
def execKindMark (ch : ChId) (s : State) : Out :=
  .next (if ((s.chan ch).sideOf 0x05).isSome then s.sideEnd ch 0x00 0 else s)

/-! ## Stops and commits -/

/-- Whether a command's budget counts (R60, R351): a program issues, or a THAW reads and restores its image. -/
def RunCmd.budgeted (r : RunCmd) : Bool :=
  r.phase == .running || (r.cmd.kind == 0x06 && (r.phase == .started || r.phase == .loading))

/-- A command reaches its budget (R60, R334, R351): it stops as for exception BUDGET. -/
def execBudgetStop (ch : ChId) (s : State) : Out :=
  .next (
    let x := s.chan ch
    match x.cmd.run with
    | some r =>
      if r.budgeted ∧ r.limit ≠ 0 ∧ r.acs ≥ r.limit ∧ !x.halted ∧ !x.fenced then
        let pc := x.seq.pc
        let o : Org := ⟨pc, sget 0 x.pm.words pc.toNat⟩
        let s := s.modChan ch (fun x => x.modRun (fun r => { r with flags := r.flags ||| 0x2 }))
        if r.phase = .running then s.except ch .budget o false
        else (s.excRecord ch .budget o false r.cmd.seq).modChan ch (fun x =>
          x.stopRun 0x02 ((excWord .budget o.word false).extractLsb' 0 16))
      else s
    | none => s)

/-- The engine work of a stopped command has drained (R66, R121, R416). The command then waits for its commit, or for the
supervisor's decision. END of a command that an exception, a cut or its budget stopped is this instant: R54 gives it the time of
the last token, and a stopped command's tokens do not all come in. A missed Hail run keeps the instant of its miss (R439).
(DESIGN CHOICE, log entry 55.) -/
def execCommandStopDrain (ch : ChId) (s : State) : Out :=
  .next (
    let x := s.chan ch
    match x.cmd.run with
    | some r =>
      if !x.frontRests then s
      else if r.phase = .stopping then
        let s := (s.drainWork ch).modChan ch (fun x => (x.setStage r.cmd.seq .finished).modRun (fun r =>
          { r with phase := .finished, endT := if r.hailRun && r.status == 0x01 then r.endT else s.now }))
        (if r.retried then (s.fltAction r.ckRec 2).transient ch r.ckSrc r.ckRec else s).endStopped ch
      else if r.phase = .checker then
        (s.drainWork ch).modChan ch (fun x => x.modRun (fun r => { r with phase := .drained, endT := s.now }))
      else s
    | none => s)

/-- A finished command commits (R58, R59, R433): the lowest uncommitted number first, while the completion ring has
space. -/
def execCommandCommit (ch : ChId) (s : State) : Out :=
  .next (
    let s := s.finishRun ch
    let x := s.chan ch
    if x.fenced || x.cplFull then s
    else
      let due (r : RunCmd) : Bool :=
        r.phase == .finished && (some r.cmd.seq.toNat == x.commitSeq || !x.cmd.table.any (fun e => e.seq == r.cmd.seq))
      match x.cmd.done.find? due with
      | some r =>
        (s.modChan ch (fun x => x.modCmd (fun d => { d with done := d.done.erase r }))).commitRcd ch r false
      | none =>
        match x.cmd.run with
        | some r =>
          let host := match r.src with | .standing _ => false | _ => true
          if host && due r then (s.commitRcd ch r true).leaveRun ch r false else s
        | none => s)

end Sys2Proof.Machine
end

