-- ==== Sys2Proof/Machine/Almanac.lean ====
section
/-!
DEFINITION. The running Almanac (R326 to R336, R341, R342): frames, openings, protected boundaries, switches, standing reports.
(DEDUCED, log entries 40 and 41.)
-/

namespace Sys2Proof.Machine

open Sys2Proof

/-- The run identifier of entry `i` in a frame (R336). -/
def runId (i : Nat) (frame : Word) : Dword := BitVec.ofNat 64 (2 ^ 63 + i % 0x8000 * 2 ^ 48 + frame.toNat)

/-- Writes a report of a standing run: its Barometer report first, its completion record last (R336). The manual gives no
content to bytes 96 to 127. -/
def State.putReport (s : State) (a : Nat) (baro rcd : List Byte) : State :=
  ((s.hostWrite (a + 32) (baro ++ freeBytes s.free 32)).drawFree 32).hostWrite a rcd

/-- A Hail entry is missed before it has opened (R335, R439): its report says EXPIRED, VERDICT 2. -/
def State.missHail (s : State) (c : ChId) (i : Nat) (e : Ent) : State :=
  let x := s.chan c
  let f := x.reg ALM_FRAME
  let m : Cmd := ⟨runId i f, 0x01, 0, 4, 0, 0, 0, 0, 0, 0⟩
  let r : RunCmd := { cmd := m, entry := i, frame := f, flags := 0x8 }
  let s := s.putReport (bkSrpt x.bank + 128 * e.stand) (x.report r false) (cplRcd m.seq s.now s.now (x.reg ALM_EPOCH) 0x01 2 0)
  s.modChan c (fun x => x.hailOutcome 2 f)

/-- Entries [i, i + n) are skipped (R327, R332, R334). -/
def State.skipEnts (s : State) (c : ChId) : Nat → Nat → State
  | _, 0 => s
  | i, n + 1 =>
    let e := bkEnt (s.chan c).bank i
    let s := s.modChan c (fun x => x.inc ALM_SKIP 1)
    State.skipEnts (if e.typ == 2 then s.missHail c i e else s) c (i + 1) n

/-- A cut run of a Hail entry: the entry is missed (R335, R439). -/
def State.cutHail (s : State) (c : ChId) (r : RunCmd) : State :=
  if r.hailRun then
    s.modChan c (fun x => (x.hailOutcome 2 r.frame).modRun (fun r =>
      { r with status := 0x01, verdict := 2, code := 0, start := s.now, endT := s.now }))
  else s

/-- Counts a cut (R334). -/
def Channel.noteCut (x : Channel) : Channel :=
  ((x.inc ALM_CUT 1).orReg ALM_STAT 0x10).modRun (fun r => { r with flags := r.flags ||| 0x1 })

/-- Cuts the running command (R334): it stops as for exception BUDGET. One that awaits its retry is retried no more, which
counts as a skipped retry (R418). -/
def State.cutRun (s : State) (c : ChId) : State :=
  match (s.chan c).cmd.run with
  | none => s
  | some r =>
    let pc := (s.chan c).seq.pc
    let o : Org := ⟨pc, sget 0 (s.chan c).pm.words pc.toNat⟩
    let code : BitVec 16 := (excWord .budget o.word false).extractLsb' 0 16
    let live := r.phase = .started ∨ r.phase = .loading ∨ r.phase = .running ∨ r.phase = .ended
    if live then
      let s := s.excRecord c .budget o false r.cmd.seq
      (s.modChan c (fun x => x.noteCut.stopRun 0x02 code)).cutHail c r
    else if r.phase = .checker ∨ r.phase = .drained then
      let s := s.modChan c (fun x => (x.noteCut.modCmd (fun d => { d with retry := d.retry.filter (· != r.ckRec) })).modRun (fun r =>
        { r with phase := if r.phase = .checker then .stopping else .finished, status := 0x02, code := code }))
      (((s.cutHail c r).fltAction r.ckRec 3).transient c r.ckSrc r.ckRec).endStopped c
    else s

/-- Applies the protected boundary before entry `i` (R334): the cut, and the skips of the entries before it. -/
def State.protect (s : State) (c : ChId) (i : Nat) : State :=
  let s := (s.finishRun c).cutRun c
  let a := (s.chan c).alm
  let s := s.skipEnts c a.ahead (i - a.ahead)
  s.modChan c (fun x => x.modAlm (fun a => { a with entry := i, isOpen := false, gateMet := if a.ahead == i then a.gateMet else none, cut := i + 1 }))

/-- The protected boundary that is due, if any: an entry, or NENT for the end of the frame. One that has been applied is not due
again, though its entry may not have opened yet. -/
def State.protDue (s : State) (c : ChId) : Option Nat :=
  let x := s.chan c
  let j := nextProt x.bank (max x.alm.cut x.alm.ahead)
  if x.protAt j ≤ s.nowNs then some j else none

/-- A protected boundary is due (R334). -/
def execProtectedBoundaryCut (ch : ChId) (s : State) : Out :=
  .next (if !(s.chan ch).alm.running then s else match s.protDue ch with | some j => s.protect ch j | none => s)

/-- The table restarts (R327, R338). -/
def Almanac.restart (a : Almanac) : Almanac :=
  { a with entry := 0, isOpen := false, gateMet := none, plan := 0, cut := 0, linkb := Vector.replicate 16 0 }

/-- A frame ends and the next starts (R327, R334). A rule that takes effect at the frame start does so by its own step. -/
def execAlmFrameStart (ch : ChId) (s : State) : Out :=
  .next (if s.parked ch then s else
    let x := s.chan ch
    if !x.alm.running || x.alm.armed == some 0 || x.alm.armed == some 2 || s.nowNs < x.frame0 + bkFrame x.bank then s
    else
      (s.protect ch (bkNent x.bank)).modChan ch (fun x => (x.inc ALM_FRAME 1).modAlm Almanac.restart))

/-- Starts a bank (R342, R366): its EPOCH, FRAME, PMIN and RESV are taken, and ALM_T0 is the instant of the start. -/
def Channel.almStart (x : Channel) (b : Fin 2) (t0 : Dword) : Channel :=
  let m := x.alm.bank b
  let x := if x.alm.running then x else x.setReg CH_HAIL_STAT 0
  let x := (List.range 8).foldl (fun (y : Channel) p => y.setReg (SPAD_RESV p) (bkResv m p)) x
  let x := ((x.setReg ALM_EPOCH (bkEpoch m)).setReg64 ALM_T0 t0).setReg ALM_FRAME 0
  x.modAlm (fun a => { a.restart with running := true, active := b, armed := none })

/-- A switch takes effect (R341, R342): the old frame's boundary is applied, the new bank starts or the Almanac stops. -/
def execAlmSwitchApply (ch : ChId) (s : State) : Out :=
  .next (if s.parked ch then s else
    let x := s.chan ch
    let fin := x.frame0 + bkFrame x.bank
    match x.alm.armed with
    | some k =>
      let at_ := if k == 1 then nsOf (x.reg64 ALM_SWTIME) else fin
      if x.fenced || s.nowNs < at_ || (k != 1 && !x.alm.running) then s
      else
        let s := if x.alm.running then s.protect ch (bkNent x.bank) else s
        s.modChan ch (fun x =>
          let x := (x.orReg ALM_STAT 0x8).setReg64 ALM_SWTIME 0
          if k == 2 then x.modAlm (fun a => { a.restart with running := false, armed := none })
          else x.almStart x.alm.inactive (shortOf at_))
    | none => s)

/-- Whether entry `i` could open at the boundary `k` µs into the frame, were the one before it ended (R332). -/
def Channel.canOpen (x : Channel) (i k : Nat) : Bool :=
  i < bkNent x.bank && (bkEnt x.bank i).offset ≤ 1000 * k && x.gateOk (bkEnt x.bank i)

/-- Whether a boundary event that comes first is due on this fc (R356): a cut before an entry other than `i`, or a switch. -/
def State.cutFirst (s : State) (c : ChId) (i : Nat) : Bool :=
  let x := s.chan c
  (match s.protDue c with | some j => j != i || i ≥ bkNent x.bank | none => false) ||
  (x.alm.armed == some 1 && nsOf (x.reg64 ALM_SWTIME) ≤ s.nowNs)

/-- The head command, if it is a RUN or THAW of a class (R332). -/
def Channel.headOf (x : Channel) (cls : Nat) : Option Cmd :=
  match x.cmd.accepted with
  | m :: _ => if !sideKind m.kind && m.cls.toNat == cls then some m else none
  | [] => none

/-- The fields of standing record `j` as a command (R330, R336). -/
def Channel.standCmd (x : Channel) (i j : Nat) : Cmd :=
  let m := x.bank
  let o := 1152 + 32 * j
  let h := x.protAt (nextProt m (i + 1))
  let h := if x.alm.armed == some 1 then min h (nsOf (x.reg64 ALM_SWTIME)) else h
  { seq := runId i (x.reg ALM_FRAME), kind := 0x01, cls := 0, flags := if stHail m j then 4 else 0,
    prog := BitVec.ofNat 64 (stProg m j), arg := BitVec.ofNat 64 (rdLe m (o + 8) 8), deadline := shortOf h,
    argLen := BitVec.ofNat 32 (rdLe m (o + 4) 4), budget := 0, out := BitVec.ofNat 64 (rdLe m (o + 16) 8) }

/-- Starts the head command in entry `i` (R332, R333); one that does not run ends its entry (R338). -/
def State.startHead (s : State) (c : ChId) (i : Nat) (e : Ent) (m : Cmd) (late : Nat) : State :=
  let x := s.chan c
  let r : RunCmd := { cmd := m, src := .entry, limit := e.budget, est := e.est, late := late, entry := i, frame := x.reg ALM_FRAME }
  let s := (s.modChan c Channel.popHead).startRun c r
  if (s.chan c).cmd.run.isNone then s.modChan c Channel.closeEntry else s

/-- The kernel a head command runs: that of a RUN's record, or of the frozen command a THAW brings back. -/
def Channel.kernelOf (x : Channel) (m : Cmd) : Option Nat :=
  if m.kind == 0x06 then (x.frz.bind (·.run)).map (fun r => r.cmd.prog.toNat % 0x8000) else some (m.prog.toNat % 0x8000)

/-- Opens entry `i` at the boundary `k` µs into the frame (R332): its LATE and plan (R353), and the work it starts. -/
def State.openEntry (s : State) (c : ChId) (i k : Nat) : State :=
  let x := s.chan c
  let e := bkEnt x.bank i
  let at_ := 1000 * k
  let met := if e.gate && e.typ != 1 then x.alm.gateMet.getD at_ else 0
  let late := (at_ - max (max e.offset met) x.alm.plan) / 1000
  let prog := if e.src then some (stProg x.bank e.stand) else (x.headOf e.cls).bind x.kernelOf
  let est := if e.est != 0 then e.est else match prog with | some p => hdEst (x.header p) | none => 0
  let s := s.modChan c (fun x => (x.setReg BARO_LATE (BitVec.ofNat 32 (cap32 late))).modAlm (fun a =>
    { a with entry := i, isOpen := true, gateMet := none, cut := max a.cut (i + 1), plan := at_ + 1000 * ceilDiv est 1800 }))
  if e.typ == 1 then s
  else if e.src then
    s.startRun c { cmd := x.standCmd i e.stand, src := .standing e.stand, limit := e.budget, est := e.est, late := late,
                   entry := i, flags := 0x8, frame := x.reg ALM_FRAME, rpt := BitVec.ofNat 64 (bkSrpt x.bank + 128 * e.stand) }
  else match x.headOf e.cls with
    | some m => s.startHead c i e m late
    | none => s.modChan c (fun x => (x.inc ALM_SKIP 1).closeEntry)

/-- An entry opens at a slot boundary (R332): the one before has ended, or is a FILL entry, its OFFSET has come and its gate
is met. -/
def execAlmEntryOpen (ch : ChId) (s : State) : Out :=
  .next (if s.parked ch then s else
    let x := s.chan ch
    let i := x.alm.ahead
    if !x.alm.running || !s.seqFree ch || (x.alm.isOpen && (bkEnt x.bank x.alm.entry).typ != 1) then s
    else match s.boundary ch with
      | none => s
      | some k => if s.cutFirst ch i || !x.canOpen i k then s else s.openEntry ch i k)

/-- An open FILL entry starts the head command at a slot boundary, when it fits before the horizon (R333). -/
def execAlmFillStart (ch : ChId) (s : State) : Out :=
  .next (if s.parked ch then s else
    let x := s.chan ch
    let e := bkEnt x.bank x.alm.entry
    if !x.alm.running || !x.alm.isOpen || e.typ != 1 || !s.seqFree ch then s
    else match s.boundary ch, x.headOf e.cls with
      | some k, some m =>
        let f := pointMhz (s.point ch)
        if s.cutFirst ch (bkNent x.bank) || x.canOpen x.alm.ahead k ||
            decide (x.horizon * f < (x.frame0 + 1000 * k) * f + 1000 * e.budget) then s
        else s.startHead ch x.alm.entry e m (x.reg BARO_LATE).toNat
      | _, _ => s)

/-- A finished standing run writes its report (R336, R438, R439), and its entry ends. A Hail run whose retry failed as well
reports VERDICT 3. -/
def execStandingReportWrite (ch : ChId) (s : State) : Out :=
  .next (
    let s := s.finishRun ch
    let x := s.chan ch
    match x.cmd.run with
    | none => s
    | some r =>
      match r.src with
      | .standing _ =>
        if x.fenced || !(r.phase == .finished || (r.phase == .drained && r.verdict == 3)) then s
        else
          let v := if r.verdict ≠ 0 then r.verdict else x.verdict r
          let s := s.putReport r.rpt.toNat (x.report r true) (cplRcd r.cmd.seq r.start r.endT r.epoch r.status v r.code)
          let s := if r.hailRun && r.status == 0x00 then s.modChan ch (fun x => x.hailOutcome 1 r.frame) else s
          if r.phase = .finished then s.leaveRun ch r false else s.modChan ch (fun x => x.modRun (fun r => { r with verdict := 0 }))
      | _ => s)

end Sys2Proof.Machine
end

