-- ==== Sys2Proof/Machine/ArrayEv.lean ====
section
/-!
DEFINITION. The events of the arrays: instruction start, window verdicts, drains (R127 to R147).
(DESIGN CHOICE, log entries 8 and 30.)
-/

namespace Sys2Proof.Machine

open Sys2Proof

/-- What an array's work came to. -/
inductive ArrRes where
  | go (x : Channel)             -- finished
  | part (x : Channel)           -- waits for ring fill, or stopped by a checker event
  | exc (x : Channel) (e : Exc)  -- an imprecise exception
deriving DecidableEq, Repr

/-- The source of a load or a MAC: SRC and its pitch (R131, R132). -/
structure ArrSrc where
  ring : Option (BitVec 6)
  addr : Nat
  pitch : Nat
deriving DecidableEq, Repr

/-- A source field pair, with its exception causes: `unitBytes` is what each row or vector takes, of which there are
`n`. A misaligned address raises ALIGN, here and in a drain, where R131 and R135 name no exception. (DESIGN CHOICE, log entry 30.) -/
def arrSrc (b : List Byte) (isRing : Bool) (unitBytes n : Nat) : ArrSrc × List (Bool × Exc) :=
  let a := field b 0 4
  let p := field b 4 4
  let pitch := if p == 0 then unitBytes else p
  if isRing then (⟨some (BitVec.ofNat 6 a), 0, 0⟩, [(a ≥ 64 || p != 0, .illegal)])
  else (⟨none, a, pitch⟩,
    [(a ≥ 0x2000000, .illegal), (a % 16 != 0, .align), (p != 0 && (p % 16 != 0 || p < unitBytes), .desc),
     (a + rowsExtent unitBytes n pitch > 0x2000000, .spadRange)])

/-- One row or vector: from the ring, or from scratchpad at its pitch. -/
def Channel.arrFetch (x : Channel) (k : Fin 2) (i : ArrIns) (src : ArrSrc) (n : Nat) : Option (List Byte × Channel × Bool) :=
  match src.ring with
  | some r => x.arrTake k i r n
  | none => some (x.spadRead (src.addr + i.i * src.pitch) n)

/-! ## TILE.LOAD -/

/-- The exception causes of a load's record (R131). -/
def loadCauses (b : List Byte) : List (Bool × Exc) :=
  let m := field b 8 1
  let mode := m % 8
  let cbn := bitsOf m 4 3
  let wide := bitOf m 5
  let rb := rowBytes mode cbn wide
  let rows := field b 9 1 + 1
  [(m ≥ 128 || !zeroBytes b 11 16 || !zeroBytes b 32 64 || (mode != 2 && (cbn != 0 || !zeroBytes b 16 32)) ||
      (wide && mode != 0), .illegal),
   (mode > 4 || (mode == 2 && cbn == 3) || (rows > 128 && mode != 1) || field b 10 1 > 127 ||
      (bitOf m 6 && rows * rb % 128 != 0), .desc)] ++
  (arrSrc b (bitOf m 6) rb rows).2

/-- Latches rows until the load is complete or its ring is short. -/
def Channel.loadRows (k : Fin 2) (src : ArrSrc) (rb rows : Nat) (wide : Bool) : Nat → Channel → ArrIns → Channel × ArrIns × Bool
  | 0, x, i => (x, i, true)
  | fuel + 1, x, i =>
    if i.i ≥ rows then (x, i, true)
    else match x.arrFetch k i src rb with
      | none => (x, i, false)
      | some (bs, y, bad) =>
        if bad then (y, i, false)
        else Channel.loadRows k src rb rows wide fuel (y.setArr k ((y.arr k).loadRow wide i.i bs)) { i with i := i.i + 1, pos := i.pos + rb }

/-- A load at work (R127). -/
def Channel.runLoad (x : Channel) (k : Fin 2) (i : ArrIns) : ArrRes :=
  let b := i.rcd
  let m := field b 8 1
  let wide := bitOf m 5
  let rb := rowBytes (m % 8) (bitsOf m 4 3) wide
  let rows := field b 9 1 + 1
  let src := (arrSrc b (bitOf m 6) rb rows).1
  let x := if i.i == 0 then
      x.setArr k { x.arr k with loaded := false, mode := m % 8, cbn := bitsOf m 4 3, rows := rows, cols := field b 10 1 + 1,
                                cb := (b.drop 16).take 16, w := [] }
    else x
  let q := x.loadRows k src rb rows wide (rows + 1) i
  if q.2.2 then
    let y := q.1.setArr k { ((q.1.arr k).checkColumn) with loaded := true }
    let y := y.inc64 (MA_LOAD_AC k.val) 128
    .go (match src.ring with | some r => y.arrUnbind q.2.1 r | none => y)
  else .part (q.1.setArr k { q.1.arr k with run := some q.2.1 })

/-! ## TILE.MAC -/

/-- The exception causes of a MAC's record (R132). -/
def macCauses (i : ArrIns) (b : List Byte) : List (Bool × Exc) :=
  let e := field b 8 2
  let fl := field b 10 1
  let vb := if i.opc == 0x55 then 256 else 128
  [(fl ≥ 2 || !zeroBytes b 11 64, .illegal), (e > 4095 || (!i.mod.getLsbD 4 && e + i.count > 4096), .desc)] ++
  (arrSrc b (bitOf fl 0) vb i.count).2

/-- Whether the stationary state does not fit the MAC (R130). A load knows one fp8 variant, and R126 lets the activations of either
variant meet it: no variant differs. (DESIGN CHOICE, log entry 30.) -/
def Arr.mismatch (a : Arr) (i : ArrIns) : Bool :=
  !a.loaded || i.opc.toNat != 0x51 + a.mode || (a.mode == 2 && i.mod.toNat % 4 != a.cbn)

/-- Streams vectors until the MAC is complete, its ring is short, or a check fails. -/
def Channel.macRun (k : Fin 2) (src : ArrSrc) (fault : ArrFault) : Nat → Channel → ArrIns → Channel × ArrIns × Bool
  | 0, x, i => (x, i, true)
  | fuel + 1, x, i =>
    if i.i ≥ i.count then (x, i, true)
    else
      let vb := vecBytes (x.arr k).mode
      match x.arrFetch k i src vb with
      | none => (x, i, false)
      | some (bs, y, bad) =>
        if bad then (y, i, false)
        else
          let one := i.mod.getLsbD 4
          let e := field i.rcd 8 2 + (if one then 0 else i.i)
          let ovw := i.mod.getLsbD 3 && (!one || i.i == 0)
          let z := y.macVector k e ovw (i.mod.getLsbD 2) bs i.i fault
          let i := { i with i := i.i + 1, pos := i.pos + vb }
          if z.raised.length > y.raised.length then (z, i, false) else Channel.macRun k src fault fuel z i

/-- A MAC at work (R130, R132, R142). -/
def Channel.runMac (x : Channel) (k : Fin 2) (i : ArrIns) (fault : ArrFault) : ArrRes :=
  if i.i == 0 && (x.arr k).mismatch i then .exc x .desc
  else
    let src := (arrSrc i.rcd (bitOf (field i.rcd 10 1) 0) (if i.opc == 0x55 then 256 else 128) i.count).1
    let x := if i.i == 0 then x.setArr k (x.arr k).openWin else x
    let q := x.macRun k src fault (i.count + 1) i
    if q.2.2 then
      let y := q.1.closeWin k i.no i.count
      .go (match src.ring with | some r => y.arrUnbind q.2.1 r | none => y)
    else .part (q.1.setArr k { q.1.arr k with run := some q.2.1 })

/-! ## The accumulator instructions -/

/-- TILE.ZERO at work (R138). -/
def Channel.runZero (x : Channel) (k : Fin 2) (i : ArrIns) : ArrRes :=
  let e := field i.rcd 0 2
  let a := x.accOf k
  .go (x.setAcc k { a with
    mem := sclear a.mem (128 * e) (128 * i.count)
    err := a.err.filter (fun m => m.1 < 128 * e || 128 * (e + i.count) ≤ m.1) })

/-- TILE.ACCRD at work (R139). One that an earlier command left behind writes no register: none passes from one command to the
next (R34). -/
def Channel.runAccrd (x : Channel) (k : Fin 2) (i : ArrIns) : ArrRes :=
  let p := x.accRead k (i.count - 1) 128 false
  let v := i.mod.extractLsb' 0 4
  if p.2.2 then .part p.2.1
  else if i.stale then .go p.2.1
  else .go (p.2.1.modSeq (fun q =>
    { q.wv v (Vector.ofFn (fun j : Fin 128 => p.1.getD j.val 0)) with vpend := setBit q.vpend v.toNat false }))

/-! ## Drains -/

/-- Columns an output holds: both arrays' with UNIT = 3 (R135). -/
def drainCols (i : ArrIns) (b : List Byte) : Nat := (field b 20 1 + 1) * (if i.unit == 3 then 2 else 1)

/-- Bytes of an output. -/
def drainBytes (i : ArrIns) (b : List Byte) : Nat := drainCols i b * ofmtSize (field b 10 1 % 8)

/-- The exception causes of a drain's record (R135). Of the shift table and the bias vector the bytes of the columns in use must lie in
the scratchpad; the entries that are not used need not. (DESIGN CHOICE, log entry 30.) -/
def drainCauses (i : ArrIns) (b : List Byte) : List (Bool × Exc) :=
  let o := field b 10 1
  let dst := field b 0 4
  let p := field b 4 4
  let ob := drainBytes i b
  let sh := toSigned 8 (field b 11 1)
  let n := if i.unit == 3 then 128 + field b 20 1 + 1 else field b 20 1 + 1
  let ring := bitOf o 3
  [(!zeroBytes b 21 64 || (!bitOf o 6 && field b 12 4 != 0) || (!bitOf o 4 && field b 16 4 != 0) ||
      field b 12 4 ≥ 0x2000000 || field b 16 4 ≥ 0x2000000 || dst ≥ (if ring then 64 else 0x2000000) || (ring && p != 0), .illegal),
   ((!ring && dst % 16 != 0) || field b 12 4 % 16 != 0 || field b 16 4 % 16 != 0, .align),
   (o % 8 > 5 || field b 20 1 > 127 || field b 8 2 + i.count > 4096 || (!bitOf o 6 && (sh < -32 || sh > 31)) ||
      (!ring && p != 0 && (p % 16 != 0 || p < ob)) || (ring && i.count * ob % 128 != 0), .desc),
   (!ring && dst + rowsExtent ob i.count (if p == 0 then ob else p) > 0x2000000, .spadRange),
   ((bitOf o 6 && field b 12 4 + n > 0x2000000) || (bitOf o 4 && field b 16 4 + 4 * n > 0x2000000), .spadRange)]

/-! ## Reading ahead (R128, R130) -/

/-- The causes an array finds in a record when it arrives. -/
def recCauses (i : ArrIns) (b : List Byte) : List (Bool × Exc) :=
  if i.opc == 0x50 then loadCauses b
  else if i.opc == 0x57 then
    [(!zeroBytes b 2 64, .illegal),
     (field b 0 2 % 128 != 0 || i.count % 128 != 0 || field b 0 2 + i.count > 4096, .desc)]
  else if i.opc == 0x56 then drainCauses i b
  else macCauses i b

/-- Whether an array's own queue runs the opcode: the TILE instructions but TILE.DRAIN. -/
def arrOwn (o : Byte) : Bool := o.toNat ≥ 0x50 && o.toNat ≤ 0x59 && o != 0x56

/-- Whether an instruction of an array's queue has a record. -/
def arrHasRec (o : Byte) : Bool := o.toNat ≥ 0x50 && o.toNat ≤ 0x57

/-- The entries an instruction reaches; none for a load. -/
def arrSpan (i : ArrIns) : Nat × Nat :=
  let b := i.rcd
  if i.opc == 0x50 then (0, 0)
  else if i.opc == 0x58 || i.opc == 0x59 then (i.count - 1, 1)
  else if i.opc == 0x57 then (field b 0 2, i.count)
  else (field b 8 2, if i.opc != 0x56 && i.mod.getLsbD 4 then 1 else i.count)

/-- Whether an instruction would touch an entry of a LIVE slot (R246). -/
def Channel.touchesSlot (x : Channel) (k : Fin 2) (i : ArrIns) : Bool := x.slotOwns k (arrSpan i).1 (arrSpan i).2

/-- The instruction at the head of array `k`'s queue has its record read and checked while it still holds its place, whatever
the array runs; the ring it names is bound (R82, R128, R130). -/
def Channel.arrAhead (x : Channel) (k : Fin 2) : ArrRes :=
  match (x.arr k).queue with
  | [] => .go x
  | i :: r =>
    if !arrHasRec i.opc || !i.rcd.isEmpty then .go x
    else
      let p := x.spadRead i.desc 64
      if p.2.2 then .part p.2.1
      else
        let i := { i with rcd := p.1 }
        let noRing := (match recRing i p.1 with | some (q, _) => p.2.1.arrRingBad k i q | none => false) ||
          (match recOut i p.1 with
           | some q => i.binds.bad || (!i.binds.prod.contains q &&
               (!(p.2.1.ring q).valid || !bindOk (p.2.1.ring q).prod (arrEng k i.unit)))
           | none => false)
        match lowest (recCauses i p.1 ++ [(noRing, .ring)]) with
        | some e => .exc p.2.1 e
        | none =>
          let y := p.2.1.setArr k { p.2.1.arr k with queue := i :: r }
          let y := match recRing i p.1 with | some (q, n) => y.arrBind k i q n | none => y
          .go (match recOut i p.1 with
            | some q => if i.binds.prod.contains q then y else y.bindProd q (arrEng k i.unit)
            | none => y)

/-- The shift table and the bias vector of a drain for array `k`'s columns (R135). -/
def Channel.drainTables (x : Channel) (k : Fin 2) (i : ArrIns) : (List Byte × List Word) × Channel × Bool :=
  let b := i.rcd
  let o := field b 10 1
  let cols := field b 20 1 + 1
  let base := if i.unit == 3 && k == 1 then 128 else 0
  let t := if bitOf o 6 then x.spadRead (field b 12 4 + base) cols else (List.replicate cols (byteAt b 11), x, false)
  let u := if bitOf o 4 then t.2.1.spadRead (field b 16 4 + 4 * base) (4 * cols) else ([], t.2.1, false)
  ((t.1, if bitOf o 4 then wordsOf u.1 cols else []), u.2.1, t.2.2 || u.2.2)

/-- The outputs of array `k` from entry `e` on, in ascending order: bytes of each, the values clipped counted. A stochastic drain
draws with the key of its issue (R161). -/
def Channel.drainEntries (x : Channel) (k : Fin 2) (d : DrainSlot) : Nat → Nat → Channel × List (List Byte) × Bool
  | 0, _ => (x, [], false)
  | n + 1, e =>
    let i := d.ins
    let b := i.rcd
    let cols := field b 20 1 + 1
    let o := field b 10 1
    let p := x.accRead k e cols false
    if p.2.2 then (p.2.1, [], true)
    else
      let sr := i.mod.getLsbD 0
      let w := (x.draws.get (if k == 0 then 1 else 2)).toNat
      let rs := (List.range cols).map (fun j =>
        drainElem (o / 128) (o % 8) (bitOf o 5) (d.biases[j]?) (byteAt d.shifts j).toInt (drawRnd sr i.key (1 + k.val) w j) (p.1.getD j 0))
      let y := (p.2.1.count64 (QNT_CLIP 7) (rs.filter (·.2)).length).count64 (QNT_TOT 7) cols
      let y := if sr then { y with draws := y.draws.set (1 + k.val) (y.draws.get (if k == 0 then 1 else 2) + 1) (by omega) } else y
      let q := Channel.drainEntries y k d n (e + 1)
      (q.1, ((rs.map (fun r => leBytes (ofmtSize (o % 8)) r.1)).flatten) :: q.2.1, q.2.2)

/-- The drain in array `k`'s slot reads its entries, once every earlier writer of the accumulators is done: it therefore sees them as
those leave them (R77, R137). -/
def Channel.drainRead (x : Channel) (k : Fin 2) : ArrRes :=
  match (x.arr k).slot with
  | none => .go x
  | some d =>
    if d.outs.isSome || x.tileEarlier k d.ins.no false || x.accEarlier k d.ins.no || x.convEarlier k d.ins.no then .go x
    else if x.touchesSlot k d.ins then .exc x .desc
    else
      let q := x.drainEntries k d d.ins.count (field d.ins.rcd 8 2)
      if q.2.2 then .part q.1 else .go (q.1.setArr k { q.1.arr k with slot := some { d with outs := some q.2.1 } })

/-! ## Start -/

/-- Whether an instruction's ring does not hold its next row or vector (R82). -/
def Channel.arrLacks (x : Channel) (k : Fin 2) (i : ArrIns) : Bool :=
  match recRing i i.rcd with
  | some (r, _) => arrHasRec i.opc && (x.arrTake k i r (if i.opc == 0x50 then
      rowBytes (field i.rcd 8 1 % 8) (bitsOf (field i.rcd 8 1) 4 3) (bitOf (field i.rcd 8 1) 5) else if i.opc == 0x55 then 256 else 128)).isNone
  | none => false

/-- What an instruction at the head of a queue still waits for: earlier work of other queues on the array, the verdict queue, for
TILE.ACCRD the verdicts, and its first operand (R77, R128, R139, R145). -/
def Channel.arrWaits (x : Channel) (k : Fin 2) (i : ArrIns) : Bool :=
  let o := i.opc
  x.convEarlier k i.no ||
  (if o == 0x50 then x.loadEarlier k i.no
   else x.accEarlier k i.no || (o.toNat ≥ 0x51 && o.toNat ≤ 0x55 && (x.arr k).wins.length ≥ 8) ||
    (o == 0x58 && (x.arr k).wins.any (fun w => w.no < i.no)) ||
    (o != 0x58 && x.drainHolds k i.no (arrSpan i).1 (arrSpan i).2)) || x.arrLacks k i

/-- Runs the instruction at work. -/
def Channel.arrRun (x : Channel) (k : Fin 2) (i : ArrIns) (fault : ArrFault) : ArrRes :=
  if i.opc == 0x50 then x.runLoad k i
  else if i.opc == 0x57 then x.runZero k i
  else if i.opc == 0x58 then x.runAccrd k i
  else if i.opc == 0x59 then .go (x.accWrite k (i.count - 1) i.data)
  else x.runMac k i fault

/-- An exception of an array's work. Of work that outlived its command it is taken by the command that runs then; with none, the
work is given up: what the array runs, or with `head` the head of its queue. -/
def arrExc (s : State) (c : ChId) (k : Fin 2) (o : Org) (x : Channel) (e : Exc) (head : Bool) : State :=
  if x.engineGo then (s.setChan c x).except c e o true
  else
    let a := x.arr k
    s.setChan c (x.setArr k (if head then { a with queue := a.queue.tail } else { a with run := none }))

/-- Applies what the instruction at work came to. -/
def arrSettle (s : State) (c : ChId) (k : Fin 2) (o : Org) : ArrRes → State
  | .go x => s.setChan c (x.setArr k { x.arr k with run := none })
  | .part x => s.setChan c x
  | .exc x e => arrExc s c k o x e false

/-- The place in the program of the instruction at the head of a queue. -/
def Arr.headOrg (a : Arr) : Org := match a.queue with | i :: _ => i.org | [] => ⟨0, 0⟩

/-- The place in the program of the drain in the slot. -/
def Arr.slotOrg (a : Arr) : Org := match a.slot with | some d => d.ins.org | none => ⟨0, 0⟩

/-- An array works on: the drain in its slot reads, the record at the head of its queue is read, and then `f` goes on if nothing has
stopped it. -/
def arrStep (s : State) (c : ChId) (k : Fin 2) (f : State → State) : State :=
  let x := s.chan c
  if !x.arrGo then s
  else match x.drainRead k with
    | .exc y e => arrExc s c k (x.arr k).slotOrg y e true
    | .part y => s.setChan c y
    | .go y =>
      match y.arrAhead k with
      | .exc z e => arrExc s c k (y.arr k).headOrg z e true
      | .part z => s.setChan c z
      | .go z => f (s.setChan c z)

/-- An array instruction at the head of its queue begins once its operands arrive, or the one at work goes on as its
ring fills (R128). -/
def execArrayInstrStart (ch : ChId) (arr : Fin 2) (fault : ArrFault) (s : State) : Out :=
  .next (arrStep s ch arr (fun s =>
    let x := s.chan ch
    match (x.arr arr).run with
    | some i => arrSettle s ch arr i.org (x.arrRun arr i fault)
    | none =>
      match (x.arr arr).queue with
      | [] => s
      | i :: r =>
        if !arrOwn i.opc || x.arrWaits arr i then s
        else if x.touchesSlot arr i then arrExc s ch arr i.org x .desc true
        else
          let y := x.setArr arr { x.arr arr with queue := r, run := some i }
          arrSettle s ch arr i.org (y.arrRun arr i fault)))

/-- The verdict of the oldest closed window (R143 to R147). -/
def execWindowVerdict (ch : ChId) (arr : Fin 2) (fault : Bool) (s : State) : Out :=
  .next (s.modChan ch (fun x =>
    let a := x.arr arr
    match a.wins with
    | [] => x
    | w :: r =>
      let y := x.setArr arr { a with wins := r }
      match w.rel x.chkU with
      | .skip => y.bump (MA_CHK_SKIP arr.val) 1
      | .fail => y.chkFail arr 1 0 w.float
      | .pass => if fault then y.chkFail arr 1 0 w.float else y))

/-- A drain at the head of its array's queue moves into the free drain slot once its tables are in (R137). It reads its entries
then, if every earlier writer of the accumulators is done. -/
def execDrainSlotEnter (ch : ChId) (arr : Fin 2) (s : State) : Out :=
  .next (arrStep s ch arr (fun s =>
    let x := s.chan ch
    match (x.arr arr).queue with
    | [] => s
    | i :: r =>
      if i.opc != 0x56 || (x.arr arr).slot.isSome then s
      else
        let p := x.drainTables arr i
        if p.2.2 then s.setChan ch p.2.1
        else if p.1.1.any (fun b => b.toInt < -32 || b.toInt > 31) then arrExc s ch arr i.org p.2.1 .desc true
        else
          let y := p.2.1.setArr arr { p.2.1.arr arr with queue := r, slot := some ⟨i, p.1.1, p.1.2, none⟩ }
          match y.drainRead arr with
          | .exc z e => arrExc s ch arr i.org z e true
          | .part z => s.setChan ch z
          | .go z => s.setChan ch z))

/-- The outputs of a drain: with UNIT = 3, MA0's columns followed by MA1's, once both arrays have read theirs. -/
def Channel.drainOuts (x : Channel) (d : DrainSlot) : Option (List (List Byte)) :=
  if d.ins.unit != 3 then d.outs
  else match (x.arr 0).slot, (x.arr 1).slot with
    | some a, some b =>
      if a.ins.no == d.ins.no && b.ins.no == d.ins.no then
        a.outs.bind (fun p => b.outs.map (fun q => List.zipWith (· ++ ·) p q))
      else none
    | _, _ => none

/-- Writes plain outputs at their pitch. -/
def Channel.drainPut (x : Channel) (a pitch : Nat) : List (List Byte) → Channel
  | [] => x
  | o :: r => (x.spadWrite a o).drainPut (a + pitch) pitch r

/-- Frees the slots of a finished drain. -/
def Channel.drainFree (x : Channel) (i : ArrIns) : Channel :=
  (unitArrs i.unit).foldl (fun (y : Channel) k => y.setArr k { y.arr k with slot := none }) x

/-- Records how many output bytes of a drain the ring has taken. -/
def Channel.drainPos (x : Channel) (i : ArrIns) (pos : Nat) : Channel :=
  (unitArrs i.unit).foldl (fun (y : Channel) k =>
    y.setArr k { y.arr k with slot := (y.arr k).slot.map (fun d => { d with ins := { d.ins with pos := pos } }) }) x

/-- A drain's outputs are written; when the last is in its banks and the verdicts of every earlier window have passed, its
token increments (R137, R146). A ring takes its outputs as space allows, in 128-byte steps. -/
def execDrainComplete (ch : ChId) (arr : Fin 2) (s : State) : Out :=
  .next (arrStep s ch arr (fun s =>
    let x := s.chan ch
    match (x.arr arr).slot with
    | none => s
    | some d =>
      match x.drainOuts d with
      | none => s
      | some outs =>
        let i := d.ins
        let b := i.rcd
        let verdicts := (unitArrs i.unit).all (fun k => (x.arr k).wins.all (fun w => w.no > i.no))
        if bitOf (field b 10 1) 3 then
          let ring : BitVec 6 := BitVec.ofNat 6 (field b 0 4)
          let all := outs.flatten
          let n := min (all.length - i.pos) (steps128 (x.ring ring).free)
          let y := (x.ringWrite (x.ring ring) (x.ring ring).head ((all.drop i.pos).take n)).advHead ring n
          if i.pos + n < all.length || !verdicts then
            s.setChan ch (y.drainPos i (i.pos + n))
          else (s.setChan ch ((y.drainFree i).unbindProd ring)).tokenIn ch i.tk i.org
        else if !verdicts then s
        else
          let p := field b 4 4
          let y := x.drainPut (field b 0 4) (if p == 0 then drainBytes i b else p) outs
          (s.setChan ch (y.drainFree i)).tokenIn ch i.tk i.org))

end Sys2Proof.Machine
end

