-- ==== Sys2Proof/Machine/Attn.lean ====
section
/-!
DEFINITION. The attention unit: ATTN.TABLE, ATTN.APPEND, ATTN.PAGE with its walk, and their completion (R225 to R237).
(DESIGN CHOICE, log entry 27.)
-/

namespace Sys2Proof.Machine

open Sys2Proof

/-! ## Issue -/

/-- Queues an instruction of the attention unit; but for ATTN.TABLE it raises PAGE while PTU_CTRL.EN is 0 (R212). ATTN.PAGE
takes a place in both arrays' queues on the same edge (R231). -/
def attnIssue (s : State) (c : ChId) (opc : Byte) (f : FmtD) (legal : Bool) : State :=
  issueD s c opc f (f.unit == 0 && legal) (fun s desc =>
    let x := s.chan c
    let page := opc == 0x70
    let r := BitVec.ofNat 6 (field (x.rawRec desc 64) 24 1)
    let q := if page then x.bindSides .attn .dma [r] [r] {} else (x, {})
    let i := { mkDIns s c opc f desc with binds := q.2 }
    if opc != 0x76 && !x.bit PTU_CTRL 0 then .done (s.engineFault c (pageErr 10 0) 1 i.org)
    else if x.attn.queue.length ≥ 4 || (page && !x.arrRoom 3) then .stall .unit
    else
      let y := if page then q.1.arrPush { mkArrIns s c opc f desc with unit := 3 } else x
      .done (s.setChan c { y with attn := { y.attn with queue := y.attn.queue ++ [i] }, issued := y.issued + 1,
                                  seq := y.seq.begin f.tk }))

/-- ATTN.PAGE (R231). -/
def execAttnPage (ch : ChId) (f : FmtD) (s : State) : Out := .next (attnIssue s ch 0x70 f (f.mod == 0))

/-- ATTN.APPEND (R225). -/
def execAttnAppend (ch : ChId) (f : FmtD) (s : State) : Out := .next (attnIssue s ch 0x71 f (f.mod == 0))

/-- ATTN.TABLE (R228). -/
def execAttnTable (ch : ChId) (f : FmtD) (s : State) : Out :=
  .next (attnIssue s ch 0x76 f (f.mod.toNat < 32 && f.mod.toNat % 4 != 3 && (f.mod.toNat % 4 == 1 || f.mod.toNat < 4)))

/-- What the work at the head of the queue came to: finished, waiting or stopped by a checker event, or failed; a failure
names its source for PTU_ERR_INFO. -/
inductive AttnRes where
  | go (x : Channel)
  | part (x : Channel)
  | err (x : Channel) (e : PErr) (src : Nat)
deriving DecidableEq, Repr

/-- An exception without a PAGE record. -/
def attnExc (x : Channel) (e : Exc) : AttnRes := .err x (plainErr e) 1

/-! ## ATTN.TABLE (R228) -/

/-- A table load at work. -/
def Channel.runTable (x : Channel) (i : DIns) : AttnRes :=
  let p := x.spadRead i.desc 64
  if p.2.2 then .part p.2.1
  else
    let b := p.1
    let src := field b 0 4
    let off := field b 4 4
    let t := i.mod.toNat % 4
    let n := i.count
    let bytes := if t == 1 then 4 * n else 16 * n
    match lowest [(!zeroBytes b 8 64, .illegal), (src % 16 != 0, .align), (src ≥ 0x2000000 || src + bytes > 0x2000000, .spadRange),
        ((t == 0 && (off % 16 != 0 || off + 16 * n > 65536)) || (t == 1 && off + n > 256) || (t == 2 && off + n > 1024), .desc)] with
    | some e => attnExc p.2.1 e
    | none =>
      let q := p.2.1.spadRead src bytes
      let y := q.2.1
      if q.2.2 then .part y
      else
        let a := y.attn
        .go { y with attn :=
          if t == 0 then { a with bitmap := wrBytes a.bitmap off q.1 }
          else if t == 1 then { a with bias := ssets 0 a.bias (256 * (i.mod.toNat / 4) + off) (wordsOf q.1 n) }
          else { a with lens := wrBytes a.lens (16 * off) q.1 } }

/-! ## ATTN.APPEND (R225, R226) -/

/-- Writes one token's record and shift pair for one head into its page. -/
def Channel.appendOne (x : Channel) (b : List Byte) (i h : Nat) : Channel × Bool :=
  let seq := field b 8 2
  let geom := x.seqField seq 17 1
  let d := geomD geom
  let tag := bitsOf geom 5 2
  let t := pageT d tag
  let hkv := x.seqField seq 16 1
  let de := d * pageE2 tag / 2
  let pos := field b 12 4 + i
  let ent := x.dle (x.seqField seq 0 8 + 4 * (pos / t * hkv + h)) 4
  let page := pdPpn (x.pdesc (entHandle ent)) * 4096
  let p := x.spadRead (field b 0 4 + (i * hkv + h) * 2 * de) (2 * de)
  let q := p.2.1.spadRead (field b 4 4 + (i * hkv + h) * 2) 2
  let sh := (q.2.1.reg64 PTU_SHIFT_BASE).toNat + 128 * entHandle ent
  let y := ((q.2.1.dramWrite (page + pos % t * de) (p.1.take de)).dramWrite (page + 2048 + pos % t * de) (p.1.drop de))
  ((y.dramWrite (sh + pos % t) (q.1.take 1)).dramWrite (sh + 64 + pos % t) (q.1.drop 1), p.2.2 || q.2.2)

/-- An append whose page operations and copies are done and whose transfer is at work (R110, R111): the tokens at or beyond the LEN it
found are written, LEN is raised, and the transfer ends. -/
def Channel.runAppend (x : Channel) (i : DIns) (fc : Nat) : AttnRes :=
  if i.rcd.isEmpty || i.i < i.n || x.ptu.copies.any (·.src == 1) || x.ptu.releases.any (·.src == 1) then .part x
  else match x.dmaActive with
    | none => .part x
    | some (k, d) =>
      if !d.att || d.no != i.no then .part x
      else
        let b := i.rcd
        let seq := field b 8 2
        let len := x.seqField seq 12 4
        let hkv := x.seqField seq 16 1
        let toks := (List.range i.count).filter (fun k => len ≤ field b 12 4 + k)
        let jobs := (toks.map (fun k => (List.range hkv).map (fun h => (k, h)))).flatten
        let q := jobs.foldl (fun (a : Channel × Bool) j =>
          let r := a.1.appendOne b j.1 j.2
          (r.1, a.2 || r.2)) (x, false)
        if q.2 then .part q.1
        else .go ((q.1.dput (q.1.seqAt seq + 12) 4 (max len (field b 12 4 + i.count))).dmaEnd k d fc)

/-! ## ATTN.PAGE (R231 to R236) -/

/-- The head dimension, kernel and output format of a record. -/
def apD (b : List Byte) : Nat := geomD (field b 18 1)
def apKernel (b : List Byte) : Nat := bitsOf (field b 18 1) 4 2
def apBf16Out (b : List Byte) : Bool := bitOf (field b 18 1) 5
/-- Tiles of a block: ceil(D ÷ 128). -/
def apC (b : List Byte) : Nat := ceilDiv (apD b) 128
/-- Bytes of a query vector. -/
def apQBytes (b : List Byte) : Nat := apD b * (if apKernel b == 4 then 2 else 1)
/-- Bytes of an output vector. -/
def apOBytes (b : List Byte) : Nat := apD b * (if apBf16Out b then 2 else 4)
/-- The arrays' mode for a kernel. -/
def apMode (b : List Byte) : Nat := match apKernel b with | 0 => 0 | 4 => 4 | _ => 3
/-- The conversion target of the value step's activations. -/
def apTgt (b : List Byte) : Nat := match apKernel b with | 0 => 4 | 2 => 6 | 3 => 7 | _ => 2
/-- N of a length-table entry. -/
def apN (b : List Byte) (lq : Nat) : Nat := lq * field b 19 1

/-- A field of length-table entry `k` (R229). -/
def Channel.lenField (x : Channel) (k off n : Nat) : Nat := rdLe x.attn.lens (16 * k + off) n

/-- The page ring of a record. -/
def apRing (b : List Byte) : BitVec 6 := BitVec.ofNat 6 (field b 24 1)

/-- The causes the unit finds when it takes the instruction (R231). The sequences named are those of the entries with query rows that
the sequence table holds; whether they are LIVE shows at their lookup. (DEDUCED, log entry 27.) -/
def Channel.pageCauses (x : Channel) (i : DIns) (b : List Byte) (ringBad : Bool) : List (Bool × Exc) :=
  let ltab := field b 16 2
  let k := apKernel b
  let mask := field b 22 1 % 4
  let ents := (List.range i.count).map (fun e => ltab + e)
  let fit := ents.all (fun e => field b 26 2 + apC b * apN b (x.lenField e 4 2) ≤ 4096)
  let total := ents.foldl (fun a e => a + apN b (x.lenField e 4 2)) 0 * field b 21 1
  let owns := ents.any (fun e => (unitArrs 3).any (fun a => x.slotOwns a (field b 26 2) (apC b * apN b (x.lenField e 4 2))))
  let named := (ents.filter (fun e => x.lenField e 4 2 != 0)).map (fun e => x.lenField e 0 2)
  let seqs := named.filter (fun q => q < getField (x.reg PTU_NSEQ) 16 0)
  let heads := seqs.any (fun q => field b 20 1 + field b 21 1 > x.seqField q 16 1)
  let small := seqs.any (fun q =>
    (x.ring (apRing b)).size.toNat < 128 / pageT (geomD (x.seqField q 17 1)) (bitsOf (x.seqField q 17 1) 5 2) * 4224)
  [(field b 0 4 ≥ 0x2000000 || field b 4 4 ≥ 0x2000000 || field b 8 4 ≥ 0x2000000 || field b 18 1 ≥ 64 || field b 22 1 ≥ 64 ||
      field b 23 1 ≥ 8 || field b 24 1 ≥ 64 || !zeroBytes b 25 26 || !zeroBytes b 40 64 || (k == 4 && field b 4 4 != 0) ||
      ents.any (fun e => x.lenField e 3 1 != 0 || x.lenField e 6 2 != 0), .illegal),
   (field b 0 4 % 16 != 0 || field b 8 4 % 16 != 0, .align),
   (ltab + i.count > 1024 || field b 18 1 % 4 == 3 || k == 1 || k > 4 || field b 19 1 == 0 || field b 19 1 > 16 ||
      field b 21 1 == 0 || field b 21 1 > 64 || mask == 3 || field b 30 2 == 0 || !fit || owns || heads ||
      ((x.ring (apRing b)).valid && small), .desc),
   (ringBad, .ring),
   (field b 0 4 + total * apQBytes b > 0x2000000 || field b 4 4 + (if k == 4 then 0 else total) > 0x2000000 ||
      field b 8 4 + total * apOBytes b > 0x2000000, .spadRange)]

/-- Whether a page format is promoted under a kernel: none when it is not usable (R233). -/
def promoted (kernel tag : Nat) : Option Bool :=
  match kernel, tag with
  | 0, 0 => some false
  | 0, 1 => some true
  | 2, 2 => some false
  | 3, 2 => some false
  | 2, 1 => some true
  | 3, 1 => some true
  | 4, 4 => some false
  | 4, t => if t < 4 then some true else none
  | _, _ => none

/-- An element of a page as the kernel's key code, widened exactly (R233). -/
def promote (kernel tag : Nat) (bs : List Byte) (k : Nat) : BitVec 16 :=
  let v := match tag with | 1 => ofSigned 4 (nibble bs k) | 4 => field bs (2 * k) 2 | _ => field bs k 1
  match kernel with
  | 0 => BitVec.ofInt 16 (if tag == 1 then toSigned 4 v else toSigned 8 v)
  | 4 => BitVec.ofNat 16 (bf16.convert .rne (codeVal (match tag with | 0 => 0 | 1 => 1 | 2 => 2 | 3 => 3 | _ => 4) v)).w
  | _ => BitVec.ofNat 16 (if tag == 1 then (e4m3.convert .rne (codeVal 1 v)).w else v)

/-- The tokens of a key block as the page ring delivered them: per token its key codes, value codes and shifts. -/
structure KeyTok where
  key : List (BitVec 16)
  val : List (BitVec 16)
  ksh : Int
  vsh : Int
deriving DecidableEq, Repr

/-- The tokens of one page's 4,224 ring bytes (R206, R207, R231). -/
def pageToks (kernel d tag n : Nat) (bs : List Byte) : List KeyTok :=
  let page := bs.drop 128
  let de := d * pageE2 tag / 2
  (List.range n).map (fun t =>
    let k := (page.drop (t * de)).take de
    let v := (page.drop (2048 + t * de)).take de
    ⟨(List.range d).map (promote kernel tag k), (List.range d).map (promote kernel tag v),
     if tag == 4 then 0 else (byteAt bs t).toInt, if tag == 4 then 0 else (byteAt bs (64 + t)).toInt⟩)

/-- Loads a stationary tile of `rows` × `cols` codes into array `k` and opens its window. -/
def Channel.apLoad (x : Channel) (k : Fin 2) (mode rows cols : Nat) (g : Nat → Nat → BitVec 16) : Channel :=
  let a := { x.arr k with loaded := true, mode := mode, cbn := 0, rows := rows, cols := cols, cb := []
                          w := (List.range rows).foldl (fun m r => ssets 0 m (128 * r) ((List.range cols).map (g r))) [] }
  (x.setArr k (a.checkColumn.openWin)).inc64 (MA_LOAD_AC k.val) 128

/-- Whether the bitmap admits a pair (R234). -/
def Channel.bitmapAdmits (x : Channel) (b : List Byte) (p k : Nat) : Bool :=
  let row : Int := (p : Int) - (field b 32 4 : Int)
  let col : Int := (k : Int) - (field b 36 4 : Int)
  let w := field b 30 2
  if row < 0 || row > ((65536 / w : Nat) : Int) - 1 || col < 0 || col > ((8 * w : Nat) : Int) - 1 then bitOf (field b 22 1) 5
  else (rd8 x.attn.bitmap (row.toNat * w + col.toNat / 8)).getLsbD (col.toNat % 8)

/-- The bias of a pair (R235). -/
def Channel.biasOf (x : Channel) (b : List Byte) (p k : Nat) : Word :=
  let d : Int := (p : Int) - (k : Int) - toSigned 16 (field b 28 2)
  sget 0 x.attn.bias (256 * bitsOf (field b 22 1) 4 2 + (max 0 (min 255 d)).toNat)

/-- −∞ in fp32. -/
def negInf : Word := 0xFF800000

/-- z of one pair (R232 step 2). -/
def Channel.scoreZ (x : Channel) (b : List Byte) (s : Word) (p k : Nat) : Word :=
  let mask := field b 22 1 % 4
  if mask == 1 && !x.bitmapAdmits b p k then negInf
  else ffma s (BitVec.ofNat 32 (field b 12 4)) (if mask == 2 then x.biasOf b p k else 0)

/-- fp32(y) × 2^k of an array output (R232). -/
def scaleOut (float : Bool) (y : Word) (k : Int) : FV := (if float then f32 y else FV.ofInt y.toInt).scale k

/-- The score step of a key block (R232 step 1): its keys are loaded on MA0 as stationary tiles and the query vectors stream;
`base` is the first of the `n` query vectors. Answers whether an uncorrectable word was read. -/
def Channel.scoreBlock (x : Channel) (i : DIns) (base n : Nat) (toks : List KeyTok) (f : Fin 2 × ArrFault) : Channel × Bool :=
  let b := i.rcd
  let mode := apMode b
  let w := min 128 (apD b)
  let e5 := apKernel b == 3
  (List.range (apC b)).foldl (fun (a : Channel × Bool) q =>
    let y := a.1.apLoad 0 mode w toks.length (fun r j => ((toks.getD j ⟨[], [], 0, 0⟩).key.getD (128 * q + r) 0))
    let z := (List.range n).foldl (fun (a : Channel × Bool) r =>
      let p := a.1.spadRead (field b 0 4 + (base + r) * apQBytes b + q * vecBytes mode) (w * (if mode == 4 then 2 else 1))
      (p.2.1.macVector 0 (field b 26 2 + r) (q == 0) e5 p.1 r (faultOn f 0), a.2 || p.2.2)) (y, a.2)
    (z.1.closeConvWin 0 i.no n, z.2)) (x, false)

/-- What the softmax of a block leaves for one query vector: its maximum and sum, and, unless every key is masked, α, the activation
shift and the converted row (R232 steps 2 to 7). -/
structure SoftRow where
  m : Word
  l : Word
  step : Option (Word × Int × List Nat)
deriving DecidableEq, Repr

/-- Steps 2 to 7 of R232 for one query vector `r`, whose maximum and sum before the block are `row`. -/
def Channel.softRow (x : Channel) (i : DIns) (base qpos k0 : Nat) (toks : List KeyTok) (row : Word × Word) (r : Nat) :
    SoftRow × Channel × Bool :=
  let b := i.rcd
  let nt := toks.length
  let ver := getField (x.reg NUM_LIB) 15 0
  let q := x.accRead 0 (field b 26 2 + r) nt false
  let sh := if apKernel b == 4 then ([], q.2.1, false) else q.2.1.spadRead (field b 4 4 + base + r) 1
  let sig := (byteAt sh.1 0).toInt
  let p := qpos + r / field b 19 1
  let zs := (List.range nt).map (fun k =>
    sh.2.1.scoreZ b (f32r (scaleOut (floatMode (apMode b)) (q.1.getD k 0) (sig + (toks.getD k ⟨[], [], 0, 0⟩).ksh))) p (k0 + k))
  let m' := BitVec.ofNat 32 (minmaxLane 1 true row.1 (maxOver 1 zs)).w
  if m' == negInf then (⟨row.1, row.2, none⟩, sh.2.1, q.2.2 || sh.2.2)
  else
    let ex : Word → Word := fun v => BitVec.ofNat 32 (expValue ver (f32 (f32r ((f32 v).add (f32 m').neg)))).w
    let al := if row.1 == negInf then 0 else ex row.1
    let ps := zs.map ex
    let l := ffma al row.2 (ftree (fun k => ps.getD k 0))
    let us := (List.range nt).map (fun k => f32r ((f32 (ps.getD k 0)).scale (toks.getD k ⟨[], [], 0, 0⟩).vsh))
    let mx := us.foldl (fun v u => maxIgnore v (f32 u)) (.fin false 0 0)
    let rho := if apKernel b == 4 then 0 else rowShift mx (apTgt b) 0
    let cs := us.map (fun u => (convertTgt (apTgt b) .rne ((f32 u).scale (-rho))).w % (if apMode b == 4 then 65536 else 256))
    (⟨m', l, some (al, rho, cs)⟩, sh.2.1, q.2.2 || sh.2.2)

/-- The softmax of a block, then its value step on MA1 (R232 step 8); the maxima and sums after it. -/
def Channel.valueBlock (x : Channel) (i : DIns) (base n qpos k0 : Nat) (toks : List KeyTok) (rows : List (Word × Word))
    (f : Fin 2 × ArrFault) : Channel × List (Word × Word) × Bool :=
  let b := i.rcd
  let mode := apMode b
  let w := min 128 (apD b)
  let e5 := apKernel b == 3
  let sm := (List.range n).foldl (fun (a : List SoftRow × Channel × Bool) r =>
    let q := a.2.1.softRow i base qpos k0 toks (rows.getD r (negInf, 0)) r
    (a.1 ++ [q.1], q.2.1, a.2.2 || q.2.2)) ([], x, false)
  let vl := (List.range (apC b)).foldl (fun (a : Channel × Bool) q =>
    let z := a.1.apLoad 1 mode toks.length w (fun r j => ((toks.getD r ⟨[], [], 0, 0⟩).val.getD (128 * q + j) 0))
    let z := ((List.range n).zip sm.1).foldl (fun (a : Channel × Bool) t =>
      match t.2.step with
      | none => ((a.1.streamVector 1 e5 (packCodes mode []) t.1 (faultOn f 1)).2, a.2)
      | some (al, rho, cs) =>
        let o := a.1.streamVector 1 e5 (packCodes mode cs) t.1 (faultOn f 1)
        let e := field b 26 2 + q * n + t.1
        let p := o.2.accRead 1 e w true
        let ws := (List.range w).map (fun j =>
          f32r (((f32 al).mul (f32 (p.1.getD j 0))).add (scaleOut (floatMode mode) (o.1.getD j 0) rho)))
        (p.2.1.accWrite 1 e ws, a.2 || p.2.2)) (z, a.2)
    (z.1.closeConvWin 1 i.no n, z.2)) (sm.2.1, false)
  (vl.1, sm.1.map (fun t => (t.m, t.l)), sm.2.2 || vl.2)

/-- The outputs of one entry and KV head (R232, R236). -/
def Channel.apOutputs (x : Channel) (b : List Byte) (base n : Nat) (rows : List (Word × Word)) : Channel × Bool :=
  let e0 := field b 26 2
  let w := min 128 (apD b)
  let ver := getField (x.reg NUM_LIB) 15 0
  (List.range n).foldl (fun (a : Channel × Bool) r =>
    let row := rows.getD r (negInf, 0)
    let o := field b 8 4 + (base + r) * apOBytes b
    if row.1 == negInf then ((a.1.inc ATT_EMPTY 1).spadWrite o (List.replicate (apOBytes b) 0), a.2)
    else
      let inv := BitVec.ofNat 32 (rcpValue ver (f32 row.2)).w
      let p := (List.range (apC b)).foldl (fun (a : List Word × Channel × Bool) q =>
        let g := a.2.1.accRead 1 (e0 + q * n + r) w false
        (a.1 ++ g.1, g.2.1, a.2.2 || g.2.2)) ([], a.1, false)
      let bs := (p.1.map (fun v =>
        let u := fmul v inv
        if apBf16Out b then leBytes 2 (bf16.convert .rne (f32 u)).w else leBytes 4 u.toNat)).flatten
      (p.2.1.spadWrite o bs, a.2 || p.2.2)) (x, false)

/-! ### The jobs of an instruction (R230, R231) -/

/-- One entry and KV head: the length-table entry, the head, the first query vector and how many there are. -/
structure ApJob where
  ent : Nat
  head : Nat
  base : Nat
  n : Nat
deriving DecidableEq, Repr

/-- The jobs of an ATTN.PAGE in order: by entry, then head; entries with LQ = 0 are skipped. -/
def Channel.apJobs (x : Channel) (i : DIns) : List ApJob :=
  let b := i.rcd
  let all := ((List.range i.count).map (fun e => (List.range (field b 21 1)).map (fun h => (field b 16 2 + e, field b 20 1 + h)))).flatten
  (all.foldl (fun (a : List ApJob × Nat) j =>
    let n := apN b (x.lenField j.1 4 2)
    if n == 0 then a else (a.1 ++ [⟨j.1, j.2, a.2, n⟩], a.2 + n)) ([], 0)).1

/-- LK of a job. -/
def Channel.apLk (x : Channel) (j : ApJob) : Nat := x.lenField j.ent 12 4

/-- The sequence entry a job names. -/
def Channel.apSeq (x : Channel) (j : ApJob) : Nat := x.lenField j.ent 0 2

/-- Tokens of key block `k` of a job. -/
def Channel.apToks (x : Channel) (j : ApJob) (k : Nat) : Nat := min 128 (x.apLk j - 128 * k)

/-- Changes the ATTN.PAGE at work. -/
def Channel.modPage (x : Channel) (f : PageRun → PageRun) : Channel := { x with attn := { x.attn with page := x.attn.page.map f } }

/-! ### The walk (R231, R233) -/

/-- The walk of a job begins its key block `k`, or leaves the job after its last. -/
def Channel.walkBlockAt (x : Channel) (j : ApJob) (k : Nat) : Channel :=
  if 128 * k ≥ x.apLk j then x.modPage (fun p => { p with wjob := p.wjob + 1, looked := false, wblk := 0, wtok := 0, wpg := 0 })
  else
    let geom := x.seqField (x.apSeq j) 17 1
    let t := pageT (geomD geom) (bitsOf geom 5 2)
    x.modPage (fun p => { p with wblk := k, wtok := x.apToks j k, wpg := 128 * k / t })

/-- The sequence entry of a job has been looked up (R231): LK must not exceed LEN (R230), and D must be the record's (R233). -/
def Channel.walkLooked (x : Channel) (k : BitVec 3) (i : DIns) (j : ApJob) : WalkRes :=
  let q := x.apSeq j
  let geom := x.seqField q 17 1
  if x.apLk j > x.seqField q 12 4 then .fault x (pageErr 8 q) 1
  else if geomD geom != apD i.rcd || geom % 4 == 3 || bitsOf geom 5 2 > 4 then .fault x (pageErr 7 0) 1
  else .on (((x.modPage (fun p => { p with looked := true })).walkBlockAt j 0).setWalk k .idle)

/-- A pinned page moves into the page ring, the shift record first, as far as the ring has space (R82, R231); a page read by a wider
kernel is counted as promoted (R233), and after its last byte it is unpinned. -/
def Channel.walkPage (x : Channel) (k : BitVec 3) (d : DmaSet) (i : DIns) (j : ApJob) (p : PageRun) (ent fc : Nat) : WalkRes :=
  let pd := x.pdesc (entHandle ent)
  match promoted (apKernel i.rcd) (pdFmt pd) with
  | none => .fault x (pageErr 7 (entHandle ent)) 1
  | some wide =>
    let n := min (4224 - p.wpos) ((x.ring d.ring).free / 128 * 128)
    if n == 0 then .wait x
    else
      let page := pdPpn pd * 4096
      let sh := if p.wpos == 0 then x.dramRead ((x.reg64 PTU_SHIFT_BASE).toNat + 128 * entHandle ent) 128 else ([], x, false)
      let pg := if p.wpos == 0 then sh.2.1.dramRead page (n - 128) else sh.2.1.dramRead (page + p.wpos - 128) n
      let y := pg.2.1
      if sh.2.2 || pg.2.2 then .wait y.dmaStick
      else
        let y := (y.ringWrite (y.ring d.ring) (y.ring d.ring).head (sh.1 ++ pg.1)).advHead d.ring n
        let y := y.setDctx k { y.dctx k with done := (y.dctx k).done + n }
        if p.wpos + n < 4224 then .on (y.modPage (fun p => { p with wpos := p.wpos + n }))
        else
          let q := y.apSeq j
          let y := if wide then (y.dput (y.seqAt q + 20) 4 (min (y.seqField q 20 4 + 1) 0xFFFFFFFF)).inc ATT_PROMO 1 else y
          let t := pageT (apD i.rcd) (pdFmt pd)
          .on (((y.present k (.unpin ent) fc).setWalk k .idle).modPage (fun p =>
            { p with wpos := 0, wpg := p.wpg + 1, wtok := p.wtok - t, got := p.got ++ [pdFmt pd] }))

/-- A step of the walk of an ATTN.PAGE (R231): per job the lookup of its sequence entry, then block by block each page of its list. -/
def Channel.pageWalkStep (x : Channel) (k : BitVec 3) (d : DmaSet) (i : DIns) (p : PageRun) (fc : Nat) : WalkRes :=
  match (x.apJobs i)[p.wjob]? with
  | none => .on x
  | some j =>
    match (x.dctx k).walk with
    | .asked => .wait x
    | .ready ent => if p.looked then x.walkPage k d i j p ent fc else x.walkLooked k i j
    | .idle =>
      let q := x.apSeq j
      if !p.looked then .wait ((x.present k (.seq q (x.lenField j.ent 2 1)) fc).setWalk k .asked)
      else if p.wtok == 0 then .on (x.walkBlockAt j (p.wblk + 1))
      else
        let e := p.wpg * x.seqField q 16 1 + j.head
        if e ≥ x.seqField q 8 4 then .fault x (pageErr 6 e) 0
        else match x.listEntry (x.seqField q 0 8) e with
          | .error er => match er.1 with | some e => .fault er.2 e 0 | none => .wait er.2.dmaStick
          | .ok a => x.walkAsk k a true fc

/-- Steps of the walk until it has moved every page or cannot go on. -/
def Channel.pageWalk (k : BitVec 3) (d : DmaSet) (i : DIns) (fc : Nat) : Nat → Channel → WalkRes
  | 0, x => .wait x
  | fuel + 1, x =>
    match x.attn.page with
    | none => .on x
    | some p =>
      if (x.apJobs i).length ≤ p.wjob then .on x
      else match x.pageWalkStep k d i p fc with
        | .on y => Channel.pageWalk k d i fc fuel y
        | o => o

/-- The running transfer of the DMA engine moves what its rings, the PTU and the DRAM allow, and ends with its last byte (R111, R112).
A transfer of ATTN.APPEND ends with its instruction. -/
def execDmaTransferComplete (ch : ChId) (s : State) : Out :=
  .next (
    let x := s.chan ch
    match x.dmaActive with
    | none => s
    | some (k, d) =>
      if !x.engineWork || !x.bit DMA_CTRL 0 || x.dma.stuck || (d.onDram && x.dramHeld) then s
      else if !d.att then s.dmaMove ch k d
      else if !d.plist then s
      else match x.attn.queue with
        | [] => s
        | i :: _ =>
          match Channel.pageWalk k d i s.fc 64 x.dramTurn with
          | .on y => s.setChan ch (y.dmaEnd k d s.fc)
          | .wait y => s.setChan ch y
          | .fault y e src => (s.setChan ch y).engineFault ch e src d.org)

/-! ### The unit (R230 to R237) -/

/-- The formats at the head of the page ring that hold the `tok` tokens of a block; nothing while a page is still to come. -/
def pagesFor (d : Nat) : Nat → List Nat → Option (List Nat)
  | 0, _ => some []
  | _, [] => none
  | tok + 1, f :: r => (pagesFor d (tok + 1 - pageT d f) r).map (f :: ·)

/-- The tokens of a block's pages. -/
def blockToks (b : List Byte) : Nat → List (Nat × List Byte) → List KeyTok
  | _, [] => []
  | tok, (f, bs) :: r =>
    let n := min (pageT (apD b) f) tok
    pageToks (apKernel b) (apD b) f n bs ++ blockToks b (tok - n) r

/-- Takes the pages of a block from the page ring. -/
def Channel.takePages (r : BitVec 6) : List Nat → Channel → List (Nat × List Byte) × Channel × Bool
  | [], x => ([], x, false)
  | f :: fs, x =>
    let p := x.ringRead (x.ring r) (x.ring r).tail 4224
    if p.2.2 then ([], p.2)
    else
      let q := Channel.takePages r fs (p.2.1.advTail r 4224)
      ((f, p.1) :: q.1, q.2)

/-- What a step of the unit comes to. -/
inductive UnitRes where
  | on (x : Channel)
  | wait (x : Channel)
  | done (x : Channel)
deriving DecidableEq, Repr

/-- Whether array `k` still holds an unjudged window of an instruction (R146). -/
def Channel.winsOf (x : Channel) (k : Fin 2) (no : Nat) : Bool := (x.arr k).wins.any (·.no == no)

/-- A step of the unit: a job begins, a block's pages are taken and its scores stream, its softmax and values run once the verdicts of its
scores have passed, or a job's outputs are written once those of its values have (R146, R232, R237). No block begins while a
freeze is taken. -/
def Channel.unitStep (x : Channel) (i : DIns) (p : PageRun) (f : Fin 2 × ArrFault) : UnitRes :=
  let b := i.rcd
  match (x.apJobs i)[p.job]? with
  | none => .done x
  | some j =>
    match p.pages with
    | some ps =>
      if x.winsOf 0 i.no then .wait x
      else
        let q := x.valueBlock i j.base j.n (x.lenField j.ent 8 4) (128 * p.blk) (blockToks b (x.apToks j p.blk) ps) p.rows f
        if q.2.2 then .wait q.1
        else .on (q.1.modPage (fun p => { p with pages := none, blk := p.blk + 1, rows := q.2.1 }))
    | none =>
      if x.freezing || (p.wjob == p.job && !p.looked) then .wait x
      else if p.rows.isEmpty then
        let z := (List.range (apC b * j.n)).foldl (fun (z : Channel) r =>
          z.accWrite 1 (field b 26 2 + r) (List.replicate (min 128 (apD b)) 0)) x
        .on (z.modPage (fun p => { p with base := j.base, rows := List.replicate j.n (negInf, 0) }))
      else if 128 * p.blk ≥ x.apLk j then
        if x.winsOf 1 i.no then .wait x
        else
          let o := x.apOutputs b j.base j.n p.rows
          if o.2 then .wait o.1 else .on (o.1.modPage (fun p => { p with job := p.job + 1, blk := 0, rows := [] }))
      else match pagesFor (apD b) (x.apToks j p.blk) p.got with
        | none => .wait x
        | some fs =>
          let q := Channel.takePages (apRing b) fs x
          if q.2.2 then .wait q.2.1
          else
            let y := q.2.1.modPage (fun p => { p with pages := some q.1, got := p.got.drop fs.length })
            let z := y.scoreBlock i j.base j.n (blockToks b (x.apToks j p.blk) q.1) f
            if z.2 then .wait z.1 else .on (z.1.inc ATT_BLOCKS 1)

/-- Steps of the unit until every job is done or it cannot go on. -/
def Channel.unitRun (i : DIns) (f : Fin 2 × ArrFault) : Nat → Channel → UnitRes
  | 0, x => .wait x
  | fuel + 1, x =>
    match x.attn.page with
    | none => .wait x
    | some p =>
      match x.unitStep i p f with
      | .on y => if y.raised.length > x.raised.length then .wait y else Channel.unitRun i f fuel y
      | o => o

/-- The transfer of a walk on its context (R231): its ring is the page ring. -/
def pageSet (i : DIns) (b : List Byte) : DmaSet := ⟨i.no, true, true, 0, 0, 0, 0, 0, apRing b, i.tk, i.org⟩

/-- ATTN.PAGE is taken once it is at the head of both arrays' queues (R231): its record is checked, its ring bound (R82), and its walk
loaded into its context's shadow set (R110). -/
def Channel.pageTake (x : Channel) (i : DIns) : AttnRes :=
  let ready := (unitArrs 3).all (fun k =>
    (match (x.arr k).queue with | j :: _ => j.no == i.no | [] => false) && !x.tileEarlier k i.no true && !x.convEarlier k i.no &&
      !x.accEarlier k i.no && !x.loadEarlier k i.no)
  if !ready || x.freezing then .part x
  else
    let p := x.spadRead i.desc 64
    if p.2.2 then .part p.2.1
    else
      let b := p.1
      let q := p.2.1.bindSides .attn .dma [apRing b] [apRing b] i.binds
      match lowest (q.1.pageCauses { i with rcd := b } b q.2.bad) with
      | some e => attnExc p.2.1 e
      | none =>
        let k := walkCtx i b
        if (q.1.dctx k).shadow.isSome || (unitArrs 3).any (fun a => x.drainHolds a i.no (field b 26 2) (4096 - field b 26 2)) then .part x
        else
          let j := { i with rcd := b, binds := q.2 }
          let y := q.1.dmaLoad k (pageSet j b)
          .part { y with attn := { y.attn with queue := j :: y.attn.queue.tail, page := some {} } }

/-- ATTN.PAGE at work: it leaves the arrays' queues, and both sides of its ring are free (R82), once its last output is written and its walk
has ended. -/
def Channel.runPage (x : Channel) (i : DIns) (f : Fin 2 × ArrFault) : AttnRes :=
  if i.rcd.isEmpty then x.pageTake i
  else match Channel.unitRun i f ((x.apJobs i).foldl (fun a j => a + 3 + 2 * (x.apLk j / 128 + 1)) 1) x with
    | .on y => .part y
    | .wait y => .part y
    | .done y =>
      if y.dma.ctx.toList.any (fun c => [c.active, c.shadow].any (fun o => match o with | some d => d.att && d.no == i.no | none => false))
      then .part y
      else
        let y := (unitArrs 3).foldl (fun (z : Channel) k => z.setArr k { z.arr k with queue := (z.arr k).queue.tail }) y
        .go { (y.unbindCons (apRing i.rcd)).unbindProd (apRing i.rcd) with attn := { y.attn with page := none } }

/-! ## Completion -/

/-- Whether the attention unit waits for pages: its next block's are not all in the page ring (R241). -/
def Channel.pageWait (x : Channel) : Bool :=
  match x.attn.queue, x.attn.page with
  | i :: _, some p =>
    (match (x.apJobs i)[p.job]? with
     | some j => p.pages.isNone && decide (128 * p.blk < x.apLk j) && (pagesFor (apD i.rcd) (x.apToks j p.blk) p.got).isNone
     | none => false)
  | _, _ => false

/-- The instruction at the head of the attention unit's queue goes on, and completes. While a freeze is taken ATTN.PAGE goes on to
the end of its key block (R237). -/
def attnComplete (s : State) (c : ChId) (f : Fin 2 × ArrFault) : State :=
  let x := s.chan c
  match x.attn.queue with
  | [] => s
  | i :: r =>
    let mid := match x.attn.page with | some p => p.pages.isSome | none => false
    if !x.engineGo || (x.freezing && !mid) || (i.opc == 0x71 && x.dramHeld) then s
    else
      let q := if i.opc == 0x76 then x.runTable i else if i.opc == 0x71 then x.dramTurn.runAppend i s.fc else x.runPage i f
      match q with
      | .part y => s.setChan c y
      | .err y e src => (s.setChan c y).engineFault c e src i.org
      | .go y => (s.setChan c { y with attn := { y.attn with queue := headAt s.fc r } }).tokenIn c i.tk i.org

/-- An ATTN instruction's last operation has reached the DRAM queue and its token increments: the first instruction of the
PTU's queue, or of the attention unit's (R222, R225, R228, R232). `fault` is one of array `arr`'s hardware meanwhile (R147). -/
def execAttnInstrComplete (ch : ChId) (ptu : Bool) (arr : Fin 2) (fault : ArrFault) (s : State) : Out :=
  .next (if ptu then ptuComplete s ch else attnComplete s ch (arr, fault))

end Sys2Proof.Machine
end

