-- ==== Sys2Proof/Machine/Eth.lean ====
section
/-!
DEFINITION. The Ethernet ports (R391 to R395): received frames, transmitted frames, host rings, and transmit stamps.
(PRESUMED, log entry 34.)
-/

namespace Sys2Proof.Machine

open Sys2Proof

/-- A short time with a fraction, moved by `ps` picoseconds either way, in units of 2⁻³² ns. -/
def fineOf (t : Dword) (frac : Word) : Nat := nsOf t * 2 ^ 32 + frac.toNat

/-- Latency in units of 2⁻³² ns. -/
def psFine (ps : Word) : Nat := ps.toNat * 2 ^ 32 / 1000

/-- `n` big-endian bytes of a frame as a number. -/
def beField (bs : List Byte) (k n : Nat) : Nat := ((bs.drop k).take n).foldl (fun a b => 256 * a + b.toNat) 0

/-- Whether an IPv4 header's checksum passes: its 16-bit words sum, with carries, to all ones. -/
def ipOk (h : List Byte) : Bool :=
  let t := ((List.range (h.length / 2)).map (fun k => beField h (2 * k) 2)).foldl (· + ·) 0
  let f := t % 65536 + t / 65536
  (f % 65536 + f / 65536) == 65535

/-- The Ethernet payload's place, the EtherType behind any VLAN tag, and the VLAN identifier. -/
def ethType (f : List Byte) : Nat × Nat × Option Nat :=
  if beField f 12 2 == 0x8100 then (18, beField f 16 2, some (beField f 14 2 % 4096)) else (14, beField f 12 2, none)

/-- The UDP datagram of a frame that is not a fragment: IP version, destination port, payload, and whether the IPv4
header's checksum passes. -/
def udpOf (f : List Byte) : Option (Nat × Nat × List Byte × Bool) :=
  let e := ethType f
  let p := f.drop e.1
  if e.2.1 == 0x0800 && beField p 0 1 / 16 == 4 && beField p 9 1 == 17 && beField p 6 2 % 16384 == 0 then
    let ihl := beField p 0 1 % 16 * 4
    let u := p.drop ihl
    some (4, beField u 2 2, (u.take (beField u 4 2)).drop 8, ihl ≥ 20 && ipOk (p.take ihl))
  else if e.2.1 == 0x86DD && beField p 0 1 / 16 == 6 && beField p 6 1 == 17 then
    let u := p.drop 40
    some (6, beField u 2 2, (u.take (beField u 4 2)).drop 8, true)
  else none

/-- The offset of word `w` of steering entry `e` (R449). -/
def STEER (e w : Nat) : Nat := 0x3360000 + 16 * e + 4 * w

/-- Whether steering entry `e` is valid and matches (R272). -/
def State.steers (s : State) (port : Nat) (vid : Option Nat) (ver dport : Nat) (e : Nat) : Bool :=
  let w0 := s.reg (STEER e 0)
  let w1 := s.reg (STEER e 1)
  let ipv := getField w0 31 30
  w1.getLsbD 7 && getField w0 15 0 == dport && b2n (w0.getLsbD 29) == port &&
    (match vid with | some v => w0.getLsbD 28 && getField w0 27 16 == v | none => !w0.getLsbD 28) &&
    (ipv == 2 || (ipv == 0 && ver == 4) || (ipv == 1 && ver == 6))

/-- A frame goes to the host's receive ring (R393): buffer, entry, head index, in that order; without a buffer that holds
it, it is dropped. -/
def State.ethToHost (s : State) (port : Nat) (f : List Byte) (at_ : Nat) (ptp : Bool) : State :=
  let n := 2 ^ getField (s.reg (ETH_RXSIZE port)) 4 0
  let h := s.reg (ETH_RXHEAD port)
  let e := (s.reg64 (ETH_RXBASE port)).toNat + 32 * (h.toNat % n)
  if h == s.reg (ETH_RXTAIL port) || rdLe s.hostMem (e + 8) 4 < f.length then s.inc (ETH_RXDROP port) 1
  else
    let s := s.hostWrite (rdLe s.hostMem e 8) f
    let s := s.hostWrite (e + 16) (leBytes 8 (shortOf (at_ / 2 ^ 32)).toNat ++ leBytes 4 (at_ % 2 ^ 32) ++ leBytes 2 f.length ++
      leBytes 1 (b2n (ethType f).2.2.isSome + 2 * b2n ptp) ++ leBytes 1 0)
    (s.inc (ETH_RXHEAD port) 1).cause (37 + 2 * port)

/-- The receive side of a port takes a frame (R391 to R394, R396). `t` and `frac` are the time of its first bit behind the SFD at
the PCS; the stamp is that less ETH_RXLAT. -/
def State.ethReceive (s : State) (port : Fin 2) (frame : List Byte) (fcsBad : Bool) (t : Dword) (frac : Word) : State :=
  let p := port.val
  if !s.bit (ETH_CTRL p) 0 then s
  else if fcsBad || frame.length < 64 || frame.length > 9216 then s.inc (ETH_RXERR p) 1
  else if beField frame 12 2 == 0x8808 then s.inc (ETH_MACCTL p) 1
  else
    let dst := beField frame 0 6
    if !(s.bit (ETH_CTRL p) 3 || (frame.headD 0).getLsbD 0 || dst == getField (s.reg64 (ETH_MAC p)) 47 0) then s
    else
      let s := s.inc (ETH_RXFR p) 1
      let at_ := fineOf t frac - psFine (s.reg (ETH_RXLAT p))
      let body := frame.take (frame.length - 4)
      let e := ethType body
      let u := udpOf body
      let ptp := e.2.1 == 0x88F7 || (match u with | some q => q.2.1 == 319 || q.2.1 == 320 | none => false)
      if ptp && getField (s.reg PTP_CTRL) 1 0 == 1 then (if e.2.1 == 0x88F7 then s.ptpTake port (body.drop e.1) else s)
      else match u with
        | some (ver, dport, pay, ok) =>
          match if ok then (List.range 64).find? (fun k => s.steers p e.2.2 ver dport k) else none with
          | some k =>
            let w := s.reg (STEER k 1)
            if w.getLsbD 6 then s.inc (ETH_UNSTEER p) 1
            else
              let c : ChId := Fin.ofNat 16 (getField w 3 0)
              let s := s.inc (ETH_STEERED p) 1
              if s.parked c then s
              else s.modChan c (fun x =>
                if x.fenced then x else x.fragment (Fin.ofNat 2 (getField w 4 4)) pay (shortOf (at_ / 2 ^ 32)))
          | none => s.ethToHost p frame at_ ptp
        | none => s.ethToHost p frame at_ ptp

/-- A frame is received. In near-end loopback nothing comes from the pins (R411). -/
def execEthFrameReceive (port : Fin 2) (frame : List Byte) (fcsBad : Bool) (t : Dword) (frac : Word) (s : State) : Out :=
  .next (if s.bit (ETH_CTRL port.val) 4 then s else s.ethReceive port frame fcsBad t frac)

/-- ETH_TXTAIL written: the host posts entries (R393). -/
def execEthTxtailWrite (port : Fin 2) (v : Word) (s : State) : Out := .next (s.atPort (fun s => s.setReg (ETH_TXTAIL port.val) v))

/-- ETH_RXTAIL written: the host posts buffers (R393). -/
def execEthRxtailWrite (port : Fin 2) (v : Word) (s : State) : Out := .next (s.atPort (fun s => s.setReg (ETH_RXTAIL port.val) v))

/-- A stamp joins the transmit timestamp queue (R395). -/
def State.tsqPut (s : State) (port tsid at_ : Nat) : State :=
  let h := s.reg TSQ_HEAD
  let t := s.reg TSQ_TAIL
  if (t - h).toNat ≥ 16 then ((s.orReg TSQ_STAT 1).inc TSQ_DROP 1).cause 41
  else
    let e := TSQ_ENTRY (t.toNat % 16)
    ((((s.setReg e (BitVec.ofNat 32 (tsid + 65536 * port))).setReg (e + 4) (BitVec.ofNat 32 at_)).setReg64 (e + 8)
      (shortOf (at_ / 2 ^ 32))).inc TSQ_TAIL 1).cause 41

/-- The port takes the next entry of the transmit ring (R393, R394): one with an invalid LEN is skipped; of any other the
frame's last bit leaves, TXHEAD advances, and a stamp may queue; in near-end loopback the port receives it (R411). `t` and `frac` are the time of its first bit behind the
SFD at the PCS. -/
def execEthFrameTransmitted (port : Fin 2) (t : Dword) (frac : Word) (s : State) : Out :=
  .next (
    let p := port.val
    let h := s.reg (ETH_TXHEAD p)
    if !s.bit (ETH_CTRL p) 0 || h == s.reg (ETH_TXTAIL p) then s
    else
      let n := 2 ^ getField (s.reg (ETH_TXSIZE p)) 4 0
      let e := (s.reg64 (ETH_TXBASE p)).toNat + 16 * (h.toNat % n)
      let len := rdLe s.hostMem (e + 8) 2
      let tsid := rdLe s.hostMem (e + 10) 2
      let stamps := bitOf (rdLe s.hostMem (e + 12) 1) 0
      let s := (s.inc (ETH_TXHEAD p) 1).cause (38 + 2 * p)
      if len < 60 || len > 9212 then s.inc (ETH_TXERR p) 1
      else
        let s := s.inc (ETH_TXFR p) 1
        let s := if stamps then s.tsqPut p tsid (fineOf t frac + psFine (s.reg (ETH_TXLAT p))) else s
        if s.bit (ETH_CTRL p) 4 then
          let f := rdBytes s.hostMem (rdLe s.hostMem e 8) len
          s.ethReceive port (f ++ leBytes 4 (crc32 f).toNat) false t frac
        else s)

/-- A write of TSQ_HEAD past TSQ_TAIL is ignored (R395). -/
def State.tsqHead (s : State) (v : Word) : State :=
  let h := s.reg TSQ_HEAD
  if (v - h).toNat ≤ (s.reg TSQ_TAIL - h).toNat then s.setReg TSQ_HEAD v else s

/-- TSQ_HEAD written. -/
def execTsqHeadWrite (v : Word) (s : State) : Out := .next (s.atPort (fun s => s.tsqHead v))

/-- A port gains or loses link, block lock or FEC lock (R411). -/
def execEthLinkChange (port : Fin 2) (link block fec : Bool) (s : State) : Out :=
  .next (
    let o := ETH_STAT port.val
    let was := s.bit o 0
    let s := s.setReg o (setField (s.reg o) 2 0 (b2n link + 2 * b2n block + 4 * b2n fec))
    if was && !link then
      { s.orReg o 8 with ptp := { s.ptp with heard := s.ptp.heard.set port.val none port.isLt } }.ptpGrand s.ptpServes
    else s)

end Sys2Proof.Machine
end

