-- ==== Sys2Proof/Machine/Cascade.lean ====
section
/-!
DEFINITION. The cascade ports (R363 to R365, R371 to R376): training, packets, acknowledgement, credits, delivery. The ports
belong to channels 0, 4, 8 and 12; in other channels their events have no effect.
(DESIGN CHOICE, log entry 32.)
-/

namespace Sys2Proof.Machine

open Sys2Proof

/-- Whether a channel owns a cascade port (R364). -/
def ownsPort (c : ChId) : Bool := c.val % 4 == 0

/-- Training from step 1 (R376). -/
def Channel.casTrain (x : Channel) (now : Nat) : Channel :=
  x.modCas (fun d => { d with state := if d.lock then .locked else .seek, since := now, tries := 0 })

/-- Whether a packet is part of a transfer of channel `a`. -/
def Xfer.owns (t : Xfer) (a : ChId) (p : Pkt) : Bool :=
  p.typ == linkType t.halo && p.sch == a && p.dch == t.ch && p.ddev.toNat == t.dev && p.slot.toNat == t.slot && p.row.toNat == t.row

/-- Whether two packets are of one block. -/
def sameBlock (p q : Pkt) : Bool :=
  p.typ == q.typ && p.sch == q.sch && p.dch == q.dch && p.ddev == q.ddev && p.slot == q.slot && p.row == q.row

/-- The blocks among packets in order, each by its last packet here. -/
def blocksOf : List Pkt → List Pkt
  | [] => []
  | p :: r =>
    if match r.find? (sameBlock p) with | some q => decide (q.off ≤ p.off) | none => true then p :: blocksOf r else blocksOf r

/-- The transfers of channel `a` that are under way through port `c`, or have packets there, are dropped as it goes DOWN (R365). -/
def State.xferDown (s : State) (c : ChId) (lost : List Pkt) (a : ChId) : State :=
  let x := s.chan a
  let hit : Xfer → Bool := fun t =>
    t.dev != s.ownDev && t.fate == .waiting && decide (0 < t.pos) &&
      (lost.any (t.owns a) || (s.route a t.dev == some c && decide (t.pos < t.len)))
  let n := (x.link.xfers.filter hit).length
  let y := { x with link := { x.link with xfers := x.link.xfers.map (fun t => if hit t then { t with fate := .dropped, buf := [] } else t) } }
  (List.range n).foldl (fun (u : State) _ => u.linkDrop c a) (s.setChan a y)

/-- A port that was UP goes DOWN (R374, R375): the blocks that waited at it are dropped and count in LINK_DROP here and at the
senders of this device, a block whose command has ended like any other; with AUTO = 1 it trains again. -/
def State.casDown (s : State) (c : ChId) : State :=
  let x := s.chan c
  let lost := x.cas.txq
  let x := (x.modCas (fun d => { d with state := .down, txq := [], unacked := [], nak := none })).inc CAS_DOWNCNT 1
  let x := if x.bit CAS_CTRL 0 && x.bit CAS_CTRL 1 then x.casTrain s.nowFine else x
  let own : Pkt → Bool := fun p => p.sdev.toNat == s.ownDev && (p.typ == 1 || p.typ == 4)
  let listed : Pkt → Bool := fun p => (s.chan p.sch).link.xfers.any (fun t => t.fate == .waiting && t.owns p.sch p)
  let left := blocksOf (lost.filter (fun p => own p && !listed p))
  let s := (List.finRange 16).foldl (fun (t : State) a => t.xferDown c lost a) (s.setChan c x)
  let s := left.foldl (fun (t : State) p => t.linkDrop c p.sch) s
  ((lost.filter (fun p => !own p)).foldl (fun (t : State) p => t.packetDrop c p) s).cause 45

/-- A write of CAS_CTRL.EN (R376); the port of a channel out of service stays down (R20). -/
def State.casEnWrite (s : State) (c : ChId) (en : Bool) : State :=
  let x := s.chan c
  let was := x.bit CAS_CTRL 0
  if !ownsPort c || !s.live c then s
  else
    let x := x.setReg CAS_CTRL (setBit (x.reg CAS_CTRL) 0 en)
    let s := s.setChan c x
    if en && !was then s.modChan c (fun x => x.casTrain s.nowFine)
    else if !en && was then
      let s := if x.cas.state == .up then s.casDown c else s
      s.modChan c (fun x => x.modCas (fun d => { d with state := .down, lock := false }))
    else s

/-- CAS_CTRL.EN written. -/
def execCasCtrlEnWrite (ch : ChId) (en : Bool) (s : State) : Out := .next (s.casEnWrite ch en)

/-- A valid beat arrived. -/
def Channel.casBeat (x : Channel) (now : Nat) : Channel := x.modCas (fun d => { d with beat := now })

/-- Block lock of the 8 lanes, deskewed (R316, R376): gained, or lost to invalid sync headers, which sets training back to its
first step and leaves a port that is UP without valid beats. -/
def execCasBlockLock (ch : ChId) (lock : Bool) (s : State) : Out :=
  .next (s.modChan ch (fun x =>
    if !x.bit CAS_CTRL 0 || !ownsPort ch then x
    else x.modCas (fun d => { d with
      lock := lock
      state := if lock then (if d.state == .seek then .locked else d.state)
               else if d.state == .down || d.state == .up then d.state else .seek })))

/-! ## Near-end loopback (R380) -/

/-- Whether a port receives what it sends itself: CAS_CTRL.LOOP. -/
def Channel.loops (x : Channel) : Bool := x.bit CAS_CTRL 2

/-- The credits a port offers (R372): 64 KiB of data buffer and 4 KiB of control buffer, in 128 B. -/
def offer (vc : Bool) : Nat := if vc then 32 else 512

/-- The TRN STATE a port sends (R371, R376). -/
def Cas.trn (d : Cas) : Nat :=
  match d.state with
  | .seek => 1
  | .locked => 2
  | .meas => 2
  | .ready => 3
  | _ => 0

/-- Whether a port that is UP receives beats. -/
def Cas.hears (d : Cas) : Bool := d.state == .up && d.lock

/-- Whether two masters, or none, are among this device and those its ports have met (R364). -/
def State.masterErr (s : State) : Bool :=
  let far := [0, 4, 8, 12].filterMap (fun k =>
    let v := (s.chan (Fin.ofNat 16 k)).reg CAS_FAR
    if v.getLsbD 5 then some (getField v 2 0) else none)
  (far.eraseDups.filter (· != s.ownDev)).length + b2n (s.bit GLB_STRAPS 3) != 1

/-- Sixteen consecutive TRN beats with STATE at least `state` (R376): a locked port sends CLASS and MEAS with a fresh token;
READY beats bring the far end's position, port, credits and master flag, and a ready port comes UP. -/
def execCasTrnReceive (ch : ChId) (state : Byte) (pos : BitVec 3) (port : BitVec 2) (c0 c1 : Nat) (master : Bool) (s : State) : Out :=
  .next (
    let x := (s.chan ch).casBeat s.nowFine
    if x.loops && !(state.toNat == x.cas.trn && pos.toNat == s.ownDev && port.toNat == ch.val / 4 && c0 == offer false &&
        c1 == offer true && master == s.master) then s
    else if x.cas.state == .locked && decide (state ≥ 2) then
      s.setChan ch (x.modCas (fun d => { d with state := .meas, token := d.token + 1, tries := 0 }))
    else if x.cas.state == .ready && decide (state ≥ 3) then
      let x := x.setReg CAS_FAR (BitVec.ofNat 32 (pos.toNat + 8 * port.toNat + 32 * b2n master))
      let x := x.modCas (fun d => { d with
        state := .up, txSeq := 0, rxSeq := 0, txq := [], unacked := [], rxq := [], nak := none,
        init0 := c0 % 65536, init1 := c1 % 256, ret0 := 0, ret1 := 0, used0 := 0, used1 := 0, back0 := 0, back1 := 0,
        credAt := s.nowFine })
      let s := s.setChan ch x
      (s.modChan ch (fun x => x.setReg CAS_STAT (setBit (x.reg CAS_STAT) 5 s.masterErr))).cause 45
    else s.setChan ch x)

/-- The far end's determinism class is compared with this device's (R363). -/
def execCasClassReceive (ch : ChId) (cls : Word) (s : State) : Out :=
  .next (s.modChan ch (fun x =>
    if x.cas.state == .down || x.cas.state == .seek || (x.loops && cls != s.reg (GLB_ID + 4)) then x
    else (x.casBeat s.nowFine).setReg CAS_STAT (setBit (x.reg CAS_STAT) 4 (cls != s.reg (GLB_ID + 4)))))

/-- A MEAS from the far end is answered with an ECHO of its token (R376). -/
def execCasMeasReceive (ch : ChId) (token : Word) (s : State) : Out :=
  .next (s.modChan ch (fun x =>
    if x.cas.state == .down || x.cas.state == .seek || (x.loops && token != x.cas.token) then x
    else (x.casBeat s.nowFine).modCas (fun d => { d with echo := token })))

/-- An ECHO with the token sent gives the one-way delay (R376): `ps` from MEAS departure to ECHO arrival, less TURN beats of
2.0625 ns, halved, in fc, rounded up; LATRISK when that and 8 fc exceed CAS_LAT (R373). -/
def execCasEchoReceive (ch : ChId) (token : Word) (turn : BitVec 16) (ps : Nat) (s : State) : Out :=
  .next (s.modChan ch (fun x =>
    if x.cas.state != .meas || token != x.cas.token then x
    else
      let fc := ((2 * ps - 4125 * turn.toNat) * 9 + 39999) / 40000
      let x := (x.casBeat s.nowFine).setReg CAS_OWD (BitVec.ofNat 32 (min fc 1023))
      let x := x.setReg CAS_STAT (setBit (x.reg CAS_STAT) 6 (decide (fc + 8 > getField (x.reg CAS_LAT) 9 0)))
      x.modCas (fun d => { d with state := .ready })))

/-- No ECHO within 256 beats (R376): MEAS is resent, at most 4 times; then training starts again at step 1. -/
def execCasMeasTimeout (ch : ChId) (s : State) : Out :=
  .next (s.modChan ch (fun x =>
    if x.cas.state != .meas then x
    else if x.cas.tries < 4 then x.modCas (fun d => { d with tries := d.tries + 1 })
    else x.casTrain x.cas.since))

/-- Training not UP 2 ms after step 1 (R376). -/
def execCasTrainingTimeout (ch : ChId) (s : State) : Out :=
  .next (s.modChan ch (fun x =>
    if x.cas.state == .down || x.cas.state == .up || decide (s.nowFine < x.cas.since + 2000000 * 2 ^ 32) then x
    else
      let x := x.orReg CAS_STAT 8
      if x.bit CAS_CTRL 1 then x.casTrain s.nowFine else x.modCas (fun d => { d with state := .down })))

/-! ## Acknowledgement and credits (R372, R374) -/

/-- An acknowledgement passes every packet before it; credits are cumulative (R372). -/
def Cas.acked (d : Cas) (ack : BitVec 12) (c0 c1 : BitVec 16) (now : Nat) : Cas :=
  let un := d.unacked.filter (fun e => !decide ((ack - 1 - e.1.pseq).toNat < 2048))
  let moved := c0 != d.ret0 || c1 != d.ret1
  { d with unacked := un, ret0 := c0, ret1 := c1, credAt := if moved then now else d.credAt, beat := now }

/-- An IDLE beat returns acknowledgement and credits (R371). -/
def execCasIdleReceive (ch : ChId) (ack : BitVec 12) (c0 c1 : BitVec 16) (s : State) : Out :=
  .next (
    let d := (s.chan ch).cas
    if !d.hears || ((s.chan ch).loops && !(ack == d.rxSeq && c0 == d.back0 && c1 == d.back1)) then s
    else (s.modChan ch (fun x => x.modCas (fun d => d.acked ack c0 c1 s.nowFine))).casSend ch)

/-- A NAK names the PSEQ expected: the packets from it on are resent, with the acknowledgement and credits of the present; one that
has been resent 8 times without an acknowledgement takes the port DOWN and raises checker event 0x09 (R374). -/
def execCasNakReceive (ch : ChId) (pseq : BitVec 12) (s : State) : Out :=
  .next (
    let x := s.chan ch
    if !x.cas.hears || (x.loops && x.cas.nak != some pseq) then s
    else
      let un := x.cas.unacked.filter (fun e => !decide ((pseq - 1 - e.1.pseq).toNat < 2048))
      let y := x.modCas (fun d => { d with unacked := un, beat := s.nowFine })
      if un.any (fun e => e.2.1 ≥ 8) then (s.setChan ch (y.raise 0x09)).casDown ch
      else
        let again := un.map (fun e => ({ e.1 with txfc := BitVec.ofNat 16 s.linkFc, ack := x.cas.rxSeq, cred0 := x.cas.back0, cred1 := x.cas.back1 }, e.2.1 + 1, e.2.2))
        (s.setChan ch ((y.modCas (fun d => { d with unacked := again })).inc CAS_REPLAY un.length)).casSend ch)

/-- Every 16,384 beats an ALIGN beat replaces one beat (R371). -/
def execCasAlignSend (ch : ChId) (s : State) : Out :=
  .next (s.modChan ch (fun x =>
    if x.cas.state == .down || !ownsPort ch then x else x.modCas (fun d => { d with aligns := d.aligns + 1 })))

/-- 10 µs without a beat, without an acknowledgement of the oldest packet, or without credits for waiting data, declare the
far end dead (R375). -/
def execCasDeadTimeout (ch : ChId) (s : State) : Out :=
  .next (
    let d := (s.chan ch).cas
    let late : Nat → Bool := fun t => decide (t + 10000 * 2 ^ 32 ≤ s.nowFine)
    if d.state == .up && (late d.beat || d.unacked.any (fun e => late e.2.2) || (!d.txq.isEmpty && late (max d.waitAt d.credAt))) then
      (s.modChan ch (fun x => x.orReg CAS_STAT 4)).casDown ch
    else s)

/-! ## Receiving (R373, R374) -/

/-- Whether a link fc count, by its low 16 bits, is still to come. -/
def State.fcAhead (s : State) (due : Nat) : Bool :=
  let d := (due + 65536 - s.linkFc % 65536) % 65536
  decide (0 < d) && decide (d < 32768)

/-- The delivery count of a packet (R373). -/
def Channel.casDue (x : Channel) (p : Pkt) : Nat := (p.txfc.toNat + getField (x.reg CAS_LAT) 9 0) % 65536

/-- Whether the receive buffer of a port has room for a packet; a sender never starts one without (R372). -/
def Cas.fits (d : Cas) (p : Pkt) : Bool :=
  decide (((d.rxq.filter (fun e => e.1.vc == p.vc)).map (fun e => pktCost e.1)).sum + pktCost p ≤ offer p.vc)

/-- A packet arrives (R374). `err`: 1 its CRC does not match, 2 a sync-header error inside it, 3 a beat with mixed sync headers
outside a packet, in training too, a block error (R371). The beats of a packet that is discarded are valid beats (R375). What is not the packet expected is discarded and answered with NAK; the first
packet with another PSEQ counts as a block error, and those discarded after it do not. (DEDUCED, log entry 32.) -/
def execCasPacketReceive (ch : ChId) (p : Pkt) (err : BitVec 2) (s : State) : Out :=
  .next (
    let x := s.chan ch
    if err == 3 then (if x.cas.state == .down || !x.cas.lock || x.loops then s else s.setChan ch (x.inc CAS_BLKERR 1))
    else if !x.cas.hears || (x.loops && !(x.cas.unacked.any (fun e => e.1 == p))) then s
    else if err != 0 || p.pseq != x.cas.rxSeq then
      let x := if err == 1 then x.inc CAS_CRCERR 1
               else if err != 0 || x.cas.nak.isNone then x.inc CAS_BLKERR 1 else x
      s.setChan ch ((x.casBeat s.nowFine).modCas (fun d => { d with nak := some d.rxSeq }))
    else if !x.cas.fits p then s
    else
      let ahead := s.fcAhead (x.casDue p)
      let due := (x.casDue p + 65536 - s.linkFc % 65536) % 65536
      let late := s.barred && !ahead && due != 0
      let x := if late then x.inc CAS_LATEPKT 1 else x
      let x := x.modCas (fun d =>
        let d := d.acked p.ack p.cred0 p.cred1 s.nowFine
        { d with rxSeq := d.rxSeq + 1, rxq := d.rxq ++ [(p, late)], nak := none })
      (s.setChan ch x).casSend ch)

/-- A packet that port `c` has received goes to its destination on this device, or on to the next (R20, R364, R372): over the ring
unless the port's own stop is meant; one addressed to the common block is taken where it arrives. -/
def State.deliver (s : State) (c : ChId) (p : Pkt) : State :=
  let onward (q : ChId) : State := s.modChan c (fun x => { x with link := { x.link with transit := x.link.transit ++ [⟨p, q⟩] } })
  if p.ddev.toNat != s.ownDev then
    match s.route c p.ddev.toNat with
    | some q => if q != c then onward q else if s.portUp q then s.portSend q p else s.packetDrop q p
    | none => s.packetDrop c p
  else if p.common then
    if p.typ == 6 then s.modTc (fun t => { t with adds := t.adds ++ [p.data] })
    else if p.typ == 7 then { s with sup := { s.sup with pkts := s.sup.pkts ++ [p] } }
    else s
  else if p.dch != c then onward p.dch
  else s.modChan c (fun x => { x with link := { x.link with inbox := x.link.inbox ++ [p] } })

/-- The oldest packet received is delivered, after a start barrier on its fc or at once when it came late; its buffer's
credits go back (R372, R373). -/
def execCasPacketDeliver (ch : ChId) (s : State) : Out :=
  .next (
    let x := s.chan ch
    match x.cas.rxq with
    | [] => s
    | (p, late) :: r =>
      if s.barred && !late && s.fcAhead (x.casDue p) then s
      else
        let n := BitVec.ofNat 16 (pktCost p)
        let x := x.modCas (fun d => { d with
          rxq := r, back0 := if p.vc then d.back0 else d.back0 + n, back1 := if p.vc then d.back1 + n else d.back1 })
        (s.setChan ch x).deliver ch p)

end Sys2Proof.Machine
end

