-- ==== Sys2Proof/Machine/Barrier.lean ====
section
/-!
DEFINITION. The start barrier of a cascade (R366).
(DESIGN CHOICE, log entry 45.)
-/

namespace Sys2Proof.Machine

open Sys2Proof

/-- A short time as a value of the time base, on a whole ns. -/
def timeOf (t : Dword) : TimeBase := ⟨(t.extractLsb' 30 34).zeroExtend 48, t.extractLsb' 0 30, 0⟩

/-- Ticks of every servo engine that a change of the time base has passed do not run (R295). -/
def State.skipTicks (s : State) : State := { s with chans := s.chans.map (fun x => x.servoSkip s.nowNs) }

/-- A write of GLB_SYNC_ARM: the master sends its present addend to the other devices. -/
def State.syncArm (s : State) (v : Word) : State :=
  let s := s.setReg GLB_SYNC_ARM v
  if s.master then
    (s.modTc (fun t => { t with armAt := some s.fc })).sendAddend (addPayload 0 (s.reg64 TIME_ADDEND) 0 4)
  else s

/-- GLB_SYNC_ARM is written. -/
def execGlbSyncArmWrite (v : Word) (s : State) : Out := .next (s.atPort (fun s => s.syncArm v))

/-- A write of GLB_SYNC_GO: the master, ready, 20 µs (18,000 fc) or more after its last GLB_SYNC_ARM write, with no conflict of
masters (R364), drives SYNC_OUT high. -/
def State.syncGo (s : State) : State :=
  let late := match s.tc.armAt with | some t => decide (t + 18000 ≤ s.fc) | none => true
  if s.master && getField (s.reg GLB_STATE) 1 0 == 1 && late && !s.masterErr then s.modTc (fun t => { t with syncOut := true })
  else s

/-- GLB_SYNC_GO is written with 1. -/
def execGlbSyncGoWrite (s : State) : Out := .next (s.atPort (fun s => s.syncGo))

/-- SYNC_IN is sampled high on a REFCLK edge; without GLB_SYNC_ARM the device ignores the barrier, and a master only times
the end of its SYNC_OUT by it. -/
def execSyncInSample (s : State) : Out :=
  .next (
    if s.tc.syncAt.isSome then s
    else if getField (s.reg GLB_SYNC_ARM) 15 0 == 0 then
      (if s.tc.syncOut then s.modTc (fun t => { t with syncAt := some s.fc, applied := true }) else s)
    else s.modTc (fun t => { t with syncAt := some s.fc, applied := false }))

/-- The Almanac of an armed channel starts with the bank GLB_SYNC_ARM names, if that is loaded. -/
def Channel.barrierStart (x : Channel) (arm : Word) (c : Fin 16) (t0 : Dword) : Channel :=
  let b : Fin 2 := if arm.getLsbD (16 + c.val) then 1 else 0
  if arm.getLsbD c.val && x.alm.loaded.get b && !x.fenced then x.almStart b t0 else x

/-- 16 REFCLK edges, 144 fc, after the sample the barrier is applied. The restart of a DRAM refresh schedule ends a hold in
progress and begins the count to the 256th refresh anew: R366 and R500 name the schedule alone. (DESIGN CHOICE, log
entry 29.) -/
def execBarrierApply (s : State) : Out :=
  .next (
    match s.tc.syncAt with
    | none => s
    | some e =>
      if s.tc.applied || decide (s.fc < e + 144) then s
      else
        let t0 := s.reg64 GLB_SYNC_TIME
        let arm := s.reg GLB_SYNC_ARM
        let s := { s with time := timeOf t0, linkFc := 0, barred := true }
        let s := if s.master then s else
          match s.tc.barAdd with
          | some a => s.setReg64 TIME_ADDEND a
          | none => (s.orReg TIME_STAT 0x20).cause 42
        let s := s.modTc (fun t => { t with barAdd := none, applied := true, set := none, step := 0 })
        let s := s.skipTicks
        let s := (List.finRange 16).foldl (fun (u : State) c => u.modChan c (fun x =>
          { x with dram := x.dram.schedule s.fc }.barrierStart arm c t0)) s
        s.cause 45)

/-- 24 REFCLK edges, 216 fc, after the sample SYNC_OUT returns low and GLB_SYNC_ARM clears. -/
def execSyncOutRelease (s : State) : Out :=
  .next (
    match s.tc.syncAt with
    | none => s
    | some e =>
      if !s.tc.applied || decide (s.fc < e + 216) then s
      else (s.setReg GLB_SYNC_ARM 0).modTc (fun t => { t with syncOut := false, syncAt := none, applied := false }))

end Sys2Proof.Machine
end

