-- ==== Sys2Proof/Machine/FrontEv.lean ====
section
/-!
DEFINITION. The events of the Front (R99 to R107).
(DESIGN CHOICE, log entry 31.)
-/

namespace Sys2Proof.Machine

open Sys2Proof

/-- Stream `n` of the Front. -/
def Channel.fstream (x : Channel) (n : BitVec 4) : FrontStream := x.front.streams.get n.toFin

/-- Replaces stream `n`. -/
def Channel.setFstream (x : Channel) (n : BitVec 4) (t : FrontStream) : Channel :=
  { x with front := { x.front with streams := x.front.streams.set n.toNat t n.isLt } }

/-- Bursts in flight over all streams (R101). -/
def Front.infl (fr : Front) : Nat := fr.streams.toList.foldl (fun a t => a + t.infl) 0

/-- Available credits of a stream: 128-byte steps of unclaimed ring space (R100). -/
def credits (d : RingD) (t : FrontStream) : Nat := (d.size.toNat - (t.claim - d.tail).toNat) / 128

/-- The Front takes a MOVE.FRONT from the head of its queue (R99). It waits while the stream is busy or another
stream has the ring's producer side. -/
def execFrontStreamTake (ch : ChId) (s : State) : Out :=
  .next (s.modChan ch (fun x =>
    match x.front.queue with
    | [] => x
    | i :: r =>
      if i.cancel || x.fenced || x.freezing || (x.fstream i.stream).busy || x.front.streams.toList.any (fun t => t.busy && t.ring == i.ring) then x
      else
        let t : FrontStream :=
          { busy := true, tk := i.tk, ring := i.ring, src := i.src, rem := i.rem, strided := i.strided,
            rowLen := i.rowLen, rowLeft := i.rowLen, pitch := i.pitch, claim := (x.ring i.ring).head, rest := s.fc, org := i.org }
        ({ x with front := { x.front with queue := r } }).setFstream i.stream t))

/-- Whether stream `n` has a step to request and a credit for it (R100, R101). -/
def Channel.requests (x : Channel) (n : BitVec 4) : Bool :=
  let t := x.fstream n
  t.busy && !t.cancelling && decide (128 ≤ t.rem) && credits (x.ring t.ring) t != 0

/-- The stream that goes next (R101): of those with a request, the one that has waited longest, the lower on a tie. -/
def Channel.nextStream (x : Channel) : Option (BitVec 4) :=
  ((List.range 16).map (BitVec.ofNat 4)).foldl (fun o n =>
    if !x.requests n then o
    else match o with
      | some m => if (x.fstream n).rest < (x.fstream m).rest then some n else some m
      | none => some n) none

/-- The streams that had no request on this fc rest (R101). -/
def Channel.frontTick (x : Channel) (fc : Nat) : Channel :=
  let ids := ((List.range 16).map (BitVec.ofNat 4)).filter (fun n => (x.fstream n).busy && !x.requests n)
  ids.foldl (fun (y : Channel) n => y.setFstream n { y.fstream n with rest := fc }) x

/-- A stream claims a step and issues its two read bursts, on two fc (R100, R101): it is the next in turn, and it needs a credit,
places for two bursts in flight (at most 48) and in the DRAM queue (64 entries). R101 speaks of one free place, R100 lets no other
burst between the two: a step starts only when both have theirs. (DESIGN CHOICE, log entry 31.) -/
def execFrontStepIssue (ch : ChId) (stream : BitVec 4) (s : State) : Out :=
  .next (s.modChan ch (fun x =>
    let t := x.fstream stream
    if x.fenced || x.freezing || x.nextStream != some stream || x.front.infl + 2 > 48 || x.dram.queue.length + 2 > 64 then x
    else
      let rowEnd := t.strided && t.rowLeft ≤ 128
      let t' := { t with
        claim := t.claim + 128, rem := t.rem - 128, infl := t.infl + 2, rest := s.fc + 1
        src := if rowEnd then t.src + 128 - t.rowLen + t.pitch else t.src + 128
        rowLeft := if rowEnd then t.rowLen else t.rowLeft - 128 }
      let y := x.setFstream stream t'
      { y with dram := { y.dram with queue := y.dram.queue ++ [⟨stream, false, t.src, none⟩, ⟨stream, true, t.src + 64, none⟩] } }))

/-- Stops every stream of the command on an uncorrectable burst (R104): ABORTED is set for each. -/
def Channel.frontAbort (x : Channel) : Channel :=
  let y := (List.range 16).foldl (fun (y : Channel) k =>
    let t := y.fstream (BitVec.ofNat 4 k)
    if t.busy && !t.cancelling then y.orReg (FRONT_STAT k) 8 else y) x
  y.frontCancelAll true

/-- The first burst the DRAM controller has returned to the Front is taken in (R100): two halves make a step, which is
written into the ring, and HEAD advances over it. The last step ends the stream (R102). The bursts of a cancelled stream
are discarded (R106), and an uncorrectable one stops every stream of the command (R104). -/
def execFrontBurstReturn (ch : ChId) (s : State) : Out :=
  .next (
    let x := s.chan ch
    match x.front.ret with
    | [] => s
    | b :: r =>
      let t := { x.fstream b.stream with infl := (x.fstream b.stream).infl - 1 }
      let x := ({ x with front := { x.front with ret := r } }).setFstream b.stream t
      if b.bad then s.setChan ch x.frontAbort
      else if t.cancelling || !t.busy then s.setChan ch x
      else if !b.half then s.setChan ch (x.setFstream b.stream { t with half := b.data })
      else
        let d := x.ring t.ring
        let x := (x.ringWrite d d.head (t.half ++ b.data)).advHead t.ring 128
        if t.rem == 0 && (d.head + 128 == t.claim) then
          let x := (x.setFstream b.stream { t with half := [], busy := false }).unbindProd t.ring
          (s.setChan ch x).tokenIn ch t.tk t.org
        else s.setChan ch (x.setFstream b.stream { t with half := [] }))

/-- The Front takes MOVE.FCANCEL from the head of its queue (R105). A stream that is not running completes at once
(R107), with the fill of the ring it last wrote; a stream that has never started has none, and FRONT_AHEADn takes the fill
of ring 0, the value its descriptor starts with, where R107 names no ring (DESIGN CHOICE, log entry 31). One already
cancelling keeps the instruction waiting. -/
def execFrontCancelPoint (ch : ChId) (s : State) : Out :=
  .next (
    let x := s.chan ch
    match x.front.queue with
    | [] => s
    | i :: r =>
      let t := x.fstream i.stream
      if !i.cancel || t.cancelling then s
      else
        let x := { x with front := { x.front with queue := r } }
        if t.busy then s.setChan ch (x.frontCancelPoint i.stream (some i.tk) false)
        else
          let x := (x.setReg (FRONT_WASTE i.stream.toNat) 0).setReg (FRONT_AHEAD i.stream.toNat)
            (BitVec.ofNat 32 (x.ring t.ring).fill)
          (s.setChan ch x).tokenIn ch i.tk i.org)

/-- A cancellation completes once the last burst in flight has returned (R106). -/
def execFrontCancelComplete (ch : ChId) (stream : BitVec 4) (s : State) : Out :=
  .next (
    let x := s.chan ch
    let t := x.fstream stream
    if !t.cancelling || t.infl != 0 then s
    else
      let x := (x.setFstream stream { t with busy := false, cancelling := false, ctk := none, waste := 0 }).unbindProd t.ring
      let x := ((x.orReg (FRONT_STAT stream.toNat) 4).setReg (FRONT_WASTE stream.toNat) (BitVec.ofNat 32 t.waste)).bump
        FRONT_WASTE_TOT t.waste
      let s := (s.setChan ch x).tokenIn ch t.tk t.org
      match t.ctk with | none => s | some k => s.tokenIn ch k t.org)

end Sys2Proof.Machine
end

