-- ==== Sys2Proof/Machine/Fault.lean ====
section
/-!
DEFINITION. The safe-state logic (R413 to R440): checker events, the supervisor's decisions, the retry, the safe states, the
pins, the ABORTED records, retirement, and the Hail check.
(DESIGN CHOICE, log entries 9 and 45.)
-/

namespace Sys2Proof.Machine

open Sys2Proof

/-! ## Latching (R413 to R416, R420) -/

/-- A checker event of class S (R413). -/
def classS (src : Byte) : Bool := src == 0x0C || src == 0x0D

/-- Removes the first standing event of a code. -/
def dropEvent (src : Byte) : List Byte → List Byte
  | [] => []
  | b :: r => if b = src then r else b :: dropEvent src r

/-- Whether a held message was posted by the command in the sequencer: it awaits its token and is not frozen. -/
def CanMsg.own (m : CanMsg) : Bool := m.tok.isSome && !m.frz

/-- The CAN messages of the command that have not begun are withdrawn CANCELLED (R416). -/
def State.canWithdraw (s : State) (c : ChId) : State :=
  (s.chan c).can.slots.foldl (fun (t : State) e =>
    let cut : State → State := fun t => t.modChan c (fun x => x.putSlot e.slot (some { e with next := none }))
    match e.next with
    | none => if !e.cur.begun && e.cur.own then t.settle c e 3 else t
    | some m =>
      let mine := !e.cur.begun && e.cur.own
      let t := if m.own then (cut t).canFate c e.slot m 3 else t
      if mine then t.settle c { e with next := if m.own then none else some m } 3 else t) s

/-- Stops the command in the sequencer on a checker event (R416): as an exception does, and its set-points, its CAN messages
and its unprotected slots go. Streams that an uncorrectable burst stops are ABORTED (R104). A freeze that is pending waits for the command boundary (R352). -/
def State.stopChecker (s : State) (c : ChId) (r : RunCmd) (src : Byte) (rcd : Nat) : State :=
  let s := s.modChan c (fun x =>
    let x := (if x.front.ret.any (·.bad) then x.frontAbort else x.frontCancelAll false).unfreeze
    let held := x.bit FRZ_STAT 0
    let x := x.scanLost.modRun (fun r => { r with phase := .checker, ckSrc := src, ckRec := rcd, noFrz := r.noFrz || held })
    { x with seq := { x.seq with stall := .none, reps := [] } })
  (s.spPurge c r.cmd.seq).canWithdraw c

/-- Whether a class R event stops a command: one is in the sequencer, has not finished, and has not been cut. -/
def RunCmd.stoppable (r : RunCmd) : Bool :=
  match r.phase with
  | .finished => false
  | .checker => false
  | .drained => false
  | .stopping => !r.flags.getLsbD 0
  | _ => true

/-- A latched event of a channel awaits the supervisor's decision. -/
def State.awaitDecision (s : State) (c : ChId) (src : Byte) (rcd : Nat) (stopped : Bool) : State :=
  { s with latched := s.latched ++ [⟨some c, src, s.fc, rcd, stopped⟩] }

/-- A class S event in each of two consecutive ticks, or a ninth within 1,000,000 ticks of the first of the eight before it
(R420). -/
def sPermanent (ticks : List Word) (tick : Word) : Bool :=
  (match lastOf ticks with | some t => tick == t + 1 | none => false) ||
  (match ticks with | t :: r => r.length == 7 && decide ((tick - t).toNat < 1000000) | [] => false)

/-- Stops the command beside the sequencer on a checker event (R414): it has no engine work to drain. -/
def Channel.stopSide (x : Channel) (src : Byte) (rcd : Nat) : Channel :=
  x.modCmd (fun d => { d with side := d.side.map (fun q => { q with phase := .drained, ckSrc := src, ckRec := rcd }) })

/-- An event that stops nothing in the sequencer: while a LOAD_PROG or LOAD_ALM is at work it stops that command; else it falls
outside every command and counts as a transient (R414). -/
def State.latchAside (s : State) (c : ChId) (src : Byte) (n : Nat) : State :=
  match (s.chan c).cmd.side with
  | some q =>
    if q.phase = .drained then s.awaitDecision c src n true
    else (s.modChan c (·.stopSide src n)).awaitDecision c src n true
  | none => (s.transient c src n).awaitDecision c src n false

/-- DETAIL of an event's record (R444): the low bits of the number of the command or run it concerns, the one in the sequencer until
it has finished, or else the load at work beside it; 0 outside a command. -/
def Channel.evSeq (x : Channel) : Word :=
  let side : Word := match x.cmd.side with | some q => q.cmd.seq.extractLsb' 0 32 | none => 0
  match x.cmd.run with
  | some r => if r.phase = .finished then side else r.cmd.seq.extractLsb' 0 32
  | none => side

/-- Latches an event of a load's own reads (R414): it is inside that command, whatever the sequencer runs. -/
def State.latchLoad (s : State) (c : ChId) (src : Byte) : State :=
  let side : Word := match (s.chan c).cmd.side with | some q => q.cmd.seq.extractLsb' 0 32 | none => 0
  let s := (s.modChan c (fun x => { x with aside := dropEvent src x.aside })).fltRecord (some c) src 0 side
  if (s.chan c).fenced then s else s.latchAside c src (s.reg FLT_COUNT).toNat

/-- The event that latches next: the lowest that stands, and whether it is one of a load's own reads. -/
def Channel.evNext (x : Channel) : Option (Bool × Nat) :=
  match minNat? (x.raised.map (·.toNat)), minNat? (x.aside.map (·.toNat)) with
  | none, none => none
  | some k, none => some (false, k)
  | none, some j => some (true, j)
  | some k, some j => if j < k then some (true, j) else some (false, k)

/-- The safe-state logic latches the lowest event that stands in a channel, stamps and records it. A class S event is a transient,
which it counts itself (R420). -/
def State.latchChan (s : State) (c : ChId) : State :=
  let x := s.chan c
  match x.evNext with
  | none => s
  | some (true, k) => s.latchLoad c (BitVec.ofNat 8 k)
  | some (false, k) =>
    let src : Byte := BitVec.ofNat 8 k
    let s := s.modChan c (fun x => { x with raised := dropEvent src x.raised })
    let s := s.fltRecord (some c) src 0 x.evSeq
    let n := (s.reg FLT_COUNT).toNat
    if x.fenced then s
    else if classS src then
      let tick := x.reg SERVO_TICK
      let perm := sPermanent x.cmd.sTicks tick
      let s := s.modChan c (fun x => x.modCmd (fun d =>
        { d with sTicks := (if d.sTicks.length ≥ 8 then d.sTicks.drop 1 else d.sTicks) ++ [tick] }))
      let s := (s.inc (SAFE_TRANS c.val) 1).awaitDecision c src n false
      if perm then { s.fltAction n 4 with safeDue := s.safeDue ++ [(c, src)] } else s
    else
      match x.cmd.run with
      | some r =>
        if r.stoppable then
          let s := (s.stopChecker c r src n).awaitDecision c src n true
          if r.retried && r.hailRun then
            s.modChan c (fun x => (x.hailOutcome 3 r.frame).modRun (fun r =>
              { r with status := 0x02, verdict := 3, code := src.zeroExtend 16, endT := s.now }))
          else s
        else if r.phase = .checker ∨ r.phase = .drained then s.awaitDecision c src n true
        else s.latchAside c src n
      | none => s.latchAside c src n

/-- A common-block event (R413, R415): recorded with its bit of SAFE_STAT; the device safe state is due. -/
def State.devEvent (s : State) (src : Byte) (bit : Nat) : State :=
  let s := s.fltRecord none src 5 0
  let s := s.orReg SAFE_STAT (BitVec.ofNat 32 (if bit == 0 then 0 else 2 ^ bit))
  { s with devDue := match s.devDue with | some d => some d | none => some src }

/-- A checker event is latched (R413). -/
def execCheckerEventLatch (e : EvSrc) (s : State) : Out :=
  .next (match e with
    | .chan c => s.latchChan c
    | .lockstep => s.devEvent 0x20 5
    | .memory => s.devEvent 0x27 0)

/-- The channel's heartbeat has been missing for two windows (R414): 0x10, of a live channel that is not parked. -/
def execChannelHeartbeatTimeout (ch : ChId) (s : State) : Out :=
  .next (
    if !s.live ch || s.point ch == 3 then s
    else
      let s := s.fltRecord (some ch) 0x10 0 (s.chan ch).evSeq
      if (s.chan ch).fenced then s else s.awaitDecision ch 0x10 (s.reg FLT_COUNT).toNat false)

/-- The supervisor's heartbeat has been missing for 200 µs (R415): the one event of the common block that awaits a decision.
(DESIGN CHOICE, log entry 9.) -/
def execSupervisorHeartbeatTimeout (s : State) : Out :=
  .next (
    let s := (s.fltRecord none 0x21 5 0).orReg SAFE_STAT 0x40
    { s with latched := s.latched ++ [⟨none, 0x21, s.fc, (s.reg FLT_COUNT).toNat, false⟩] })

/-- WDOG_N has been low for 1 µs (R415); it is watched while SAFE_CTRL.WDOG_EN is 1. -/
def execWdogNAssert (s : State) : Out := .next (if s.bit SAFE_CTRL 16 then s.devEvent 0x23 4 else s)

/-- REFCLK_100 lost or the root PLL out of lock (R413). -/
def execClockMonitorTrip (s : State) : Out := .next (s.devEvent 0x24 8)

/-- A rail out of its range (R413, R483): a channel's core rail, ignored unless the channel was live at test and is in
service (R481), or another. -/
def execVoltageMonitorTrip (rail : Option ChId) (s : State) : Out :=
  .next (match rail with
    | none => s.devEvent 0x25 8
    | some c => if s.bit GLB_CHFUSE c.val && !s.bit SAFE_RETIRED c.val then s.devEvent 0x25 8 else s)

/-- A junction at or above 115 °C (R413). -/
def execOvertemperatureTrip (s : State) : Out := .next (s.devEvent 0x26 8)

/-! ## Decisions (R415, R419) -/

/-- Whether the rules let the supervisor decide so on a latched event: a retry of a command the event stopped, once; a count
of an event that stopped nothing; the safe state always (R415, R416, R419, R422). (DESIGN CHOICE, log entry 45.) -/
def State.allows (s : State) (c : ChId) (e : Latched) (d : Decision) : Bool :=
  let d' := (s.chan c).cmd
  let stopped := [d'.run, d'.side].filterMap (fun o => o.filter (fun r => r.ckRec == e.rcd && (r.phase == .checker || r.phase == .drained)))
  match d with
  | .safe => true
  | .retry => classR e.src && e.stopped && stopped.any (fun r => !r.retried)
  | .count => (classR e.src || classS e.src) && (!e.stopped || stopped.isEmpty)

/-- The supervisor decides on the oldest latched event of a channel, or of the common block (R415). A decision that the rules
do not allow is none. -/
def execSupervisorDecision (ch : Option ChId) (d : Decision) (s : State) : Out :=
  .next (
    match s.latched.find? (fun e => e.ch == ch), ch with
    | none, _ => s
    | some e, none =>
      match d with
      | .safe => { s with latched := s.latched.erase e, devDue := some (s.devDue.getD e.src) }
      | .retry => s
      | .count => s
    | some e, some c =>
      if !s.allows c e d then s
      else
        let s := { s with latched := s.latched.erase e }
        match d with
        | .count => s
        | .retry => (s.modChan c (fun x => x.modCmd (fun q => { q with retry := q.retry ++ [e.rcd] }))).fltAction e.rcd 1
        | .safe => { s.fltAction e.rcd 4 with safeDue := s.safeDue ++ [(c, e.src)] })

/-- No decision has come 4.0 µs, 3,600 fc, after a latch (R415): 0x22, and the device safe state. -/
def execDeadmanExpiry (s : State) : Out :=
  .next (
    match s.latched.find? (fun e => decide (e.at_ + 3600 ≤ s.fc)) with
    | none => s
    | some e => { s with latched := s.latched.erase e }.devEvent 0x22 7)

/-! ## The retry (R416 to R418, R421) -/

/-- The code that keeps a command from its retry (R418), 0 for none. (DESIGN CHOICE, log entry 45.) -/
def State.skipCode (s : State) (c : ChId) (r : RunCmd) : Nat :=
  let x := s.chan c
  let ring := r.ringSave.any (fun q =>
    let d := x.rings.get (Fin.ofNat 64 q.1)
    d.xc && decide ((d.head - q.2.2).toNat > d.size.toNat))
  let est := hdEst (x.header (r.cmd.prog.toNat % 0x8000))
  let time :=
    if x.alm.running then decide ((x.horizon - s.nowNs) * pointMhz (s.point c) < est * 1000)
    else r.cmd.budget != 0 && decide (r.cmd.budget.toNat < est + r.acs)
  if ring then 0xE1 else if r.linkWork then 0xE2 else if time then 0xE3 else 0

/-- The command is finished without being retried. -/
def State.endRetry (s : State) (c : ChId) (status : Byte) (code : BitVec 16) : State :=
  s.modChan c (fun x => x.modRun (fun r => { r with phase := .finished, status := status, code := code, endT := s.now }))

/-- Whether a retry re-reads the journal copy of its record (R421); a standing record lies in the Almanac. -/
def RunCmd.rereads (r : RunCmd) : Bool := match r.src with | .standing _ => false | _ => true

/-- The record a retry re-reads: the journal copy, or the standing record; none when the copy is unreadable (R421). -/
def State.journal (s : State) (c : ChId) (r : RunCmd) : Option Cmd :=
  let x := s.chan c
  match r.src with
  | .standing _ => some r.cmd
  | _ =>
    match x.cmd.table.find? (fun e => e.seq == r.cmd.seq) with
    | none => some r.cmd
    | some e =>
      let p := x.dramTurn.dramRead ((x.reg64 CH_JRNL_BASE).toNat + 64 * e.slot) 64
      if p.2.2 || !rcdCrcOk p.1 then none else some (cmdOf p.1)

/-- The rings of the header take back the HEAD of a side the command bound as producer and the TAIL of one it bound as
consumer (R417). -/
def Channel.restoreCounts (x : Channel) (save : List (Nat × Word × Word)) : Channel :=
  save.foldl (fun (y : Channel) q =>
    let k : BitVec 6 := BitVec.ofNat 6 q.1
    let d := y.ring k
    y.setRing k { d with head := if d.xp then q.2.1 else d.head, tail := if d.xc then q.2.2 else d.tail }) x

/-- Of what each instruction presented, the part that `ops` operations cover whole, and the operations left over. -/
def wholeOps : Nat → List Nat → List Nat × Nat
  | ops, [] => ([], ops)
  | ops, n :: r => if n ≤ ops then let q := wholeOps (ops - n) r; (n :: q.1, q.2) else ([], ops)

/-- What a retry starts from: the state of R417, protected slots on their committed side (R253), the record, and how much of the PTU's counting work is to be discarded: the
instructions applied whole, as they were, and the operations applied of the one after them (R227). PTU_CMD_OPS goes on: it is the
same command. (DEDUCED, log entry 26.) -/
def State.restart (s : State) (c : ChId) (r : RunCmd) (m : Cmd) : State :=
  let x := s.chan c
  let ops := x.reg PTU_CMD_OPS
  let done := wholeOps ops.toNat x.ptu.insOps
  let s := s.modChan c (fun x => (x.restoreCounts r.ringSave).scanCommit false)
  let r' : RunCmd := { cmd := m, src := r.src, limit := r.limit, est := r.est, late := r.late, entry := r.entry,
                       flags := r.flags, frame := r.frame, retried := true, ringSave := r.ringSave, thaw := r.thaw,
                       ckSrc := r.ckSrc, ckRec := r.ckRec, rpt := r.rpt, noFrz := r.noFrz }
  (s.beginRun c r').modChan c (fun x =>
    { x.setReg PTU_CMD_OPS ops with ptu := { x.ptu with skipIns := done.1, discard := done.2 } })

/-- A Hail run whose retry no room is left for is missed (R335, R438, R439). -/
def State.missRetry (s : State) (c : ChId) (r : RunCmd) : State :=
  if r.hailRun then
    (s.endRetry c 0x01 0).modChan c (fun x => (x.hailOutcome 2 r.frame).modRun (fun r => { r with verdict := 2, start := s.now }))
  else s

/-- The copy in the journal is unreadable (R421): 0x0E is recorded, and the command is aborted. -/
def State.lostRecord (s : State) (c : ChId) (r : RunCmd) (f : State → State) : State :=
  let s := s.fltRecord (some c) 0x0E 6 (r.cmd.seq.extractLsb' 0 32)
  let n := (s.reg FLT_COUNT).toNat
  (f s).transient c 0x0E n

/-- The retry of the command in the sequencer (R416): it is not in the cases of R418, its record is readable, and the start checks
pass again. -/
def State.retryRun (s : State) (c : ChId) (r : RunCmd) : State :=
  let skip := s.skipCode c r
  if skip != 0 then
    let s := s.endRetry c 0x02 (BitVec.ofNat 16 (skip + 256 * r.ckSrc.toNat))
    ((if skip == 0xE3 then s.missRetry c r else s).fltAction r.ckRec 3).transient c r.ckSrc r.ckRec
  else match s.journal c r with
    | none => s.lostRecord c r (fun s => (s.endRetry c 0x04 0x000E).modChan c (fun x => x.modRun (fun r => { r with start := s.now })))
    | some m =>
      let y := s.chan c
      let standing := match r.src with | .standing _ => true | _ => false
      let t := y.slotTerms { r with cmd := m }
      let bad := if standing then 0 else y.rcdCode m
      let refuse := if m.kind == 0x06 then 0 else y.startCheck (m.prog.toNat % 0x8000) t.1 t.2.1 t.2.2 true
      if bad != 0 then s.endRetry c 0x02 (BitVec.ofNat 16 bad)
      else if !standing && s.expired m then s.endRetry c 0x01 0
      else if refuse != 0 then
        let s := (s.endRetry c 0x03 (BitVec.ofNat 16 refuse)).modChan c (fun x =>
          (x.setReg ALM_REFUSED (BitVec.ofNat 32 refuse)).modRun (fun r => { r with flags := r.flags ||| 0x20 }))
        s.missRetry c r
      else s.restart c r m

/-- The retry of a LOAD_PROG or LOAD_ALM that a checker event stopped (R414, R416): it starts anew from its journal copy. -/
def State.retrySide (s : State) (c : ChId) (r : RunCmd) : State :=
  let drop (s : State) : State := s.modChan c (fun x => x.modCmd (fun d => { d with side := none }))
  match s.journal c r with
  | none => s.lostRecord c r (fun s => (drop s).endUnrun c r 0x04 0x000E)
  | some m =>
    let bad := (s.chan c).rcdCode m
    if bad != 0 then (drop s).endUnrun c r 0x02 (BitVec.ofNat 16 bad)
    else if s.expired m then (drop s).endUnrun c r 0x01 0
    else s.modChan c (fun x => x.modCmd (fun d =>
      { d with side := some { r with cmd := m, phase := .started, retried := true }, starts := d.starts + 1 }))

/-- A command that a checker event stopped is re-executed once, when the supervisor has decided so and its work has drained
(R416), the copies it began in the PTU with it, which always reach their release step (R218, R227). -/
def execCommandRetry (ch : ChId) (s : State) : Out :=
  .next (
    let d := (s.chan ch).cmd
    let waits (o : Option RunCmd) : Option RunCmd := o.filter (fun r => r.phase == .drained && d.retry.contains r.ckRec)
    let t (r : RunCmd) : State := s.modChan ch (fun x => x.modCmd (fun d => { d with retry := d.retry.filter (· != r.ckRec) }))
    if (s.chan ch).fenced then s
    else
      match waits d.run, waits d.side with
      | some r, _ =>
        let p := (s.chan ch).ptu
        if ((s.chan ch).dramHeld && r.rereads && s.skipCode ch r == 0) || !p.copies.isEmpty || !p.releases.isEmpty then s else ((t r).retryRun ch r).endStopped ch
      | none, some q => if (s.chan ch).dramHeld then s else (t q).retrySide ch q
      | none, none => s)

/-! ## Safe states (R422 to R424, R427, R428) -/

/-- A channel's leases are revoked: its steering entries (R449), and what waits to be accepted, formed or written (R428). The
supervisor rewrites the write-back area, of a channel whose CH_WB_ADDR has been set. (DESIGN CHOICE, log entry 45.) -/
def State.revoke (s : State) (c : ChId) : State :=
  let s := (List.range 64).foldl (fun (t : State) e =>
    let w := t.reg (STEER e 1)
    if w.getLsbD 7 && getField w 3 0 == c.val then t.setReg (STEER e 1) (w ||| 0x40) else t) s
  let s := s.modChan c (fun x => x.modCmd (fun d =>
    { d with arrived := none, accepted := [], run := none, side := none, done := [], retry := [] }))
  (if (s.chan c).reg64 CH_WB_ADDR == 0 then s else s.writeBack c).logEvent 0x0004 (some c) 0

/-- Receivers of halos that the channel sends see DEAD (R204). -/
def State.haloDead (s : State) (c : ChId) : State :=
  (List.finRange 16).foldl (fun (t : State) k => t.modChan k (fun y =>
    (List.range 4).foldl (fun (y : Channel) h =>
      let w := y.halo h
      if w.armed && w.sch.toNat == c.val && w.sdev.toNat == s.ownDev then y.orReg (HALO_STAT h) 0x4 else y) y)) s

/-- The pins (R423): FAULT_N is driven low, and the SQUALL pair freezes when `squall` says so. -/
def State.dropPins (s : State) (squall : Bool) : State :=
  let s := s.orReg SAFE_STAT (if squall then 0xC else 0x8)
  if squall then { s with sqLevel := false } else s

/-- The safe-state logic acts for a channel (R424). -/
def State.chanSafe (s : State) (c : ChId) (src : Byte) : State :=
  if (s.chan c).fenced || !s.live c then s
  else
    let s := s.modChan c (fun x =>
      let x := (x.orReg SERVO_STAT 0x2).modCmd (fun d => { d with safeSrc := src })
      { x with fenced := true, drv := { x.drv with invalid := 0 }, intake := { x.intake with decode := none } })
    let s := (List.finRange 16).foldl (fun (t : State) a => t.crossLoss c a) s
    let s := (s.revoke c).haloDead c
    let s := if (s.chan c).bit CAN_SAFECTL 0 then s.canSafe c else s
    let s := s.orReg SAFE_CHSAFE (BitVec.ofNat 32 (2 ^ c.val))
    s.dropPins (s.bit SAFE_CTRL c.val)

/-- A channel's safe state is acted on. -/
def execChannelSafeState (ch : ChId) (s : State) : Out :=
  .next (
    match s.safeDue.find? (fun e => e.1 == ch) with
    | none => s
    | some e =>
      let s := { s with safeDue := s.safeDue.filter (fun e => e.1 != ch), latched := s.latched.filter (fun e => e.ch != some ch) }
      s.chanSafe ch e.2)

/-- The device safe state (R422): every live channel at once; the SQUALL pair freezes. -/
def State.deviceSafe (s : State) (src : Byte) : State :=
  let s := (List.finRange 16).foldl (fun (t : State) c => t.chanSafe c src) { s with devDue := none, safeDue := [], latched := [] }
  (s.orReg SAFE_STAT 0x2).dropPins true

/-- The device safe state is acted on. -/
def execDeviceSafeState (s : State) : Out :=
  .next (match s.devDue with | some src => s.deviceSafe src | none => s)

/-! ## The pins (R423) -/

/-- A write of SAFE_CTRL: it takes effect only while the pins are held; RELEASE needs a completed start and no safe state
latched. -/
def State.safeCtrl (s : State) (v : Word) : State :=
  if !s.bit SAFE_STAT 0 then s
  else
    let s := s.setReg SAFE_CTRL (v &&& 0x1FFFF)
    if v.getLsbD 17 && getField (s.reg GLB_STATE) 1 0 == 1 && s.reg SAFE_CHSAFE == 0 && !s.bit SAFE_STAT 1 then
      { s.clrReg SAFE_STAT 0xD with sqLevel := false, sqAt := s.fc }
    else s

/-- SAFE_CTRL is written with RELEASE. -/
def execSafeReleaseWrite (v : Word) (s : State) : Out := .next (s.atPort (fun s => s.safeCtrl (v ||| 0x20000)))

/-- SQUALL_A toggles every 450,000 fc, SQUALL_B with it, while the supervisor heartbeat is present: no missing heartbeat awaits
its decision (R423). -/
def execSquallToggle (s : State) : Out :=
  .next (
    if s.bit SAFE_STAT 2 || s.latched.any (fun e => e.src == 0x21) || s.devDue.isSome || decide (s.fc < s.sqAt + 450000) then s
    else { s with sqLevel := !s.sqLevel, sqAt := s.fc })

/-- The levels of the pins: SQUALL_A, SQUALL_B, FAULT_N. -/
def State.pins (s : State) : Bool × Bool × Bool :=
  (!s.bit SAFE_STAT 2 && s.sqLevel, !s.bit SAFE_STAT 2 && !s.sqLevel, !s.bit SAFE_STAT 3)

/-- What the part puts on a pin or a transmitter (R495). -/
inductive PinState where
  | highZ | low | high | idle | recessive | active
deriving DecidableEq, Repr

/-- The state of an output while the part is powered; without VDD_COM it is not, and the output is high-impedance (R495). -/
def State.powered (s : State) (p : PinState) : PinState := if s.sup.comOff then .highZ else p

/-- The state of an output that is high or low. -/
def State.level (s : State) (b : Bool) : PinState := s.powered (if b then .high else .low)

/-- SQUALL_A, SQUALL_B, FAULT_N on the board: FAULT_N is open-drain, released rather than driven high (R423, R495). -/
def State.safetyPins (s : State) : PinState × PinState × PinState :=
  (s.level s.pins.1, s.level s.pins.2.1, if s.pins.2.2 then .highZ else s.level false)

/-- DDR_RESET_N_n: low until the start is complete, in Calm mode, and of a channel that is out of service (R495). -/
def State.ddrResetN (s : State) (c : ChId) : PinState := s.level (s.outputsOn && s.live c)

/-- TTRG_t, PPS_OUT and SYNC_OUT: held low until the start is complete and in Calm mode (R22, R495). -/
def State.trgPin (s : State) (t : Fin 8) : PinState := s.level (s.outputsOn && (s.trigger t).high)
/-- PPS_OUT. -/
def State.ppsPin (s : State) : PinState := s.level (s.outputsOn && s.tc.pps.isSome)
/-- SYNC_OUT. -/
def State.syncPin (s : State) : PinState := s.level (s.outputsOn && s.tc.syncOut)

/-- The drive link's transmitter: electrical idle while it is off, until the start is complete, in Calm mode and of a channel out
of service (R495). -/
def State.drvPin (s : State) (c : ChId) : PinState :=
  s.powered (if s.outputsOn && s.live c && (s.chan c).bit DRV_CFG 0 && !(s.chan c).bit DRV_CFG 4 then .active else .idle)

/-- CAN_TX_n: recessive unless a frame of the controller is on the bus, and always out of normal mode (R398, R495). -/
def State.canPin (s : State) (c : ChId) : PinState :=
  s.powered (if s.outputsOn && s.live c && (s.chan c).canMode == 1 && (s.chan c).can.frame.isSome then .active else .recessive)

/-- The cascade port's transmitters: electrical idle while the port is off or down (R20, R495). -/
def State.casPin (s : State) (c : ChId) : PinState :=
  s.powered (if s.outputsOn && s.live c && (s.chan c).bit CAS_CTRL 0 then .active else .idle)

/-! ## ABORTED records and retirement (R429, R430, R434) -/

/-- The supervisor issues the next ABORTED record of a fenced channel, or waits for space with ABWAIT set. -/
def execAbortedRecordIssue (ch : ChId) (s : State) : Out :=
  .next (
    let x := s.chan ch
    let o := SAFE_LEASE ch.val
    if !x.fenced then s
    else match minNat? (x.cmd.table.map (fun e => e.seq.toNat)) with
      | none => s.clrReg o 0x1000
      | some q =>
        if x.cplFull then s.orReg o 0x1000
        else
          let seq : Dword := BitVec.ofNat 64 q
          let s := (s.putAborted ch seq (x.cmd.safeSrc.zeroExtend 16)).modChan ch (fun x => x.modCmd (fun d =>
            { d with table := d.table.filter (fun e => e.seq != seq) }))
          if (s.chan ch).cmd.table.isEmpty then s.clrReg o 0x1000 else s)

/-- The window registers of a channel that stay in service once it is retired (R429). -/
def ringCtl : List Nat :=
  [CH_CMD_ACK, CH_CMD_ACK + 4, CH_CPL_BASE, CH_CPL_BASE + 4, CH_CPL_SIZE, CH_CPL_CONS, CH_CPL_PROD, CH_WB_ADDR, CH_WB_ADDR + 4,
   CH_SEQ_NEXT, CH_SEQ_NEXT + 4]

/-- A fenced channel is retired (R430) once two INVALID frames have left or its drive link is not UP. The transmitter goes to
electrical idle at once; the switches, which end the CAN controller with the rest, open when the safe message has settled, in a
parked channel, whose controller stands still, without waiting; the channel leaves the live mask. (DESIGN CHOICE, log entry 45.) -/
def execChannelRetirement (ch : ChId) (s : State) : Out :=
  .next (
    let x := s.chan ch
    if !x.fenced || !s.live ch || (x.drv.state == .up && x.drv.invalid < 2) then s
    else if x.can.safe && s.point ch != 3 then s.modChan ch (fun x => { x with drv := { x.drv with state := .down } })
    else
      let s := if ownsPort ch && x.cas.state == .up then s.casDown ch else s
      let y := s.chan ch
      let keep : Channel := ringCtl.foldl (fun (z : Channel) o => z.setReg o (y.reg o)) {}
      let z : Channel := { keep with
        fenced := true, cmd := { table := y.cmd.table, safeSrc := y.cmd.safeSrc, fetch := y.cmd.fetch }, dram := y.dram }
      let s := s.setChan ch z
      let s := s.clrReg GLB_CHLIVE (BitVec.ofNat 32 (2 ^ ch.val))
      (s.orReg SAFE_RETIRED (BitVec.ofNat 32 (2 ^ ch.val))).logEvent 0x0005 (some ch) 0)

/-! ## Hail (R438, R440) -/

/-- After the last token of a Hail run or a host Hail check, OUT is checked against the header at ARG. A mismatch, or a header
that breaks R438, is event 0x0B. -/
def execHailSignatureCheck (ch : ChId) (s : State) : Out :=
  .next (s.modChan ch (fun x =>
    match x.cmd.run with
    | none => x
    | some r =>
      if r.phase ≠ .ended ∨ !x.seq.quiet ∨ !r.cmd.hail ∨ r.hailOk ∨ x.halted ∨ x.freezing ∨ x.fenced ∨ x.dramHeld then x
      else if !x.dramOk r.cmd.arg.toNat 16 then x.raise 0x0B
      else
        let p := x.dramTurn.dramRead r.cmd.arg.toNat 16
        let x := p.2.1
        let len := field p.1 4 4
        if p.2.2 then x
        else if field p.1 8 8 != 0 || len % 64 != 0 || len < 64 || 0x1000000 < len || !x.dramOk r.cmd.out.toNat len then x.raise 0x0B
        else
          let q := x.dramRead r.cmd.out.toNat len
          let x := q.2.1
          if q.2.2 then x
          else if field p.1 0 4 == (crc32 q.1).toNat then x.modRun (fun r => { r with hailOk := true })
          else x.raise 0x0B))

end Sys2Proof.Machine
end

