-- ==== Sys2Proof/Machine/Flash.lean ====
section
/-!
DEFINITION. The boot flash, the calibration record, and the attestation report (R457 to R459, R464 to R470).
(DESIGN CHOICE, log entry 48.)
-/

namespace Sys2Proof.Machine

open Sys2Proof

/-! ## The flash (R457) -/

/-- Bytes of the flash. The state holds them complemented, so that what is not listed is erased. -/
def State.flashRd (s : State) (a n : Nat) : List Byte := (rdBytes s.sup.flash a n).map (~~~ ·)

/-- Bytes are programmed. -/
def State.flashWr (s : State) (a : Nat) (bs : List Byte) : State :=
  { s with sup := { s.sup with flash := wrBytes s.sup.flash a (bs.map (~~~ ·)) } }

/-- An area is erased. -/
def State.flashErase (s : State) (a n : Nat) : State := { s with sup := { s.sup with flash := sclear s.sup.flash a n } }

/-- Bytes of an area whose erase or program did not complete: the manual leaves them open. -/
def State.flashLost (s : State) (a n : Nat) : State := (s.flashWr a (freeBytes s.free n)).drawFree n

/-- Whether Calm mode is in force (R462). -/
def State.calmMode (s : State) : Bool := getField (s.reg GLB_STATE) 1 0 == 2

/-- The flash offset of the slot that was booted (R457). -/
def State.bootSlot (s : State) : Nat := if s.bit GLB_STRAPS 4 then 0x800000 else 0x100000

/-- Whether `n` bytes at `a` may be erased or programmed (R457): not below 0x010_0000, the board record in Calm mode apart,
and not in the slot that was booted. -/
def State.flashMay (s : State) (a n : Nat) : Bool :=
  let b := s.bootSlot
  if a < 0x100000 then s.calmMode && decide (0x3000 ≤ a) && decide (a + n ≤ 0x4000)
  else decide (a + n ≤ b) || decide (b + 0x700000 ≤ a)

/-- The flash command register is written (R459). A command that breaks a rule is refused and changes nothing. -/
def State.flashCmd (s : State) (v : Word) : State :=
  let op := getField v 3 0
  let key := getField v 31 16
  let a := (s.reg FLASH_ADDR).toNat
  let ok :=
    match op with
    | 1 => key == 0
    | 2 => key == 0xF1A5 && a % 4096 == 0 && s.flashMay a 4096
    | 3 => key == 0xF1A5 && a % 256 == 0 && s.flashMay a 256
    | 4 => key == 0xF1A5 && !s.calmMode
    | _ => false
  if s.sup.flashRun.isSome || !ok then
    ((s.orReg FLASH_STAT 4).cause 36).logEvent 0x0008 none (BitVec.ofNat 32 (op + 16))
  else { s with sup := { s.sup with flashRun := some (op, a) } }

/-- FLASH_CMD.OP = 1. -/
def execFlashRead (s : State) : Out := .next (s.atPort (fun s => s.flashCmd 0x00000001))
/-- FLASH_CMD.OP = 2 with its KEY. -/
def execFlashErase4k (s : State) : Out := .next (s.atPort (fun s => s.flashCmd 0xF1A50002))
/-- FLASH_CMD.OP = 3 with its KEY. -/
def execFlashProg256 (s : State) : Out := .next (s.atPort (fun s => s.flashCmd 0xF1A50003))
/-- FLASH_CMD.OP = 4 with its KEY. -/
def execFlashFloor (s : State) : Out := .next (s.atPort (fun s => s.flashCmd 0xF1A50004))

/-- The bytes a READ returns. The layout of the failure record is not stated: its bytes are free. -/
def State.flashView (s : State) (a : Nat) : List Byte :=
  (List.range 256).map (fun i =>
    if 0x2000 ≤ a + i && a + i < 0x3000 then Config.freeByte (s.free + i) else ~~~ (rd8 s.sup.flash (a + i)))

/-- What a flash command does (R459): READ fills FLASH_DATA, ERASE4K erases, PROG256 programs an erased page (what programming
a page that is not erased leaves is open), FLOOR raises the floor, which never falls. -/
def State.flashDo (s : State) (op a : Nat) : State :=
  match op with
  | 1 => (s.setWords FLASH_DATA (s.flashView a)).drawFree 256
  | 2 => s.flashErase a 4096
  | 3 =>
    if (s.flashRd a 256).all (· == 0xFF) then s.flashWr a ((List.range 64).flatMap (fun k => leBytes 4 (s.reg (FLASH_DATA + 4 * k)).toNat))
    else s.flashLost a 256
  | _ =>
    let v : BitVec 16 := (s.reg GLB_FWVER).extractLsb' 16 16
    { s with sup := { s.sup with floor := if s.sup.floor.toNat < v.toNat then v else s.sup.floor } }

/-- What a flash command leaves that did not complete. -/
def State.flashCut (s : State) (op a : Nat) : State :=
  if op == 2 then s.flashLost a 4096 else if op == 3 then s.flashLost a 256 else s

/-- A flash command completes (R459); `err`: the flash reported an error, or the command did not finish in its bound. -/
def execFlashCmdComplete (err : Bool) (s : State) : Out :=
  .next (
    match s.sup.flashRun with
    | none => s
    | some (op, a) =>
      let s := { s with sup := { s.sup with flashRun := none } }
      let s := if err then (s.flashCut op a).orReg FLASH_STAT 8 else (s.flashDo op a).orReg FLASH_STAT 2
      (s.cause 36).logEvent 0x0008 none (BitVec.ofNat 32 op))

/-! ## The calibration record (R464 to R466) -/

/-- Whether a record's MAGIC, SERIAL and CRC hold. -/
def State.calOk (s : State) (b : List Byte) : Bool :=
  field b 0 4 == 0x4C41434B && (b.drop 8).take 16 == s.sup.serial && field b 1020 4 == (crc32 (b.take 1020)).toNat

/-- The record in CAL_WIN. -/
def State.calWin (s : State) : List Byte := (List.range 256).flatMap (fun k => leBytes 4 (s.reg (CAL_WIN + 4 * k)).toNat)

/-- The calibration command register is written (R465): while BUSY it is ignored and sets ERR, and so does a COMMIT that is
refused. -/
def State.calCmd (s : State) (v : Word) : State :=
  let op := getField v 1 0
  if s.sup.calRun.isSome then s.orReg CAL_STAT 4
  else if op == 0 then s
  else if op == 3 && !(getField v 31 16 == 0xCA1B && s.calOk s.calWin && field s.calWin 6 2 == 1024) then
    ((s.orReg CAL_STAT 4).cause 36).logEvent 0x0009 none (BitVec.ofNat 32 (op + 4))
  else { s with sup := { s.sup with calRun := some op } }

/-- CAL_CMD.OP = 1. -/
def execCalLoad (s : State) : Out := .next (s.atPort (fun s => s.calCmd 0x00000001))
/-- CAL_CMD.OP = 2. -/
def execCalSeal (s : State) : Out := .next (s.atPort (fun s => s.calCmd 0x00000002))
/-- CAL_CMD.OP = 3 with its KEY. -/
def execCalCommit (s : State) : Out := .next (s.atPort (fun s => s.calCmd 0xCA1B0003))

/-- What a calibration command does: LOAD, SEAL (WRITTEN = 1, then the CRC), COMMIT (erase, four programs). -/
def State.calDo (s : State) (op : Nat) : State :=
  match op with
  | 1 => s.setWords CAL_WIN (s.flashRd 0x1000 1024)
  | 2 =>
    let s := s.setReg (CAL_WIN + 24) 1
    s.setReg (CAL_WIN + 1020) (crc32 (s.calWin.take 1020))
  | _ => (s.flashErase 0x1000 4096).flashWr 0x1000 s.calWin

/-- A calibration command completes (R466); `err`: the flash reported an error, which leaves an erased or partial sector. -/
def execCalCmdComplete (err : Bool) (s : State) : Out :=
  .next (
    match s.sup.calRun with
    | none => s
    | some op =>
      let s := { s with sup := { s.sup with calRun := none } }
      let s := if err then (if op == 3 then s.flashLost 0x1000 4096 else s).orReg CAL_STAT 4 else (s.calDo op).orReg CAL_STAT 2
      (s.cause 36).logEvent 0x0009 none (BitVec.ofNat 32 op))

/-! ## Attestation (R469) -/

/-- ATT_CMD.GO: while a report is being signed it is ignored and sets ERR. -/
def State.attGo (s : State) : State :=
  if s.sup.attRun then s.orReg ATST_STAT 4 else { s with sup := { s.sup with attRun := true } }

/-- ATT_CMD is written with GO. -/
def execAttGo (s : State) : Out := .next (s.atPort (fun s => s.attGo))

/-- The SHA-384 of bytes. -/
def sha384 (b : List Byte) : List Byte := (List.range 48).map (Config.sha384 b)

/-- The image that was booted, its header and its body (R458). -/
def State.bootImage (s : State) : List Byte := s.flashRd s.bootSlot (512 + field (s.flashRd s.bootSlot 12) 8 4)

/-- The report (R469), with the measurements of the ROM, the image, the tables and the record applied. The signature is free bytes.
(DESIGN CHOICE, log entries 24 and 49.) -/
def State.attReport (s : State) : List Byte :=
  let k := s.free
  leBytes 4 0x4B415431 ++ leBytes 2 1 ++ leBytes 2 400 ++ (s.sup.serial ++ List.replicate 16 0).take 16 ++
    leBytes 4 (s.reg (GLB_ID + 4)).toNat ++ leBytes 2 (getField (s.reg GLB_CHLIVE) 15 0) ++ leBytes 2 (getField (s.reg GLB_CHFUSE) 15 0) ++
    leBytes 4 (b2n s.calmMode + 2 * b2n (s.bit GLB_STATE 3) + 4 * b2n (s.bit GLB_STATE 2) + 8 * b2n (s.bit GLB_STRAPS 4)) ++
    leBytes 4 (s.reg GLB_FWVER).toNat ++ leBytes 4 s.sup.floor.toNat ++ leBytes 4 0 ++
    (List.range 12).flatMap (fun j => leBytes 4 (s.reg (ATT_NONCE + 4 * j)).toNat) ++
    sha384 Config.rom ++ sha384 s.bootImage ++ sha384 (Config.numTables (getField (s.reg (GLB_ID + 4)) 31 16)) ++
    sha384 s.sup.calUsed ++ leBytes 8 s.now.toNat ++ leBytes 8 0 ++ freeBytes k 96

/-- The report is signed, or signing fails (R466, R469). -/
def execAttReportComplete (fail : Bool) (s : State) : Out :=
  .next (
    if !s.sup.attRun then s
    else
      let s := { s with sup := { s.sup with attRun := false } }
      if fail then ((s.setWords ATT_REPORT (List.replicate 400 0)).orReg ATST_STAT 8).cause 35
      else (((s.setWords ATT_REPORT s.attReport).drawFree 96).orReg ATST_STAT 2).cause 35)

end Sys2Proof.Machine
end

