-- ==== Sys2Proof/Machine/Power.lean ====
section
/-!
DEFINITION. Power points, telemetry and throttling (R24, R471 to R476).
(DEDUCED, log entry 46.)
-/

namespace Sys2Proof.Machine

open Sys2Proof

/-- A channel's power control. -/
def State.pw (s : State) (c : ChId) : Pwr := s.pwr.get c

/-- Modifies a channel's power control. -/
def State.modPw (s : State) (c : ChId) (f : Pwr → Pwr) : State := { s with pwr := s.pwr.set c.val (f (s.pwr.get c)) c.isLt }

/-- The point a channel is to run at: its request, or the lower point that throttling allows; throttling never parks
(R472, R475). -/
def Pwr.target (p : Pwr) : Nat := if p.req == 3 then 3 else max p.req (max p.capT (max p.capC p.capP))

/-! ## The channels' core voltages (R470 to R472) -/

/-- The nominal core voltage of a point, in mV; a parked channel is held at that of P2 (R471). -/
def nominalMv (point : Nat) : Int := if point == 0 then 750 else if point == 1 then 700 else 650

/-- A channel's rail in the board record applied (R470): its bus, address, page, tie group and slew; none for a record that has
no entry for it. -/
def State.rail (s : State) (c : ChId) : Option (Nat × Nat × Nat × Nat × Nat) :=
  let b := s.sup.board
  let o := 16 + 8 * c.val
  if field b 8 4 ≤ c.val then none else some (field b o 1, field b (o + 1) 1, field b (o + 2) 1, field b (o + 3) 1, field b (o + 4) 2)

/-- Whether two channels' rails share one regulator: they are one channel, or tied by one group. -/
def State.tied (s : State) (c d : ChId) : Bool :=
  c == d || (match s.rail c, s.rail d with
    | some p, some q => p.2.2.2.1 == q.2.2.2.1 && p.2.2.2.1 != 0xFF
    | _, _ => false)

/-- The nominal voltage that a channel needs: that of its point, and of the point a change raises it to. -/
def State.needMv (s : State) (c : ChId) : Int :=
  max (nominalMv (s.point c)) (match (s.pw c).change with | some n => nominalMv n | none => 650)

/-- The voltage of a channel's rail: the highest that its tie group needs, with the part's fused offset (R471). -/
def State.railMv (s : State) (c : ChId) : Int :=
  ((List.finRange 16).filter (fun d => s.live d && s.tied c d)).foldl (fun m d => max m (s.needMv d)) 650 + s.sup.offset

/-- The supervisor sets the rails: up before a pattern that needs it, down after one that no longer does (R472). -/
def State.setRails (s : State) : State :=
  { s with pwr := Vector.ofFn (fun c => if s.live c then { s.pw c with mv := s.railMv c } else s.pw c) }

/-- Whether the regulator's readback confirms the voltage that a point needs (R472). -/
def State.voltOk (s : State) (c : ChId) (n : Nat) : Bool := decide (nominalMv n + s.sup.offset ≤ (s.pw c).mv)

/-- The supervisor begins a change to the point a channel is to run at, once no other is in progress (R472). -/
def State.startChange (s : State) (c : ChId) : State :=
  let p := s.pw c
  if !s.live c || p.change.isSome || p.target == s.point c then s
  else (s.modPw c (fun p => { p with change := some p.target, applied := false })).setRails

/-- PWR_CTLn.REQ is written (R472, R473): a park request is refused unless the channel is idle, its servo engine disabled and
its drive link not UP. -/
def State.pwrReq (s : State) (c : ChId) (v : Word) : State :=
  let s := s.setReg (PWR_CTL c.val) (v &&& 7)
  let x := s.chan c
  let n := getField v 1 0
  if n == 3 && (!x.idle || x.bit SERVO_CTRL 0 || x.drv.state == .up) then (s.orReg (PWR_STAT c.val) 8).cause 34
  else (s.modPw c (fun p => { p with req := n })).startChange c

/-- PWR_CTLn is written. -/
def execPwrReqWrite (ch : ChId) (v : Word) (s : State) : Out := .next (s.atPort (fun s => s.pwrReq ch v))

/-- Whether this fc's edge is one with k mod 6 = 0 that is also an issue edge of a channel (R24, R38); a channel that leaves park
makes it its first issue edge. -/
def State.changeEdge (s : State) (c : ChId) : Bool := s.fc % 3 == 0 && (s.point c == 3 || !(s.chan c).odd)

/-- The edge pattern changes, on an edge of R24, once the voltage it needs is confirmed. Park waits until the channel is idle, and is refused once the servo engine is
enabled or the drive link UP (R312, R473), and cuts a CAN frame in progress (R398); a command that runs meanwhile reports THROTTLED (R354). -/
def execPointChangeApply (ch : ChId) (s : State) : Out :=
  .next (
    let x := s.chan ch
    match (s.pw ch).change with
    | none => s
    | some n =>
      if (s.pw ch).applied || !s.changeEdge ch || !s.voltOk ch n then s
      else if n == 3 && (x.bit SERVO_CTRL 0 || x.drv.state == .up) then
        (((s.modPw ch (fun p => { p with change := none, req := s.point ch })).orReg (PWR_STAT ch.val) 8).cause 34).startChange ch
      else if n == 3 && !x.idle then s
      else
        let was := s.point ch
        let s := s.setReg (PWR_STAT ch.val) (setField (s.reg (PWR_STAT ch.val)) 1 0 n)
        let mark (r : RunCmd) : RunCmd := { r with flags := r.flags ||| 4 }
        let s := if n == 3 then s.modChan ch (fun x => { x with can := { x.can with frame := none } }) else s
        let s := s.modChan ch (fun x => { x.modCmd (fun d => { d with run := d.run.map mark, side := d.side.map mark }) with
          odd := if was == 3 then false else x.odd })
        s.modPw ch (fun p => { p with applied := true }))

/-- Voltage and pattern of a change stand: vector 34, and the next change begins (R472). -/
def execPointChangeComplete (ch : ChId) (s : State) : Out :=
  .next (
    match (s.pw ch).change with
    | none => s
    | some n =>
      if !(s.pw ch).applied then s
      else
        let s := (s.modPw ch (fun p => { p with change := none, applied := false })).setRails
        ((s.cause 34).logEvent 0x0001 (some ch) (BitVec.ofNat 32 n)).startChange ch)

/-- Throttling acts on a channel for a cause, 0 temperature, 1 current, 2 device power: the cause in PWR_STATn, the count,
vector 34, the log, and the change. -/
def State.throttle (s : State) (c : ChId) (k : Nat) (lift : Bool) (f : Pwr → Pwr) : State :=
  let s := s.modPw c f
  let s := s.orReg (PWR_STAT c.val) (BitVec.ofNat 32 (2 ^ (4 + k)))
  let s := (s.inc (PWR_THCNT c.val) 1).cause 34
  let s := if lift then s.logEvent 0x0003 (some c) (BitVec.ofNat 32 (s.pw c).target)
           else s.logEvent 0x0002 (some c) (BitVec.ofNat 32 (2 ^ k))
  s.startChange c

/-- A channel in service above P2 can drop a point. -/
def State.canDrop (s : State) (c : ChId) : Bool := s.live c && decide ((s.pw c).target < 2)

/-- TH_HI, at most 105 °C, and TH_LO, in 1/16 °C. -/
def State.thHi (s : State) : Int := min ((s.reg PWR_TH).extractLsb' 0 16).toInt 0x0690
/-- TH_LO. -/
def State.thLo (s : State) : Int := ((s.reg PWR_TH).extractLsb' 16 16).toInt

/-- Every 10 µs a channel's temperature and core voltage are read, and three hot samples drop it one point (R474, R475). -/
def execTelemetrySample (ch : ChId) (temp mv : BitVec 16) (s : State) : Out :=
  .next (
    let s := (s.setReg (PWR_TEMP ch.val) (temp.zeroExtend 32)).setReg (PWR_VOLT ch.val) (mv.zeroExtend 32)
    let hot := if s.thHi ≤ temp.toInt then (s.pw ch).hot + 1 else 0
    let since := if temp.toInt < s.thLo then some ((s.pw ch).coolAt.getD s.fc) else none
    let drop := decide (3 ≤ hot)
    let s := s.modPw ch (fun p => { p with hot := if drop then 0 else hot, coolAt := since })
    if drop && s.canDrop ch then s.throttle ch 0 false (fun p => { p with capT := p.target + 1 }) else s)

/-- A channel's part of a current reading: its current, its energy, and the drop above ILIM. -/
def State.readCurrent (s : State) (c : ChId) (ma : Word) (dev : Word) : State :=
  let s := s.setReg (PWR_CURR c.val) ma
  let e := (s.pw c).nJ + ma.toNat * (s.reg (PWR_VOLT c.val)).toNat
  let s := s.setReg64 (PWR_ENERGY c.val) (s.reg64 (PWR_ENERGY c.val) + BitVec.ofNat 64 (e / 1000000))
  let ilim := (s.reg (PWR_ILIM c.val)).toNat
  let plim := (s.reg PWR_PLIM).toNat
  let amp := if ma.toNat * 10 < ilim * 9 then some ((s.pw c).ampAt.getD s.fc) else none
  let low := if dev.toNat + 10000 < plim then some ((s.pw c).lowAt.getD s.fc) else none
  let s := s.modPw c (fun p => { p with nJ := e % 1000000, ampAt := amp, lowAt := low })
  if !s.canDrop c then s
  else if ilim < ma.toNat then s.throttle c 1 false (fun p => { p with capC := p.target + 1 })
  else if plim < dev.toNat then s.throttle c 2 false (fun p => { p with capP := p.target + 1 })
  else s

/-- The power over every rail, in mW: the channels' cores, each its current at its voltage, and `rest`, that of the other rails
(R474). -/
def State.devPower (s : State) (ma : List Word) (rest : Word) : Word :=
  BitVec.ofNat 32 (rest.toNat +
    ((List.finRange 16).map (fun c : ChId => (ma.getD c.val 0).toNat * (s.reg (PWR_VOLT c.val)).toNat)).sum / 1000)

/-- Every 1 ms the regulators' currents are read (mA per channel), and the power of the other rails (mW); throttling acts at most
once per channel, on its current before the device power (R474, R475). -/
def execRegulatorReading (ma : List Word) (dev : Word) (s : State) : Out :=
  .next (
    let w := s.devPower ma dev
    (List.finRange 16).foldl (fun (t : State) c => t.readCurrent c (ma.getD c.val 0) w) (s.setReg PWR_DEVPWR w))

/-- 10 ms in fc. -/
def liftFc : Nat := 9000000

/-- A cap one point up, none once it is not below the request. -/
def Pwr.raised (p : Pwr) (cap : Nat) : Nat := if cap - 1 ≤ p.req then 0 else cap - 1

/-- After 10 ms below its limit a channel rises one point (R475). -/
def execThrottleLift (ch : ChId) (s : State) : Out :=
  .next (
    let p := s.pw ch
    let due (cap : Nat) (t : Option Nat) : Bool :=
      decide (p.req < cap) && (match t with | some u => decide (u + liftFc ≤ s.fc) | none => false)
    if due p.capT p.coolAt then s.throttle ch 0 true (fun p => { p with capT := p.raised p.capT, coolAt := some s.fc })
    else if due p.capC p.ampAt then s.throttle ch 1 true (fun p => { p with capC := p.raised p.capC, ampAt := some s.fc })
    else if due p.capP p.lowAt then s.throttle ch 2 true (fun p => { p with capP := p.raised p.capP, lowAt := some s.fc })
    else s)

end Sys2Proof.Machine
end

