-- ==== Sys2Proof/Machine/Boot.lean ====
section
/-!
DEFINITION. Resets, the start, and Calm mode (R454, R460 to R463, R470, R484 to R486).
(DEDUCED, log entry 47.)
-/

namespace Sys2Proof.Machine

open Sys2Proof

/-! ## Resets (R435, R454) -/

/-- The pending numbers of a channel that a reset leaves in VDD_AON: its acceptance table, or the list of an earlier reset
that it has not yet committed. -/
def State.pendAfter (s : State) (c : ChId) : Option (List Dword) :=
  if s.bit SAFE_PENDV c.val then some ((List.range 8).map (fun j => s.reg64 (SAFE_PEND c.val + 8 * j)))
  else if s.live c || !(s.chan c).cmd.table.isEmpty then some ((s.chan c).cmd.table.map (·.seq))
  else none

/-- A channel's list is written into its registers. -/
def State.setPend (s : State) (c : ChId) : Option (List Dword) → State
  | none => s
  | some l =>
    let s := (List.range 8).foldl (fun (t : State) j => t.setReg64 (SAFE_PEND c.val + 8 * j) (l.getD j 0)) s
    s.orReg SAFE_PENDV (BitVec.ofNat 32 (2 ^ c.val))

/-- A flash or calibration command that a reset cuts. -/
def State.cutFlash (s : State) : State :=
  let s := match s.sup.flashRun with | some (op, a) => s.flashCut op a | none => s
  if s.sup.calRun == some 3 then s.flashLost 0x1000 4096 else s

/-- What lies outside the part, or in its flash and fuses, and the model's own fields. -/
def State.bare (s : State) : State :=
  { State.reset with
    hostMem := s.hostMem, fc := s.fc, free := s.free, pending := s.pending
    sup := { flash := s.sup.flash, floor := s.sup.floor, serial := s.sup.serial } }

/-- A reset (R454): everything returns to its reset value but what VDD_AON holds, the time base, the flash and the OTP, and
debug access (R468). -/
def State.resetDevice (s : State) : State :=
  let s := s.cutFlash
  let t := { s.bare with
    time := s.time
    sup := { s.bare.sup with calm := s.sup.calm, calmReq := s.sup.calmReq, comOff := s.sup.comOff } }
  let t := (t.setReg GLB_BOOTFAIL (s.reg GLB_BOOTFAIL)).setReg GLB_CALM_REASON (s.reg GLB_CALM_REASON)
  let t := t.setReg GLB_STATE (s.reg GLB_STATE &&& 8)
  if s.sup.aonLost then t else (List.finRange 16).foldl (fun (t : State) c => t.setPend c (s.pendAfter c)) t

/-- A device reset (R454): the device safe state first; the reset itself comes with the start that follows, when the first
INVALID frames and the safe messages are out. -/
def State.deviceReset (s : State) : State :=
  let s := s.deviceSafe 0
  s.setReg GLB_STATE (setField (s.reg GLB_STATE) 1 0 3)

/-- GLB_RESET.DEVICE (R453). -/
def execGlbResetDevice (s : State) : Out := .next (s.atPort (fun s => s.deviceReset))

/-- A Function Level Reset (R454). -/
def execFunctionLevelReset (s : State) : Out := .next (s.atConfig (fun s => s.deviceReset))

/-- GLB_RESET.CALM_EXIT (R462): both counts are cleared, and the device is reset. -/
def State.calmExit (s : State) : State :=
  let s := s.setReg GLB_BOOTFAIL 0
  { s with sup := { s.sup with calm := false, calmReq := false } }.deviceReset

/-- GLB_RESET is written with CALM_EXIT. -/
def execGlbResetCalmExit (s : State) : Out := .next (s.atPort (fun s => s.calmExit))

/-- GLB_RESET.CALM_REQ (R453): the next start enters Calm mode. -/
def State.askCalm (s : State) : State := { s with sup := { s.sup with calmReq := true } }

/-- GLB_RESET is written with CALM_REQ. -/
def execGlbResetCalmReq (s : State) : Out := .next (s.atPort (fun s => s.askCalm))

/-- GLB_RESET is written (R453): without its KEY it is ignored. -/
def State.glbReset (s : State) (v : Word) : State :=
  if getField v 31 16 != 0xC0DE then s
  else
    let s := if v.getLsbD 2 then s.askCalm else s
    if v.getLsbD 1 then s.calmExit else if v.getLsbD 0 then s.deviceReset else s

/-- PERST_N is asserted (R454, R485): the pins go to their reset states at once, with the reset. -/
def execPerstNAssert (s : State) : Out := .next s.resetDevice

/-- VDD_AON rises (R454): nothing survives in the part but its flash, with the failure record, and its OTP. -/
def execPowerOn (s : State) : Out :=
  .next (
    let s := s.cutFlash
    let t := { s.bare with fc := 0 }
    (t.setReg GLB_BOOTFAIL (s.reg GLB_BOOTFAIL &&& 0xF0)).setReg GLB_CALM_REASON (s.reg GLB_CALM_REASON))

/-- What VDD_AON holds is lost: the failure count, the acceptance tables, and what they left pending (R486). -/
def State.loseAon (s : State) : State :=
  { (s.clrReg GLB_BOOTFAIL 0xF).setReg SAFE_PENDV 0 with
    sup := { s.sup with aonLost := true }, chans := s.chans.map (fun x => x.modCmd (fun d => { d with table := [] })) }

/-- A supply is lost (R381, R486): VDD_AON below 0.72 V loses the tables and the count; without VDD_COM the part is reset and
the time base stops. -/
def execSupplyLoss (aon com : Bool) (s : State) : Out :=
  .next (
    let s := if aon then s.loseAon else s
    if com then { s with sup := { s.sup with comOff := true } }.resetDevice else s)

/-! ## The start (R460 to R463) -/

/-- The offset of a firmware slot (R457). -/
def slotAt (b : Bool) : Nat := if b then 0x800000 else 0x100000

/-- The VERSION of a slot's image header, if that is valid: its MAGIC, and a LEN that is a multiple of 64 and fits the slot
(R458). -/
def State.imageVersion (s : State) (b : Bool) : Option Word :=
  let h := s.flashRd (slotAt b) 12
  let n := field h 8 4
  if field h 0 4 == 0x4B465731 && n % 64 == 0 && decide (n ≤ 7 * 1048576 - 512) then some (BitVec.ofNat 32 (field h 4 4)) else none

/-- The slots with a valid header in the order in which the ROM reads them: the higher version first (R460); of two equal ones
slot A. (DEDUCED, log entry 47.) -/
def State.bootOrder (s : State) : List (Bool × Word) :=
  match s.imageVersion false, s.imageVersion true with
  | some a, some b => if a < b then [(true, b), (false, a)] else [(false, a), (true, b)]
  | some a, none => [(false, a)]
  | none, some b => [(true, b)]
  | none, none => []

/-- The image that starts: the first that verifies and whose security version is at least the OTP floor; the ROM reads the other
slot when one is not accepted (R458, R460). -/
def State.bootPick (s : State) (ver : BitVec 2) : Option (Bool × Word) :=
  s.bootOrder.find? (fun e => ver.getLsbD (b2n e.1) && decide (s.sup.floor.toNat ≤ getField e.2 31 16))

/-- The reason for which no image starts: every verified one is below the floor, or none verifies (R463). -/
def State.noImage (s : State) (ver : BitVec 2) : Nat := if s.bootOrder.any (fun e => ver.getLsbD (b2n e.1)) then 2 else 1

/-- The board record's CRC (R470): over its header and entries but for the CRC itself. -/
def State.boardOk (s : State) : Bool :=
  let h := s.flashRd 0x3000 16
  let n := field h 8 4
  if 4096 < n * 8 + 16 then false
  else field h 12 4 == (crc32 (h.take 12 ++ s.flashRd 0x3010 (n * 8))).toNat

/-- A reason enters GLB_CALM_REASON (R463). -/
def pushReason (w : Word) (r : Byte) : Word := (0 : Byte) ++ w.extractLsb' 0 16 ++ r

/-- The addend of a frequency trim in ppb (R382): round(2³² · 10 ÷ 9 · (1 + p · 10⁻⁹)). -/
def addendOf (p : Int) : Nat := ((42949672960 * (1000000000 + p) * 2 + 9000000000) / 18000000000).toNat

/-- The grade of a live mask (R1, R2): channels 0, 4, 8, 12 and 16, 14 or 12 in all; none for a mask no part has. -/
def gradeOf (fuse : BitVec 16) : Option Nat :=
  let n := ((List.range 16).filter fuse.getLsbD).length
  if !(fuse.getLsbD 0 && fuse.getLsbD 4 && fuse.getLsbD 8 && fuse.getLsbD 12) then none
  else if n == 16 then some 0x1600 else if n == 14 then some 0x1400 else if n == 12 then some 0x1200 else none

/-- Whether a checker of unit `u`, a channel or 16 for the common block, fails the start-up test (R441). -/
def checkerFails (b : Boot) (u : Nat) : Bool := b.checkers.any (fun e => e.1 == u)

/-- The channels that start: live at test and failing no step. -/
def bootPasses (b : Boot) (c : ChId) : Bool :=
  b.fuse.getLsbD c.val && !b.lost.any (fun e => e.1 == c) && !checkerFails b c.val

/-- The mask of channels for which `p` holds. -/
def chMask (p : ChId → Bool) : Word := fields ((List.finRange 16).map (fun c => (b2n (p c), c.val)))

/-- The channels live at test that fail a step of the start up to step `k`. -/
def stFailed (b : Boot) (k : Nat) : Word :=
  chMask (fun c => b.fuse.getLsbD c.val &&
    (b.lost.any (fun e => e.1 == c && decide (e.2.toNat ≤ k)) || (decide (7 ≤ k) && checkerFails b c.val)))

/-- The reason for which a start fails, 0 for none, by the first step that fails (R460, R463). -/
def State.startReason (s : State) (b : Boot) : Nat :=
  if b.fail == 7 || b.fail == 15 then b.fail.toNat
  else if (s.bootPick b.ver).isNone then s.noImage b.ver
  else if !s.boardOk then 0x0A
  else if b.fail == 6 then 6
  else if !s.calOk (s.flashRd 0x1000 1024) then 3
  else if checkerFails b 16 then 4
  else if b.fail != 0 then b.fail.toNat
  else if !(List.finRange 16).any (bootPasses b) then 5
  else 0

/-- The counters of a channel that the start-up checker test advances (R441). -/
def testCounts : List Nat := [SPAD_CE_COUNT, ACC_CE_COUNT, DRAM_CE_COUNT, DRV_CRCERR, LINK_CRCERR, CAS_CRCERR]

/-- A channel starts (R69, R94, R174, R464): what the supervisor sets in it; its DRAM is trained, and the refresh schedule
begins (R500), and its scratchpad and accumulators are written with zeros. What the checker test leaves in the counters of what it
injected is free. (DESIGN CHOICE, log entry 47.) -/
def Channel.started (b : Boot) (cal : List Byte) (c : ChId) (fc k : Nat) (x : Channel) : Channel :=
  let mib := b.dram.getD c.val 0
  let x := x.setReg64 DRAM_TOP (BitVec.ofNat 64 (mib * 1048576 * 15 / 16))
  let x := x.setReg DRAM_CFG (fields [(1 + b2n (b.ranks2.getLsbD c.val), 0), (Nat.log2 mib - 10, 4)])
  let x := { x.setReg DRAM_TRAIN 1 with dram := x.dram.schedule fc }
  let x := { x.setReg NUM_LIB (b.numLib.zeroExtend 32) with
    spad := { x.spad with mem := [], err := [], merge := [], drizzle := [] }, acc := Vector.replicate 2 {} }
  let x := testCounts.foldl (fun (y : Channel) o => y.setReg o (Config.freeWord (k + o))) x
  x.setReg DRV_TRIM (BitVec.ofNat 32 (field cal (232 + 4 * c.val) 4 % 0x800000))

/-- The supervisor sets a port's latencies from the record applied, for the speed and FEC configured (R394, R464). -/
def State.ethLat (s : State) (p : Nat) : State :=
  let m := if !s.bit (ETH_CTRL p) 1 then 0 else if s.bit (ETH_CTRL p) 2 then 2 else 1
  let o := 104 + 24 * p + 8 * m
  (s.setReg (ETH_TXLAT p) (BitVec.ofNat 32 (field s.sup.calUsed o 4))).setReg (ETH_RXLAT p)
    (BitVec.ofNat 32 (field s.sup.calUsed (o + 4) 4))

/-- The common block's part of a successful start: the frequency trim, the record applied, and the channels. -/
def State.startPass (s : State) (b : Boot) (old : Word) : State :=
  let cal := s.flashRd 0x1000 1024
  let p := (BitVec.ofNat 32 (field cal 100 4)).toInt
  let a := if -1000000 ≤ p && p ≤ 1000000 then addendOf p else 4772185884
  let s := (s.setReg64 TIME_ADDEND (BitVec.ofNat 64 a)).setReg GLB_BOOTFAIL 0
  let s := { s with tc := { s.tc with calAdd := a }, sup := { s.sup with
    calUsed := cal, board := s.flashRd 0x3000 (16 + 8 * field (s.flashRd 0x3000 16) 8 4), offset := max (-50) (min 50 b.offset.toInt) } }
  let s := (s.ethLat 0).ethLat 1
  let s := (List.finRange 16).foldl (fun (t : State) c =>
    if bootPasses b c then t.modChan c (Channel.started b cal c s.fc (s.free + c.val)) else t) s
  let s := s.drawFree 0x200000
  let s := (s.setReg GLB_CHLIVE (chMask (bootPasses b))).setRails
  let s := s.setReg SAFE_STCHK (stFailed b 255)
  let s := s.setReg GLB_CALM_REASON old
  s.setReg GLB_STATE ((s.reg GLB_STATE &&& 8) ||| fields [(1, 0), (b2n (field cal 24 4 == 0), 2)])

/-- The sources that the start-up checker test makes latch in a channel, and in the common block with the bit of SAFE_STAT
(R441): the accumulator adder's twice, once for each of its checks. -/
def stChecks : List Byte := [0x01, 0x02, 0x03, 0x03, 0x04, 0x05, 0x06, 0x07, 0x08, 0x0A, 0x0C, 0x10]
def stCommon : List (Byte × Nat) := [(0x20, 5), (0x21, 6), (0x22, 7), (0x24, 8), (0x25, 8), (0x26, 8)]

/-- An event of the start-up test is recorded, outside every command; what its record says was done is open. -/
def State.stRecord (s : State) (c : Option ChId) (src : Byte) : State :=
  (s.fltRecord c src (Config.freeNat s.free % 7) 0).drawFree 1

/-- The start-up checker test (R148, R441): the supervisor injects each fault, and the events latch and are recorded; the pins
stay as they are, and nothing is decided. A checker that fails its test latches nothing; a channel that failed an earlier step is
not tested. (DESIGN CHOICE, log entry 47.) -/
def State.checkerTest (s : State) (b : Boot) : State :=
  let fires : Nat → Byte → Bool := fun u k => !b.checkers.any (fun e => e.1 == u && e.2 == k)
  let s := (List.finRange 16).foldl (fun (t : State) c =>
    if b.fuse.getLsbD c.val && !b.lost.any (fun e => e.1 == c && decide (e.2.toNat < 7)) then
      (stChecks.filter (fires c.val)).foldl (fun t k => t.stRecord (some c) k) t
    else t) s
  (stCommon.filter (fun e => fires 16 e.1)).foldl (fun t e => (t.stRecord none e.1).orReg SAFE_STAT (BitVec.ofNat 32 (2 ^ e.2))) s

/-- A start from its first step (R460): the identity registers, then Calm mode when the failure count is at least 3 or
CALM_REQ asks for it (R462), else the count and the preset reason are written and the steps run. -/
def State.boot (s : State) (b : Boot) (grade : Nat) : State :=
  let n := max (getField (s.reg GLB_BOOTFAIL) 3 0) (getField (s.reg GLB_BOOTFAIL) 7 4)
  let old := s.reg GLB_CALM_REASON
  let steps := (List.finRange 16).map (fun c => match b.lost.find? (fun e => e.1 == c) with
    | some e => e.2
    | none => if checkerFails b c.val then 7 else 0)
  let s := if s.sup.comOff then { s with time := {} } else s
  let s := { s with sup := { s.sup with begun := true, comOff := false, serial := b.serial, startUs := b.us, steps := steps },
                    bar4W := 2 ^ (24 + b.bar4.val) }
  let s := s.setReg64 GLB_ID (b.numLib ++ b.group ++ (0xA1 : Byte) ++ (0xA1 : BitVec 16) ++ BitVec.ofNat 16 grade)
  let pick := (s.bootPick b.ver).getD (false, 0)
  let s := (s.setReg GLB_CHFUSE (b.fuse.zeroExtend 32)).setReg GLB_FWVER pick.2
  let s := s.setReg GLB_STRAPS (fields [(b.straps.toNat, 0), (b2n pick.1, 4)])
  let calm : State → State := fun s => s.setReg GLB_STATE (setField (s.reg GLB_STATE) 1 0 2)
  if 3 ≤ n || s.sup.calm then calm s
  else if s.sup.calmReq then
    calm ({ s with sup := { s.sup with calm := true, calmReq := false } }.setReg GLB_CALM_REASON (pushReason old 0x09))
  else
    let s := s.setReg GLB_BOOTFAIL (fields [(n + 1, 0), (n + 1, 4)])
    let s := s.setReg GLB_CALM_REASON (pushReason old 0x0F)
    let r := s.startReason b
    let s := if r == 0 || r == 4 || r == 5 then s.checkerTest b else s
    let s := if r == 4 then s.setReg SAFE_STCHK (0x10000 ||| stFailed b 7) else if r == 5 then s.setReg SAFE_STCHK (stFailed b 255) else s
    if r == 0 then s.startPass b old
    else s.setReg GLB_CALM_REASON (setField (s.reg GLB_CALM_REASON) 7 0 r)

/-- PERST_N is deasserted, or a device reset ends, and the part starts. The command does nothing on a part that has begun its
start since its reset, or for a live mask that no part has. A device reset samples no straps: those of the last PERST_N hold
(R480). -/
def execDeviceStart (b : Boot) (s : State) : Out :=
  .next (
    match gradeOf b.fuse with
    | none => s
    | some g =>
      if getField (s.reg GLB_STATE) 1 0 == 3 then s.resetDevice.boot { b with straps := (s.reg GLB_STRAPS).extractLsb' 0 4 } g
      else if s.sup.begun then s
      else s.boot b g)

/-- A start that has not reached step 10 at 2 s fails with reason 0x08. -/
def execBootWatchdogTimeout (s : State) : Out :=
  .next (
    if s.sup.begun && getField (s.reg GLB_STATE) 1 0 == 0 && getField (s.reg GLB_CALM_REASON) 7 0 == 0x0F then
      s.setReg GLB_CALM_REASON (setField (s.reg GLB_CALM_REASON) 7 0 0x08)
    else s)

/-! ## Debug access, power states (R445, R468) -/

/-- A signed unlock token opens debug access, until the next power-on. -/
def execDebugUnlock (s : State) : Out := .next (s.orReg GLB_STATE 8)

/-- The host moves the function between D0 and D3hot. -/
def execPmStateWrite (d3 : Bool) (s : State) : Out :=
  .next (s.atConfig (fun s => { s with sup := { s.sup with d3hot := d3 } }))

end Sys2Proof.Machine
end

