-- ==== Sys2Proof/Machine/Branch.lean ====
section
/-!
DEFINITION. The BRANCH instructions (R41, R47, R65).
-/

namespace Sys2Proof.Machine

open Sys2Proof

/-- Issues a format B instruction; the field [37:32] must be 0 (R46). -/
def issueB (s : State) (c : ChId) (opc : Byte) (f : FmtB) (legal : Bool) (body : State → Issue) : State :=
  s.issue c (wordB opc f) (legal && f.rsv == 0) (never f.pg f.pn) (!(s.chan c).seq.guard f.pg f.pn) body

/-- The target pc + OFF, as an integer. -/
def targetOf (pc : BitVec 15) (f : FmtB) : Int := (pc.toNat : Int) + f.off.toInt

/-- The exception causes of a taken branch to `t`: PM_RANGE outside the images, STACK outside the innermost active
repeat body (R41, R65), and STACK for the call stack. -/
def takenCauses (x : Channel) (t : Int) (stackBad : Bool) : List (Bool × Exc) :=
  let outside := match x.seq.reps with
    | [] => false
    | r :: _ => decide (t < (r.first.toNat : Int)) || decide (t > (r.last.toNat : Int))
  [(decide (t < 0) || !x.pm.loaded t.toNat, .pmRange), (outside || stackBad, .stack)]

/-- Takes a branch to `t`, with a further change of the sequencer. -/
def take (s : State) (c : ChId) (t : Int) (stackBad : Bool) (f : Seq → Seq) : Issue :=
  guarded (takenCauses (s.chan c) t stackBad)
    (.went (s.modChan c (fun x => x.modSeq (fun q => { f q with pc := BitVec.ofInt 15 t, stall := .none }))))

/-- BRANCH.JMP (R41). -/
def execBranchJmp (ch : ChId) (f : FmtB) (s : State) : Out :=
  .next (issueB s ch 0x20 f (f.sa == 0 && f.sb == 0 && f.cond == 0) (fun s =>
    take s ch (targetOf (s.chan ch).seq.pc f) false id))

/-- BRANCH.BC (R41). -/
def execBranchBc (ch : ChId) (f : FmtB) (s : State) : Out :=
  .next (issueB s ch 0x21 f (f.cond.toNat < 6) (fun s =>
    let q := (s.chan ch).seq
    if condHolds f.cond.toNat (q.rs f.sa) (q.rs f.sb) then take s ch (targetOf q.pc f) false id else .done s))

/-- BRANCH.LOOP (R47): s[SA] is decremented, and the branch is taken while it reads nonzero. (DEDUCED, log entry 13.) -/
def execBranchLoop (ch : ChId) (f : FmtB) (s : State) : Out :=
  .next (issueB s ch 0x22 f (f.sb == 0 && f.cond == 0) (fun s =>
    let q := (s.chan ch).seq
    let dec : Seq → Seq := fun q => q.ws f.sa (q.rs f.sa - 1)
    if (dec q).rs f.sa ≠ 0 then take s ch (targetOf q.pc f) false dec
    else .done (s.modChan ch (fun x => x.modSeq dec))))

/-- BRANCH.REP (R41): runs the next OFF[5:0] + 1 instructions s[SA] times; 0 skips them; at most 4 nest. -/
def execBranchRep (ch : ChId) (f : FmtB) (s : State) : Out :=
  .next (issueB s ch 0x23 f (f.sb == 0 && f.cond == 0 && f.off.toNat < 64) (fun s =>
    let q := (s.chan ch).seq
    let n := (q.rs f.sa).toNat
    let body := f.off.toNat % 64 + 1
    if n == 0 then
      .went (s.modChan ch (fun x => x.modSeq (fun q => q.step (q.pc + BitVec.ofNat 15 body))))
    else
      guarded [(decide (q.reps.length ≥ 4), .stack)]
        (.went (s.modChan ch (fun x => x.modSeq (fun q =>
          { q with pc := q.pc + 1, stall := .none, reps := ⟨n, q.pc + 1, q.pc + BitVec.ofNat 15 body⟩ :: q.reps }))))))

/-- BRANCH.CALL (R41): pushes pc + 1; the call stack holds 16 entries (R30). -/
def execBranchCall (ch : ChId) (f : FmtB) (s : State) : Out :=
  .next (issueB s ch 0x24 f (f.sa == 0 && f.sb == 0 && f.cond == 0) (fun s =>
    let q := (s.chan ch).seq
    take s ch (targetOf q.pc f) (decide (q.calls.length ≥ 16)) (fun q => { q with calls := (q.pc + 1) :: q.calls })))

/-- BRANCH.RET (R41). -/
def execBranchRet (ch : ChId) (f : FmtB) (s : State) : Out :=
  .next (issueB s ch 0x25 f (f.sa == 0 && f.sb == 0 && f.cond == 0 && f.off == 0) (fun s =>
    match (s.chan ch).seq.calls with
    | [] => .exc .stack
    | t :: _ => take s ch (t.toNat : Int) false (fun q => { q with calls := q.calls.drop 1 })))

/-- BRANCH.END (R58): the program ends; the command completes once every token counter is quiet. END takes this instant until a later
token comes in: R54 gives it the time of the last token, and names none for a command whose last token came in before, or that has
none. (DESIGN CHOICE, log entry 55.) -/
def execBranchEnd (ch : ChId) (f : FmtB) (s : State) : Out :=
  .next (issueB s ch 0x26 f (f.sa == 0 && f.sb == 0 && f.cond == 0 && f.off == 0) (fun s =>
    .went (s.modChan ch (fun x =>
      { x with
        seq := { x.seq with stall := .none }
        cmd := { x.cmd with run := x.cmd.run.map (fun r => { r with phase := .ended, endT := s.now }) } }))))

end Sys2Proof.Machine
end

