-- ==== Sys2Proof/Machine/Drive.lean ====
section
/-!
DEFINITION. The drive link (R315 to R324): frames and STS blocks received, block lock and training.
(DEDUCED, log entry 37.)
-/

namespace Sys2Proof.Machine

open Sys2Proof

/-- Changes the drive link. -/
def Channel.modDrv (x : Channel) (f : Drv → Drv) : Channel := { x with drv := f x.drv }

/-- Training from step 1 (R322): the device sends TRN SEEK, or LOCKED while block lock stands. -/
def Channel.drvTrain (x : Channel) (now : Nat) : Channel :=
  x.modDrv (fun d => { d with state := if d.lock then .locked else .seek, since := now, tries := 0 })

/-- A write of DRV_CFG.EN (R322): the transmitter on and training, or electrical idle. A channel that is not live has no
window to write, and its pins are inert (R4, R429). -/
def State.drvEnWrite (s : State) (c : ChId) (en : Bool) : State :=
  if !s.live c then s else s.modChan c (fun x =>
    let was := x.bit DRV_CFG 0
    let x := x.setReg DRV_CFG (setBit (x.reg DRV_CFG) 0 en)
    if en && !was then x.drvTrain s.nowFine
    else if !en && was then x.modDrv (fun d => { d with state := .down, lock := false })
    else x)

/-- DRV_CFG.EN written (R322). -/
def execDrvCfgEnWrite (ch : ChId) (en : Bool) (s : State) : Out := .next (s.drvEnWrite ch en)

/-- Near-end loopback: the pins are idle, and the receiver sees what the device sends itself (R325). -/
def Channel.drvLoops (x : Channel) : Bool := x.bit DRV_CFG 4

/-- The receiver gains block lock (R316); a link that seeks sends TRN LOCKED. -/
def execDrvBlockLock (ch : ChId) (s : State) : Out :=
  .next (if s.parked ch then s else s.modChan ch (fun x =>
    if !x.bit DRV_CFG 0 then x
    else x.modDrv (fun d => { d with lock := true, state := if d.state == .seek then .locked else d.state })))

/-- Block lock is lost after 16 invalid sync headers within 64 (R316, R322). `bad` is how many of them no row before this one
has told: each is a block error (R324). (DEDUCED, log entry 37.) -/
def execDrvLockLoss (ch : ChId) (bad : BitVec 5) (s : State) : Out :=
  .next (if s.parked ch then s else
    let x := s.chan ch
    if !x.drv.lock then s
    else
      let up := x.drv.state == .up
      let x := (x.inc DRV_BLKERR bad.toNat).modDrv (fun d => { d with lock := false })
      let x := if up then (x.orReg DRV_STAT 0x10).inc DRV_RETRAIN 1 else x
      let x := if x.drv.state == .down then x
               else if up && !x.bit DRV_CFG 1 then x.modDrv (fun d => { d with state := .down })
               else if up then x.drvTrain s.nowFine
               else x.modDrv (fun d => { d with state := .seek })
      let s := (s.setChan ch x).servoWaited ch
      if up then s.servoIrq ch else s)

/-- Sixteen consecutive TRN blocks from the drive, by their ROLE, with STATE at least `state` (R316, R322): a locked link sends
MEAS with a fresh token, a ready one comes UP. In loopback no block is the drive's. (DEDUCED, log entry 37.) -/
def execDrvTrnReceive (ch : ChId) (state role : Byte) (s : State) : Out :=
  .next (if s.parked ch then s else s.modChan ch (fun x =>
    if x.drvLoops || role != 0xD1 then x
    else if x.drv.state == .locked && decide (state ≥ 2) then
      x.modDrv (fun d => { d with state := .meas, token := d.token + 1, tries := 0 })
    else if x.drv.state == .ready && decide (state ≥ 3) then x.modDrv (fun d => { d with state := .up, first := true })
    else x))

/-- An ECHO with the token sent gives the round trip (R322): `ps` from MEAS departure to ECHO arrival, less TURN blocks. -/
def execDrvEchoReceive (ch : ChId) (token : Word) (turn : BitVec 16) (ps : Nat) (s : State) : Out :=
  .next (if s.parked ch then s else s.modChan ch (fun x =>
    if x.drvLoops || x.drv.state != .meas || token != x.drv.token then x
    else (x.setReg DRV_RTT (BitVec.ofNat 32 (ps - turn.toNat * 10560))).modDrv (fun d => { d with state := .ready })))

/-- No ECHO within 256 blocks (R322): MEAS is resent, at most 4 times, and then training restarts. -/
def execDrvMeasTimeout (ch : ChId) (s : State) : Out :=
  .next (if s.parked ch then s else s.modChan ch (fun x =>
    if x.drv.state != .meas then x
    else if x.drv.tries < 4 then x.modDrv (fun d => { d with tries := d.tries + 1 })
    else x.drvTrain x.drv.since))

/-- Training not UP 1 ms after step 1 (R322). -/
def execDrvTrainingTimeout (ch : ChId) (s : State) : Out :=
  .next (if s.parked ch then s else s.modChan ch (fun x =>
    if x.drv.state == .down || x.drv.state == .up || decide (s.nowFine < x.drv.since + 1000000 * 2 ^ 32) then x
    else
      let x := x.orReg DRV_STAT 8
      if x.bit DRV_CFG 1 then x.drvTrain s.nowFine else x.modDrv (fun d => { d with state := .down })))

/-- An STS block from the drive (R316): its byte 1 and error count. In loopback the block is the device's own. -/
def execDrvStsReceive (ch : ChId) (sts : Byte) (errs : BitVec 16) (s : State) : Out :=
  .next (if s.parked ch then s else s.modChan ch (fun x =>
    if x.drv.state != .up || (x.drvLoops && (field x.drv.sts 1 1 != sts.toNat || field x.drv.sts 2 2 != errs.toNat)) then x
    else x.setReg DRV_FARSTS ((0 : Byte) ++ errs ++ sts)))

/-- Whether the evaluation that a sample frame's TICK answers to, that of the tick after it, has started (R324): at T_EVAL, or,
while the engine waits, not yet. -/
def Channel.servoLate (x : Channel) (tick : Word) (fc : Nat) : Bool :=
  let past : Word → Bool := fun ev => decide (0 < (ev - tick).toNat) && decide ((ev - tick).toNat < 2 ^ 31)
  let before := decide (x.servo.started > 1) && past (x.reg SERVO_TICK - 1)
  match x.servo.phase with
  | .idle => false
  | .started => if fc < x.servo.fc0 + bTeval x.servo.bank then before else past (x.reg SERVO_TICK)
  | .waiting _ _ => before
  | .evaluated => past (x.reg SERVO_TICK)
  | .handed => past (x.reg SERVO_TICK)

/-- A frame is received whole and checked (R317, R321). `kind` and `len` are those of its SOF, `frame` the bytes with their
CRC, `err` what broke the framing: 0 nothing, 1 a known control block or a wrong block count, 2 a sync-header error inside it, 4
an unknown control block inside it; 3 is no frame: an unknown control block, or an invalid sync header, outside one (R324). A valid frame awaits the next evaluation;
one complete after the evaluation it was meant for has started is late. In loopback the frame is the device's own, a
command frame. (DEDUCED, log entry 37.) -/
def execDrvSampleFrame (ch : ChId) (kind : Byte) (len : BitVec 16) (frame : List Byte) (err : BitVec 3) (s : State) : Out :=
  .next (if s.parked ch then s else
    let x := s.chan ch
    if err == 3 then (if x.bit DRV_CFG 0 then s.setChan ch (x.inc DRV_BLKERR 1) else s)
    else if x.drv.state != .up || (x.drvLoops && kind != 1) then s
    else
      let nax := bNax x.servo.bank
      let x := if err == 2 || err == 4 then x.inc DRV_BLKERR 1 else x
      let body := frame.take (frame.length - 4)
      let y : Channel :=
        if err != 0 || kind != 2 || len.toNat != 20 + 32 * nax || frame.length != len.toNat || field frame 12 1 != nax then
          x.inc DRV_LENERR 1
        else if field frame (frame.length - 4) 4 != (crc32 body).toNat then x.inc DRV_CRCERR 1
        else
          let x := if x.servoLate (BitVec.ofNat 32 (field frame 0 4)) s.fc then x.inc DRV_LATE 1 else x
          (x.inc DRV_RXFR 1).modServo (fun v => { v with arrived := v.arrived ++ [(body, s.now, s.fc)] })
      (s.setChan ch y).servoWaited ch)

end Sys2Proof.Machine
end

