-- ==== Sys2Proof/Machine/Freeze.lean ====
section
/-!
DEFINITION. Freeze and thaw (R345 to R352): the request, the freeze point, the image, and its restoration.
(DESIGN CHOICE, log entry 42.)
-/

namespace Sys2Proof.Machine

open Sys2Proof

/-! ## Freezing (R345 to R349) -/

/-- A freeze is taken (R346): the sequencer and the engines stand still while the image is written. -/
def State.takeFreeze (s : State) (c : ChId) : State :=
  s.modChan c (fun x =>
    let x := x.setReg FRZ_STAT ((x.reg FRZ_STAT &&& ~~~0x11) ||| (if x.cmd.run.isNone then 0x12 else 0x2))
    x.modCmd (fun d => { d with frzAt := s.now }))

/-- A request is refused (R345). -/
def Channel.refuseFreeze (x : Channel) : Channel :=
  (x.setReg FRZ_STAT ((x.reg FRZ_STAT &&& ~~~0x1) ||| 0x8)).clrReg FRZ_CTRL 1

/-- Whether a THAW reads or restores its image: the frozen context is on its way back (R352). -/
def Channel.thawing (x : Channel) : Bool := match x.cmd.run with | some r => r.cmd.kind == 0x06 | none => false

/-- A write of FRZ_CTRL (R345): MODE and IRQ are set; REQ, unless a request stands, is bounded and refused, taken at once
while no command runs, or left pending. One that meets a THAW waits for FROZEN to clear (R352). -/
def State.frzCtrl (s : State) (c : ChId) (v : Word) : State :=
  let x := s.chan c
  let req := x.bit FRZ_CTRL 0
  let s := s.modChan c (fun x => x.setReg FRZ_CTRL ((v &&& 0x7) ||| (x.reg FRZ_CTRL &&& 0x1)))
  if !v.getLsbD 0 || req then s
  else if x.fenced || (x.frz.isSome && !x.thawing) || x.frzBytes true > (x.reg FRZ_LIMIT).toNat ||
      (!v.getLsbD 1 && !s.frzFits c) then s.modChan c Channel.refuseFreeze
  else if x.cmd.run.isNone && s.frzFits c then s.takeFreeze c
  else s.modChan c (fun x => x.orReg FRZ_STAT 1)

/-- The host requests a freeze (R345). -/
def execFrzReqWrite (ch : ChId) (v : Word) (s : State) : Out := .next (s.frzCtrl ch (v ||| 1))

/-- The freeze point of a pending request (R345): the next issue edge with MODE 0, at once while no command runs. A freeze
is taken only when its image ends before the next protected boundary. One that has met a checker event waits for the command
boundary after the retry (R352). -/
def execFreezeTaken (ch : ChId) (s : State) : Out :=
  .next (
    let x := s.chan ch
    if !x.bit FRZ_STAT 0 || x.fenced then s
    else match x.cmd.run with
      | none => if s.frzFits ch then s.takeFreeze ch else s
      | some r =>
        if r.phase = .running ∧ !x.bit FRZ_CTRL 1 ∧ !x.halted ∧ !r.noFrz then
          (if s.frzFits ch then s.takeFreeze ch else s.modChan ch Channel.refuseFreeze)
        else s)

/-- A SYS.FREEZE meets a pending MODE 1 request (R345): the freeze is taken, or stays pending when its image would reach a
protected boundary. -/
def State.freezePoint (s : State) (c : ChId) : State :=
  let x := s.chan c
  let held := match x.cmd.run with | some r => r.noFrz | none => false
  if x.bit FRZ_STAT 0 && x.bit FRZ_CTRL 1 && !held && s.frzFits c then s.takeFreeze c else s

/-- Sections of an image (R349): type, length and content; content the manual gives no layout for is free. -/
structure Sec where
  typ : Nat
  data : List Byte
deriving DecidableEq, Repr

/-- Bytes of the ring section: per ring a 64-byte record, without a layout of the manual's, then its fill, padded to a
multiple of 128. The reads correct and record as any do (R73). -/
def Channel.ringSecs : Nat → List (Nat × RingD) → Channel → List Byte × Channel × Bool
  | _, [], x => ([], x, false)
  | k, (_, d) :: r, x =>
    let n := d.fill
    let p := x.ringRead d d.tail n
    let q := Channel.ringSecs (k + 192) r p.2.1
    (freeBytes k 64 ++ p.1 ++ freeBytes (k + 64) (upTo 128 n - n) ++ q.1, q.2.1, p.2.2 || q.2.2)

/-- The accumulator entries a freeze saves, in array and entry order. -/
def Channel.frzSaved (x : Channel) : List (Fin 2 × Nat) :=
  x.frzAccs.flatMap (fun q => (x.frzEntries q).map (fun e => (q.1, e)))

/-- Bytes of the accumulator section; its corrections are counted and queued for Drizzle (R76). -/
def Channel.accSecs : List (Fin 2 × Nat) → Channel → List Byte × Channel × Bool
  | [], x => ([], x, false)
  | (k, e) :: r, x =>
    let p := x.accRead k e 128 false
    let q := Channel.accSecs r p.2.1
    (p.1.flatMap (fun w => leBytes 4 w.toNat) ++ q.1, q.2.1, p.2.2 || q.2.2)

/-- The sections of the slots. -/
def Channel.slotSecs : List Nat → Channel → List Sec × Channel × Bool
  | [], x => ([], x, false)
  | n :: r, x =>
    let p := x.section n
    let q := Channel.slotSecs r p.2.1
    (⟨4, p.1⟩ :: q.1, q.2.1, p.2.2 || q.2.2)

/-- The attention unit's table memory (R228): bitmap, bias tables, length table. -/
def Attn.tables (a : Attn) : List Byte :=
  rdBytes a.bitmap 0 65536 ++ (List.range 2048).flatMap (fun k => leBytes 4 (sget 0 a.bias k).toNat) ++ rdBytes a.lens 0 16384

/-- The free bytes of an image before its ring records. -/
def frzFree : Nat := 148480

/-- The sections of the image, in TYPE order (R349), with the channel as the reads leave it and whether one was uncorrectable; `k`
numbers the free bytes. -/
def Channel.frzSecs (x : Channel) (k : Nat) : List Sec × Channel × Bool :=
  let rings := Channel.ringSecs (k + frzFree) x.frzRings x
  let accs := Channel.accSecs x.frzSaved rings.2.1
  let slots := Channel.slotSecs x.liveSlots accs.2.1
  ([⟨1, freeBytes k 9216⟩, ⟨2, rings.1⟩, ⟨3, accs.1⟩] ++ slots.1 ++
   [⟨5, freeBytes (k + 9216) 36864⟩, ⟨6, freeBytes (k + 46080) 36864⟩, ⟨7, freeBytes (k + 82944) 65536⟩, ⟨8, x.attn.tables⟩],
   slots.2.1, rings.2.2 || accs.2.2 || slots.2.2)

/-- The offsets of sections laid end to end from `o`. -/
def secOffsets : Nat → List Sec → List Nat
  | _, [] => []
  | o, q :: r => o :: secOffsets (o + q.data.length) r

/-- The directory entries (R348), `n` in all. -/
def secDir (n : Nat) (secs : List Sec) (offs : List Nat) : List Byte :=
  let used := (List.zipWith (fun (q : Sec) o => leBytes 4 q.typ ++ leBytes 4 o ++ leBytes 4 q.data.length ++ leBytes 4 0) secs offs).flatten
  used ++ List.replicate (16 * n - used.length) 0

/-- The image (R348, R349): header, directory, sections, with its CRC. -/
def State.frzImage (s : State) (c : ChId) (secs : List Sec) : List Byte :=
  let x := s.chan c
  let body := (secs.map (·.data)).flatten
  let empty := x.cmd.run.isNone
  let seq := match x.cmd.run with | some r => r.cmd.seq.toNat | none => 0
  let epoch := match x.cmd.run with | some r => r.epoch | none => x.reg ALM_EPOCH
  let h0 := leBytes 4 0x4B465A31 ++ leBytes 2 1 ++ leBytes 1 c.val ++ leBytes 1 (b2n empty + 2 * b2n (x.bit FRZ_CTRL 1)) ++
    leBytes 8 seq ++ leBytes 4 (s.reg (GLB_ID + 4)).toNat ++ leBytes 2 (getField (x.reg NUM_LIB) 15 0) ++ leBytes 2 secs.length ++
    leBytes 4 (768 + body.length)
  let h1 := leBytes 8 x.cmd.frzAt.toNat ++ leBytes 4 epoch.toNat ++ List.replicate 20 0 ++
    secDir 40 secs (secOffsets 768 secs) ++ List.replicate 64 0
  h0 ++ leBytes 4 (crc32 (h0 ++ leBytes 4 0 ++ h1 ++ body)).toNat ++ h1 ++ body

/-- A message of a frozen command. -/
def CanMsg.freeze (b : Bool) (m : CanMsg) : CanMsg := { m with frz := m.tok.isSome && b }

/-- Marks, or unmarks, the held CAN messages that await a token of the frozen command. -/
def Channel.freezeCan (x : Channel) (b : Bool) : Channel :=
  x.modCan (fun d => { d with slots := d.slots.map (fun e => { e with cur := e.cur.freeze b, next := e.next.map (CanMsg.freeze b) }) })

/-- The frozen context of a channel (R346). -/
def Channel.snapshot (x : Channel) (offs : List Nat) (len : Nat) : Frozen :=
  { run := x.cmd.run, seq := { x.seq with stall := .none }, draws := x.draws
    counts := countRegs.map (fun o => (o, x.reg o)), rings := x.frzRings, accs := x.frzSaved
    slots := x.liveSlots.zip (offs.drop 3), wrote := x.liveSlots.map (fun n => (n, x.slot n)), arrs := x.arrs, joint := x.joint
    front := x.front, dma := x.dma, win := x.win, attn := x.attn, scanQ := x.scan.queue, scanF := x.scan.fence
    binds := x.rings.toList, insOps := x.ptu.insOps, wpins := x.ptu.wpins, skipIns := x.ptu.skipIns, discard := x.ptu.discard, restore := x.restore
    base := (x.reg64 FRZ_BASE).toNat, len := len }

/-- What a frozen command leaves: its engines are empty, its ring sides unbound, its LIVE slots FROZEN with the addresses
of their sections (R258, R262). -/
def Channel.setAside (x : Channel) (f : Frozen) : Channel :=
  let x := f.slots.foldl (fun (y : Channel) q => y.setSlot q.1
    { y.slot q.1 with state := 2, faddr := BitVec.ofNat 64 (f.base + q.2), wrote := false, old := none }) x
  ({ x with
    rings := x.rings.map RingD.released, arrs := x.arrs.map Arr.idle, joint := [], front := {}
    dma := { x.dma with queue := [], running := none, ctx := x.dma.ctx.map DmaCtx.empty }
    win := x.win.idle, attn := { x.attn with queue := [], page := none }
    scan := { x.scan with queue := [], fence := [] }, ptu := { x.ptu with wpins := [] }
    link := { x.link with bar := none }, restore := [] }).freezeCan true

/-- Whether what a freeze lets run on has come to its end (R106, R149, R237, R262, R346): bursts in flight, pending verdicts, the
present key block and SCAN step, PTU operations, and the ring stop's transfers. -/
def Channel.settled (x : Channel) : Bool :=
  x.front.infl == 0 && x.front.ret.isEmpty && x.dram.queue.isEmpty && x.arrs.toList.all (·.wins.isEmpty) &&
  x.ptu.queue.isEmpty && x.ptu.copies.isEmpty && x.presented.isEmpty && x.link.xfers.isEmpty && x.link.colls.isEmpty &&
  x.scanRests && (match x.attn.page with | some p => p.pages.isNone | none => true)

/-- The image is complete (R347): the running transfer has stopped at its boundary (R117), the image lies in DRAM, the context is
frozen, its entry ends, and vector 2n is signalled when FRZ_CTRL.IRQ is 1. An uncorrectable word that the image would hold stops
it. -/
def execFreezeImageComplete (ch : ChId) (s : State) : Out :=
  .next (
    let x := s.chan ch
    if !x.freezing || x.fenced || x.halted || !x.settled || x.dramHeld then s
    else
      let s := (s.dmaStop ch true).modChan ch Channel.dramTurn
      let x := s.chan ch
      let q := x.frzSecs s.free
      if x.halted || q.2.2 then s.setChan ch (if x.halted then x else q.2.1)
      else
        let img := s.frzImage ch q.1
        let s := s.setChan ch q.2.1
        let f := (s.chan ch).snapshot (secOffsets 768 q.1) img.length
        let seq : Dword := match x.cmd.run with | some r => r.cmd.seq | none => 0
        let s := s.modChan ch (fun x =>
          let x := (x.setAside f).dramWrite f.base img
          let x := ((x.setReg FRZ_SIZE (BitVec.ofNat 32 img.length)).setReg64 FRZ_SEQ seq).clrReg FRZ_CTRL 1
          let x := x.setReg FRZ_STAT ((x.reg FRZ_STAT &&& ~~~0x2) ||| 0x4)
          let x := match x.cmd.run with
            | some r => (match r.src with | .ring => x | _ => x.closeEntry)
            | none => x
          { x with frz := some f, cmd := { x.cmd with run := none } })
        let s := s.drawFree (frzFree + 192 * f.rings.length)
        if x.bit FRZ_CTRL 2 then s.signal (2 * ch.val) else s)

/-! ## Thawing (R338, R350, R351) -/

/-- The ac a thaw takes at a point (R338): twice the image at 18.07 GB/s, and 128 ac per loaded array. -/
def thawAc (len arrays mhz : Nat) : Nat := ceilDiv (2 * len * 100 * mhz) (1807 * 1000) + 128 * arrays

/-- The loaded arrays of a frozen context. -/
def Frozen.loaded (f : Frozen) : Nat := (f.arrs.toList.filter (·.loaded)).length

/-- Whether an image is whole and of this part and channel (THAW_IMG). -/
def State.imageOk (s : State) (c : ChId) (h img : List Byte) : Bool :=
  field h 0 4 == 0x4B465A31 && field h 4 2 == 1 && field h 6 1 == c.val && field h 16 4 == (s.reg (GLB_ID + 4)).toNat &&
  field h 20 2 == getField ((s.chan c).reg NUM_LIB) 15 0 && field h 24 4 ≥ 768 && img.length == field h 24 4 &&
  field h 28 4 == (crc32 (img.take 28 ++ leBytes 4 0 ++ img.drop 32)).toNat

/-- The ac that a THAW and what is left to its command need (R338, R350). -/
def State.thawNeed (s : State) (c : ChId) (h : List Byte) : Nat :=
  let x := s.chan c
  let est := match x.frz with | some f => (match f.run with | some q => hdEst (x.header (q.cmd.prog.toNat % 0x8000)) | none => 0) | none => 0
  let arrays := match x.frz with | some f => f.loaded | none => 0
  est + thawAc (field h 24 4) arrays (pointMhz (s.point c))

/-- Whether a THAW cannot finish inside its budget, by its image's header (R350). -/
def State.thawLate (s : State) (c : ChId) (r : RunCmd) (h : List Byte) : Bool :=
  let b := ((s.chan c).slotTerms r).2.2
  b != 0 && decide (s.thawNeed c h > b)

/-- The code a THAW is refused with, 0 for none (R350): TIME on the header, the verification, the conflicts, and the start
check on the frozen command's header. -/
def State.thawCode (s : State) (c : ChId) (r : RunCmd) (h img : List Byte) : Nat :=
  let x := s.chan c
  let need := s.thawNeed c h
  let t := x.slotTerms r
  let none_ := match x.frz with | some _ => r.cmd.prog != x.reg64 FRZ_BASE | none => true
  let rings := match x.frz with | some f => f.rings.any (fun q =>
      let d := x.rings.get (Fin.ofNat 64 q.1); d.prod.isSome || d.cons.isSome) | none => false
  let accs := match x.frz with | some f => f.accs.any (fun q => x.slotOwns q.1 q.2 1) | none => false
  let start := match x.frz with
    | some f => (match f.run with
      | some q => firstCode (x.startTests (q.cmd.prog.toNat % 0x8000) t.1 t.2.1 need t.2.2 true)
      | none => 0)
    | none => 0
  firstCode [(s.thawLate c r h, 0x0002), (!s.imageOk c h img, 0x0020), (none_, 0x0021), (rings, 0x0023),
    (accs, 0x0022), (start != 0, start)]

/-- THAW (R350): the image's header is read, and then the whole image, unless the header shows that the THAW cannot finish inside its
budget; a refusal restores nothing. -/
def execKindThaw (ch : ChId) (s : State) : Out :=
  .next (
    let x := s.chan ch
    match x.cmd.run with
    | some r =>
      if r.phase ≠ .started ∨ r.cmd.kind ≠ 0x06 ∨ x.fenced ∨ x.halted ∨ x.dramHeld ∨ (r.limit ≠ 0 ∧ r.acs ≥ r.limit) then s
      else
        let x := x.dramTurn
        let a := r.cmd.prog.toNat
        let p := x.dramRead a 768
        let len := field p.1 24 4
        let q := p.2.1.dramRead a (if x.dramOk a len && !s.thawLate ch r p.1 then len else 0)
        let s := s.setChan ch q.2.1
        let code := s.thawCode ch r p.1 q.1
        if p.2.2 || q.2.2 then s
        else if code != 0 then
          let s := s.modChan ch (fun x => x.modCmd (fun d => { d with run := none }))
          let s := s.endUnrun ch r 0x03 (BitVec.ofNat 16 code)
          let s := s.modChan ch (fun x => match r.src with | .ring => x | _ => x.closeEntry)
          s.meetFreeze ch
        else
          s.modChan ch (fun x =>
            let x := match r.src, x.frz with
              | .ring, _ => x
              | _, some f => (match f.run with
                | some q => x.charge (bkEnt x.bank r.entry).cls (hdDecl (x.header (q.cmd.prog.toNat % 0x8000))).linkb
                | none => x)
              | _, none => x
            x.modRun (fun r => { r with phase := .loading }))
    | none => s)

/-- Restores rings in index order, descriptors then bytes; `o` is where a ring's record lies in the image. -/
def Channel.restoreRings (img : List Byte) : Nat → List (Nat × RingD) → Channel → Channel
  | _, [], x => x
  | o, (k, d) :: r, x =>
    let r6 : BitVec 6 := BitVec.ofNat 6 k
    let x := (x.setRing r6 d).ringWrite d d.tail ((img.drop (o + 64)).take d.fill)
    Channel.restoreRings img (o + 64 + upTo 128 d.fill) r x

/-- Restores accumulator entries from the bytes of their section. -/
def Channel.restoreAccs : List Byte → List (Fin 2 × Nat) → Channel → Channel
  | _, [], x => x
  | bs, (k, e) :: r, x => Channel.restoreAccs (bs.drop 512) r (x.accWrite k e (wordsOf bs 128))

/-- Restores the slots that are FROZEN at their section's address and whose entries are free of LIVE slots (R262). -/
def Channel.restoreSlots (f : Frozen) (img : List Byte) : List (Nat × Nat) → Channel → Channel
  | [], x => x
  | (n, o) :: r, x =>
    let t := x.slot n
    let sec := (img.drop o).take (sectionLen (img.drop o))
    let x := if t.state == 2 && t.faddr.toNat == f.base + o && !x.slotOwns t.array t.base t.entries then
        let x := x.restore1 n t.array t.base sec
        match f.wrote.find? (fun q => q.1 == n) with
        | some q => x.setSlot n { x.slot n with wrote := q.2.wrote, old := q.2.old }
        | none => x
      else x
    Channel.restoreSlots f img r x

/-- The ring sides a frozen command had bound are its own again. -/
def rebind (d old : RingD) : RingD :=
  let rel := old.released
  { d with prod := if rel.prod.isNone && old.prod.isSome then old.prod else d.prod
           cons := if rel.cons.isNone && old.cons.isSome then old.cons else d.cons
           xp := old.xp, xc := old.xc }

/-- Restores a frozen context (R350): rings, accumulator entries, slots, the arrays, the tables, the engines, the
architectural state. The Front's streams restart in the order of their index: none has waited longer (R101, R109). -/
def Channel.restoreCtx (x : Channel) (f : Frozen) (img : List Byte) : Channel :=
  let x := Channel.restoreRings img 9984 f.rings x
  let acc0 := 9984 + (f.rings.map (fun q => 64 + upTo 128 q.2.fill)).foldl (· + ·) 0
  let x := Channel.restoreAccs (img.drop acc0) f.accs x
  let x := Channel.restoreSlots f img f.slots x
  let x := f.counts.foldl (fun (y : Channel) q => y.setReg q.1 q.2) x
  let rings := Vector.ofFn (fun (i : Fin 64) => rebind (x.rings.get i) (f.binds.getD i.val {}))
  ({ x with
    rings := rings, arrs := f.arrs, joint := f.joint, dma := f.dma
    front := { f.front with streams := f.front.streams.map (fun (t : FrontStream) => { t with rest := 0 }) }
    win := { f.win with halos := x.win.halos }, attn := f.attn
    scan := { x.scan with queue := f.scanF ++ f.scanQ, fence := [] }
    ptu := { x.ptu with wpins := x.ptu.wpins ++ f.wpins, insOps := f.insOps, skipIns := f.skipIns, discard := f.discard }
    seq := { f.seq with key := f.seq.key }, draws := f.draws, restore := f.restore, frz := none }).freezeCan false

/-- The restore is complete (R350, R351): FROZEN clears and the thawed command goes on under what is left of the THAW's
budget; an empty context leaves the THAW done. A thawed standing run still writes its own report (R336). -/
def execThawRestoreComplete (ch : ChId) (s : State) : Out :=
  .next (
    let x := s.chan ch
    match x.cmd.run, x.frz with
    | some r, some f =>
      if r.phase ≠ .loading ∨ x.fenced ∨ x.halted ∨ x.dramHeld ∨ (r.limit ≠ 0 ∧ r.acs ≥ r.limit) then s
      else
        let q := x.dramTurn.dramRead f.base f.len
        if q.2.2 then s.setChan ch q.2.1
        else
        let s := s.setChan ch ((q.2.1.restoreCtx f q.1).clrReg FRZ_STAT 0x10)
        match f.run with
        | some t =>
          let lim := if r.limit == 0 then 0 else t.acs + (r.limit - r.acs)
          let src := match t.src with | .standing j => .standing j | _ => r.src
          let t := { t with thaw := some r.cmd, src := src, entry := r.entry, limit := lim, flags := t.flags ||| 0x10, phase := .running }
          (s.modChan ch (fun x => x.modCmd (fun d => { d with run := some t }))).scanSettle ch
        | none =>
          let s := s.modChan ch (fun x =>
            let x := x.modCmd (fun d => { d with run := none })
            match r.src with | .ring => x | _ => x.closeEntry)
          (s.endUnrun ch { r with phase := .finished } 0x00 0).meetFreeze ch
    | _, _ => s)

end Sys2Proof.Machine
end

