-- ==== Sys2Proof/Machine/Mailbox.lean ====
section
/-!
DEFINITION. The supervisor mailbox (R456).
(DESIGN CHOICE, log entry 49.)
-/

namespace Sys2Proof.Machine

open Sys2Proof

/-- The message in MBX_H2S. -/
def State.h2s (s : State) : List Byte := (List.range 16).flatMap (fun k => leBytes 4 (s.reg (MBX_H2S + 4 * k)).toNat)

/-- Whether the supervisor takes the posted message now: one is posted, and there is room for its answer.
(DESIGN CHOICE, log entry 49.) -/
def State.mbxReady (s : State) : Bool :=
  s.bit MBX_H2S_CTL 0 && decide ((s.sup.out.filter (fun m => !isNotice m)).length < 8)

/-- TYPE of the posted message. -/
def State.mbxType (s : State) : Nat := field s.h2s 0 2

/-- The supervisor takes the message and answers it with its TAG. -/
def State.mbxAnswer (s : State) (typ : Nat) (payload : List Byte) : State :=
  (s.clrReg MBX_H2S_CTL 1).supPost (message typ (byteAt s.h2s 2) payload)

/-- ECHO: the request's payload. -/
def execMbxEcho (s : State) : Out :=
  .next (
    if !s.mbxReady || s.mbxType != 0x0001 then s
    else s.mbxAnswer 0x8001 ((s.h2s.drop 4).take (min 60 (byteAt s.h2s 3).toNat)))

/-- INFO: GLB_FWVER, the last start's duration, SAFE_STCHK, and the steps at which channels failed. -/
def execMbxInfo (s : State) : Out :=
  .next (
    if !s.mbxReady || s.mbxType != 0x0002 then s
    else s.mbxAnswer 0x8002 (leBytes 4 (s.reg GLB_FWVER).toNat ++ leBytes 4 s.sup.startUs.toNat ++
      leBytes 4 (s.reg SAFE_STCHK).toNat ++ (s.sup.steps ++ List.replicate 16 0).take 16))

/-- LOG: up to three records, oldest first, and how many are still unread. -/
def execMbxLog (s : State) : Out :=
  .next (
    if !s.mbxReady || s.mbxType != 0x0003 then s
    else
      let l := s.sup.log
      let s := s.mbxAnswer 0x8003 (leBytes 4 (l.length - 3) ++ (l.take 3).flatten)
      { s with sup := { s.sup with log := l.drop 3 } })

/-- An unknown TYPE: the TYPE received. -/
def execMbxUnknownType (s : State) : Out :=
  .next (
    if !s.mbxReady || s.mbxType == 1 || s.mbxType == 2 || s.mbxType == 3 then s
    else s.mbxAnswer 0xFFFF (leBytes 2 s.mbxType))

/-- The host releases MBX_S2H, and the supervisor may post the next message. -/
def State.mbxRelease (s : State) : State := (s.clrReg MBX_S2H_CTL 1).supFlush

/-- MBX_S2H_CTL.FULL is written 1. -/
def execMbxS2hRelease (s : State) : Out := .next (s.atPort (fun s => s.mbxRelease))

end Sys2Proof.Machine
end

