-- ==== Sys2Proof/Machine/View.lean ====
section
/-!
DEFINITION. What a read of a register returns: the stored word, or for the fields that show the machine's state that state
(the register tables R61, R63, R92, R151, R205, R241, R263, R293, R325, R357, R380, R410 to R412, R444, R459, R466, R476).
(DEDUCED, log entry 44.)
-/

namespace Sys2Proof.Machine

open Sys2Proof

/-- A word of a 64-bit quantity: the high one at an offset that is 4 above a multiple of 8 of its base. -/
def half (hi : Bool) (v : Nat) : Word := BitVec.ofNat 32 (if hi then v / 2 ^ 32 else v)

/-- Words, from a register's offset on, of a byte memory. -/
def memWord (m : Mem) (o : Nat) : Word := BitVec.ofNat 32 (rdLe m (o / 4 * 4) 4)

/-! ## Control (R61, R63) -/

/-- CH_STATUS. (DEDUCED, log entries 15 and 44.) -/
def Channel.chStatus (x : Channel) : Word :=
  (x.reg CH_STATUS &&& 0x1BC) ||| fields [(b2n x.idle, 0), (b2n (x.cmd.run.isSome || x.cmd.side.isSome), 1),
    (b2n x.cplFull, 6), (b2n x.frz.isSome, 9), (b2n x.fenced, 10), (min 8 x.cmd.table.length, 11)]

/-! ## Rings, Front, DMA engine (chapters 03 and 04) -/

/-- RING_BASEn, RING_SIZEn, RING_HEADn, RING_TAILn. -/
def RingD.view (d : RingD) (k : Nat) : Word :=
  match k with
  | 0 => fields [(d.base.toNat, 0), (b2n d.valid, 25), (b2n d.live, 26), (b2n d.prod.isSome, 27), (b2n d.cons.isSome, 28)]
  | 1 => d.size.zeroExtend 32
  | 2 => d.head
  | _ => d.tail

/-- The credits a stream has (R100); none while it does not run. (DEDUCED, log entry 44.) -/
def Channel.frontCredit (x : Channel) (t : FrontStream) : Nat :=
  let d := x.ring t.ring
  if t.busy then (d.size.toNat - (t.claim - d.tail).toNat) / 128 else 0

/-- The registers of a Front stream. -/
def Channel.frontView (x : Channel) (n : Fin 16) (k : Nat) (raw : Word) : Word :=
  let t := x.front.streams.get n
  match k with
  | 0 => half false t.src
  | 1 => half true t.src
  | 2 => half false t.rem
  | 3 => half true t.rem
  | 4 => (raw &&& 0xC) ||| fields [(b2n t.busy, 0), (b2n t.cancelling, 1), (b2n (t.busy && t.strided), 4), (t.ring.toNat, 5), (min 63 t.infl, 11)]
  | 5 => fields [(x.frontCredit t, 0)]
  | _ => raw

/-- DMA_STATUS. -/
def Dma.status (d : Dma) (raw : Word) : Word :=
  (raw &&& 0x6) ||| fields [(b2n (d.running.isSome || d.discarding), 0), ((d.running.getD 0).toNat, 3), (min 8 d.queue.length, 6)]

/-- The registers of a DMA context: those of the set last loaded, then its count and status. -/
def Dma.view (d : Dma) (n : BitVec 3) (k : Nat) : Word :=
  let c := d.ctx.get n.toFin
  let g (f : DmaSet → Nat) : Nat := match c.last with | some t => f t | none => 0
  match k with
  | 0 | 1 => half (k == 1) (g (·.src.toNat))
  | 2 | 3 => half (k == 3) (g (·.dst.toNat))
  | 4 | 5 => half (k == 5) (g (·.len.toNat))
  | 6 | 7 => half (k == 7) (g (·.pitch.toNat))
  | 8 => fields [(g (·.mod.toNat), 0), (g (fun t => b2n t.plist), 25), (g (·.ring.toNat), 26)]
  | 9 => BitVec.ofNat 32 c.done
  | 10 =>
    match c.undef with
    | some w => w
    | none => fields [(b2n c.active.isSome, 0), (b2n (d.running == some n), 1), (b2n c.shadow.isSome, 2),
                      ((c.active.map (·.tk.toNat)).getD 0, 3)]
  | _ => 0

/-! ## Arrays, window generator, SCAN datapath, PTU, attention unit (chapters 05 to 09) -/

/-- MAn_STAT; `conv` says that a CONV instruction runs on the array (R151, R175). -/
def Arr.status (a : Arr) (conv : Bool) (raw : Word) : Word :=
  (raw &&& 0xC000) ||| fields [(b2n a.loaded, 0), (a.mode % 8, 1), (a.cbn % 4, 4),
    (b2n (a.run.isSome || a.slot.isSome || !a.queue.isEmpty || conv), 6), (min 7 a.queue.length, 7), (min 15 a.wins.length, 10)]

/-- Whether a CONV instruction runs on array `k`. -/
def Channel.convOn (x : Channel) (k : Fin 2) : Bool :=
  x.win.slots.toList.any (fun o => match o with | some i => i.unit.getLsbD k.val | none => false)

/-- WIN_STAT. -/
def Win.status (w : Win) : Word :=
  fields [(b2n (w.slots.get 0).isSome, 0), (b2n (w.slots.get 1).isSome, 1), (min 7 w.queue.length, 2),
          (b2n (w.halos.toList.any (·.waiting)), 5)]

/-- HALO_CFGh, HALO_NEXTh, HALO_ROWBh, HALO_STATh. -/
def Halo.view (h : Halo) (k : Nat) (raw : Word) : Word :=
  match k with
  | 0 => fields [(h.ring.toNat, 0), (b2n h.armed, 6), (h.sch.toNat, 7), (h.sdev.toNat, 11)]
  | 1 => h.next
  | 2 => h.rowb
  | _ => (raw &&& 0x6) ||| fields [(b2n h.waiting, 0)]

/-- SCAN_STAT: the head of the queue runs once it has left its waits and its fence behind (R260, R263). QUEUED holds at most 4: while
instructions that have left the fence stand ahead of a full queue it counts the queue's own four. -/
def Channel.scanStat (x : Channel) (raw : Word) : Word :=
  let c := x.scan
  let runs := match c.queue with
    | i :: _ => i.n != 0 || (x.engineGo && !i.rcd.isEmpty && !x.mustFence i && !x.scanWaits i)
    | [] => false
  (raw &&& 0x780) ||| fields [(b2n runs, 0), (min 4 (c.queue.length - b2n runs), 1), (min 4 c.fence.length, 4)]

/-- SCAN_SLOTn_CFG, _GEN, _FADDR, _STEPS. -/
def Slot.view (t : Slot) (k : Nat) : Word :=
  match k with
  | 0 => fields [(t.base, 0), (t.array.val, 12), (t.mode, 13), (b2n t.ckpt, 15), (b2n t.side, 16), (t.state, 17), (t.rows - 1, 19)]
  | 1 => t.nextGen ++ t.gen
  | 2 | 3 => half (k == 3) t.faddr.toNat
  | 4 | 5 => half (k == 5) t.steps.toNat
  | _ => 0

/-- PTU_STAT: an operation is applied in one command of the block, so that none is in flight between two (INFL reads 0).
(DEDUCED, log entry 44.) -/
def Channel.ptuStat (x : Channel) (raw : Word) : Word :=
  (raw &&& 0xC0) ||| fields [(b2n (x.presented.isEmpty && x.ptu.copies.isEmpty), 0),
    (b2n (x.ptu.discard != 0 || !x.ptu.skipIns.isEmpty), 8)]

/-- PTU_WPINc_i: the pins of the walks on context c, running or dropped. -/
def Ptu.wpin (p : Ptu) (c i : Nat) : Word :=
  match ((p.wpins ++ p.lost).filter (fun e => e.1 == c))[i]? with
  | some e => fields [(entHandle e.2, 0), (1, 31)]
  | none => 0

/-- ATT_STAT: ATTN.TABLE runs from the head of the queue on, the others from their first operation. Whether a softmax waits for a
vector-unit ac depends on timing that the model does not have: VECWAIT is free while a block is at work. (DESIGN CHOICE, log
entry 27.) -/
def Channel.attnStat (x : Channel) (k : Nat) : Word :=
  let a := x.attn
  let runs := match a.queue with | i :: _ => i.opc == 0x76 || !i.rcd.isEmpty | [] => false
  let vec := match a.page with | some p => p.pages.isSome | none => false
  fields [(b2n runs, 0), (b2n x.pageWait, 1), (if vec then Config.freeNat k % 2 else 0, 2), (min 7 (a.queue.length - b2n runs), 3)]

/-! ## Intake (R293) -/

/-- Frames that wait for decode: arrived whole, named by a slot that has not resolved, and not the one in the decoder.
(DEDUCED, log entry 51.) -/
def Channel.decPend (x : Channel) : Nat :=
  let n := (x.unresolved.filter (fun e => x.inCfg e.2.2.stream 19 19 == 0 && match x.slotFrame e.2.2 with | some f => !f.isOpen && !f.gone | none => false)).length
  min 15 (n - b2n x.intake.decode.isSome)

/-- The decoder's busy share of the last 2²⁰ fc, in units of 2⁻¹⁶. -/
def Channel.decOcc (x : Channel) (fc : Nat) : Nat :=
  let spans := x.intake.busy ++ (match x.intake.decode with | some d => [(d.2.2, fc)] | none => [])
  min 65535 ((spans.map (fun b => b.2 - max b.1 (fc - 2 ^ 20))).foldl (· + ·) 0 / 16)

/-! ## Servo engine, drive link (R325) -/

/-- SERVO_STAT. -/
def Channel.servoStat (x : Channel) (fc : Nat) : Word :=
  (x.reg SERVO_STAT &&& 0x7A) ||| fields [(b2n (x.bit SERVO_CTRL 0 && x.servo.next.isSome), 0),
    (b2n (x.servo.phase == .evaluated && decide (fc < x.servo.evalEnd)), 2)]

/-- The STATE field of a link's training (R325). -/
def DrvState.code : DrvState → Nat
  | .down => 0 | .seek => 1 | .locked => 1 | .meas => 1 | .ready => 2 | .up => 3

/-- DRV_STAT. -/
def Channel.drvStat (x : Channel) : Word :=
  (x.reg DRV_STAT &&& 0x18) ||| fields [(x.drv.state.code, 0), (b2n x.drv.lock, 2), (b2n (x.bit DRV_FARSTS 1), 5)]

/-- The state window of an axis (R325). -/
def Axis.window (y : Axis) : List Byte :=
  leBytes 4 y.s.toNat ++ leBytes 4 y.ref.toNat ++ leBytes 4 y.aux.toNat ++ leBytes 4 y.out.toNat ++
    y.i.toList.flatMap (fun v => leBytes 8 v.toNat) ++ y.ep.toList.flatMap (fun v => leBytes 4 v.toNat)

/-! ## CAN, Almanac, links (R357, R380, R412) -/

/-- CAN_STAT. -/
def Channel.canStat (x : Channel) : Word :=
  let st := if x.can.off then 2 else if x.canPassive then 1 else 0
  (x.reg CAN_STAT &&& 0x78) ||| fields [(st, 0), (b2n (getField (x.reg CAN_CTRL) 1 0 != 0), 2)]

/-- Whether the next entry waits for its gate alone (R332, R357): its OFFSET has come, and the entry before has ended or is a FILL
entry. -/
def Channel.gateWait (x : Channel) (now : Nat) : Bool :=
  let a := x.alm
  let e := bkEnt x.bank a.ahead
  a.running && decide (a.ahead < bkNent x.bank) && (!a.isOpen || (bkEnt x.bank a.entry).typ == 1) &&
    decide (x.frame0 + e.offset ≤ now) && !x.gateOk e

/-- ALM_STAT. -/
def Channel.almStat (x : Channel) (now : Nat) : Word :=
  let a := x.alm
  (x.reg ALM_STAT &&& 0x38) ||| fields [(b2n a.running, 0), (b2n (a.running && a.isOpen), 1), (b2n (x.gateWait now), 2)]

/-- ALM_BANK_SEL. -/
def Almanac.sel (a : Almanac) : Word :=
  fields [(if a.running then a.active.val else 0, 0), (b2n (a.loaded.get 0), 1), (b2n (a.loaded.get 1), 2),
          (b2n a.armed.isSome, 3), (a.armed.getD 0, 4)]

/-- The STATE field of a cascade port (R380). -/
def CasState.code : CasState → Nat
  | .down => 0 | .seek => 1 | .locked => 1 | .meas => 1 | .ready => 2 | .up => 3

/-! ## A channel window -/

/-- A capture pin's registers (R410). -/
def State.tcapView (s : State) (p : Fin 17) (k : Nat) : Word :=
  let o := TCAP_CFG p.val
  let f := s.fifo p
  match k with
  | 1 => (s.reg (o + 4) &&& 0x10) ||| fields [(min 8 f.length, 0)]
  | 3 => match f with | e :: _ => e.frac | [] => 0
  | 4 | 5 => match f with | e :: _ => half (k == 5) e.t.toNat | [] => 0
  | 6 => match f with | e :: _ => fields [(b2n e.rising, 0), (1, 1)] | [] => 0
  | 7 => 0
  | _ => s.reg (o + 4 * k)

/-- A trigger's registers (R410). -/
def State.trgView (s : State) (t : Fin 8) (k : Nat) : Word :=
  let g := s.trigger t
  match k with
  | 1 => (s.reg (TRG_STAT t.val) &&& 0x4) ||| fields [(b2n (g.run.isSome || g.next.isSome), 0), (b2n g.pulse.isSome, 1)]
  | 7 => 0
  | _ => s.reg (TRG_CFG t.val + 4 * k)

/-- The words of a channel window below 0x10_0000 that show the machine's state. -/
def State.chLive (s : State) (c : ChId) (o : Nat) : Word :=
  let x := s.chan c
  let raw := x.reg o
  if o == CH_STATUS then x.chStatus
  else if 0x10008 ≤ o && o ≤ 0x10010 then (if x.idle then raw else 0)
  else if 0x12000 ≤ o && o < 0x12400 then (x.rings.get (Fin.ofNat 64 ((o - 0x12000) / 16))).view (o % 16 / 4)
  else if 0x20000 ≤ o && o < 0x20200 then x.frontView (Fin.ofNat 16 ((o - 0x20000) / 32)) (o % 32 / 4) raw
  else if o == FRONT_INFL then BitVec.ofNat 32 (min 63 x.front.infl)
  else if o == DMA_STATUS then x.dma.status raw
  else if 0x30100 ≤ o && o < 0x30300 then x.dma.view (BitVec.ofNat 3 ((o - 0x30100) / 64)) (o % 64 / 4)
  else if o == MA_STAT 0 then (x.arrs.get 0).status (x.convOn 0) raw
  else if o == MA_STAT 1 then (x.arrs.get 1).status (x.convOn 1) raw
  else if o == WIN_STAT then x.win.status
  else if 0x40500 ≤ o && o < 0x40540 then (x.win.halos.get (Fin.ofNat 4 ((o - 0x40500) / 16))).view (o % 16 / 4) raw
  else if o == SCAN_STAT then x.scanStat raw
  else if 0x40C00 ≤ o && o < 0x41000 then (x.scan.slots.get (Fin.ofNat 32 ((o - 0x40C00) / 32))).view (o % 32 / 4)
  else if o == PTU_STAT then x.ptuStat raw
  else if 0x50080 ≤ o && o < 0x50100 then x.ptu.wpin ((o - 0x50080) / 16) (o % 16 / 4)
  else if o == ATT_STAT then x.attnStat s.free
  else if o == IN_STAT then (raw &&& 0x3F) ||| fields [(min 15 x.intake.batches.length, 6), (b2n x.intake.decode.isSome, 10)]
  else if o == IN_DEC_OCC then BitVec.ofNat 32 (x.decOcc s.fc)
  else if o == IN_DEC_PEND then BitVec.ofNat 32 x.decPend
  else if o == SERVO_STAT then x.servoStat s.fc
  else if o == SERVO_BANK then fields [(x.servo.active.val, 0), (b2n x.servo.armed, 1)]
  else if o == SERVO_RCST then fields ((List.finRange 16).map (fun a => ((x.servo.axis a).rc, 2 * a.val)))
  else if o == SERVO_COST then BitVec.ofNat 32 (x.servo.cost x.servo.bank % 65536)
  else if o == DRV_STAT then x.drvStat
  else if o == CAN_STAT then x.canStat
  else if o == ALM_STAT then x.almStat s.nowNs
  else if o == ALM_BANK_SEL then x.alm.sel
  else if o == ALM_ENTRY then BitVec.ofNat 32 (if x.alm.running && bkNent x.bank != 0 then x.alm.entry % bkNent x.bank else 0)
  else if 0xB0100 ≤ o && o < 0xB0128 && !ownsPort c then 0
  else if o == CAS_STAT then (raw &&& 0x7C) ||| fields [(x.cas.state.code, 0)]
  else raw

/-- A word of channel `c`'s window (R448, R410, R388): the registers, the capture pins and triggers bound to it, the
Almanac banks, the learning tables, the loop-table banks and the state window. An offset without a register reads 0. -/
def State.chView (s : State) (c : ChId) (o : Nat) : Word :=
  let x := s.chan c
  if 0x80800 ≤ o && o < 0x80A20 then
    let p : Fin 17 := Fin.ofNat 17 ((o - 0x80800) / 32)
    if pinPath (s.reg (TCAP_CFG p.val)) 2 6 (.csr c) then s.tcapView p (o % 32 / 4) else 0
  else if 0x80C00 ≤ o && o < 0x80E00 then
    let t : Fin 8 := Fin.ofNat 8 ((o - 0x80C00) / 64)
    if pinPath (s.reg (TRG_CFG t.val)) 1 5 (.csr c) then (if o % 64 < 0x28 then s.trgView t (o % 64 / 4) else 0) else 0
  else if 0x100000 ≤ o && o < 0x140000 then memWord (x.alm.bank (Fin.ofNat 2 ((o - 0x100000) / 0x20000))) (o % 0x20000)
  else if 0x180000 ≤ o && o < 0x1C0000 then sget 0 x.servo.learn ((o - 0x180000) / 4)
  else if 0x1C0000 ≤ o && o < 0x1C4000 then memWord (x.servo.banks.get (Fin.ofNat 2 ((o - 0x1C0000) / 0x2000))) (o % 0x2000)
  else if 0x1C4000 ≤ o && o < 0x1C4400 then
    BitVec.ofNat 32 (field ((x.servo.axis (Fin.ofNat 16 ((o - 0x1C4000) / 64))).window) (o % 64) 4)
  else match chRow o with
    | none => 0
    | some r => if r.wo then 0 else s.chLive c o

/-! ## The common block -/

/-- SAFE_LEASEn (R427, R444): the fetch on its way, the producer right, the valid steering entries that name the channel,
and ABWAIT. -/
def State.lease (s : State) (c : ChId) : Word :=
  let x := s.chan c
  let n := ((List.range 64).filter (fun e =>
    (s.reg (STEER e 1)).getLsbD 7 && getField (s.reg (STEER e 1)) 3 0 == c.val)).length
  (s.reg (SAFE_LEASE c.val) &&& 0x1000) ||| fields [(b2n x.cmd.fetch.isSome, 0), (b2n (s.live c && !x.fenced), 4), (n, 5)]

/-- PWR_STATn (R476). (DEDUCED, log entry 46.) -/
def State.pwrStat (s : State) (c : ChId) : Word :=
  (s.reg (PWR_STAT c.val) &&& 0x7B) ||| fields [(b2n (s.pwr.get c).change.isSome, 2),
    (b2n (decide (getField (s.reg (PWR_CTL c.val)) 1 0 < s.point c)), 7)]

/-- A word of the common block at a BAR0 offset (R448). -/
def State.glView (s : State) (o : Nat) : Word :=
  let raw := s.reg o
  if 0x3360000 ≤ o && o < 0x3360400 then raw
  else if 0x3F00000 ≤ o && o < 0x3F00400 then s.msixWord (o - 0x3F00000)
  else if o == 0x3F01000 || o == 0x3F01004 then half (o == 0x3F01004) s.pba.toNat
  else match glRow o with
    | none => 0
    | some r =>
      if 0x3380140 ≤ o && o < 0x3380180 then s.lease (Fin.ofNat 16 ((o - 0x3380140) / 4))
      else if o == SAFE_CTRL then raw &&& 0x1FFFF
      else if r.wo then 0
      else if 0x3301000 ≤ o && o < 0x3301220 then s.tcapView (Fin.ofNat 17 ((o - 0x3301000) / 32)) (o % 32 / 4)
      else if 0x3302000 ≤ o && o < 0x3302200 then s.trgView (Fin.ofNat 8 ((o - 0x3302000) / 64)) (o % 64 / 4)
      else if o == TIME_STAT then (raw &&& 0x3C) ||| fields [(b2n s.slave, 0), (b2n s.tc.timed.isSome, 1)]
      else if o == PTP_STAT then
        (raw &&& 3) ||| fields [(b2n s.ptpServes, 2), (b2n (s.ptpSlave == some 1), 3)]
      else if o == TIME_NS then s.time.ns.zeroExtend 32
      else if o == TIME_SHORT || o == TIME_SHORT + 4 then half (o == TIME_SHORT + 4) s.now.toNat
      else if 0x33A0000 ≤ o && o < 0x33A0400 && o % 64 == 4 then s.pwrStat (Fin.ofNat 16 ((o - 0x33A0000) / 64))
      else if o == FLASH_STAT then (raw &&& 0xE) ||| fields [(b2n s.sup.flashRun.isSome, 0)]
      else if o == CAL_STAT then (raw &&& 0x6) ||| fields [(b2n s.sup.calRun.isSome, 0)]
      else if o == ATST_STAT then (raw &&& 0xE) ||| fields [(b2n s.sup.attRun, 0)]
      else raw

end Sys2Proof.Machine
end

