-- ==== Sys2Proof/Machine/RegFile.lean ====
section
/-!
DEFINITION. What a write of a register does, and a read (R11 to R13, R37, R448 to R450): the access codes, the pairs with
their latches and staging words, the registers that accept writes only at certain times, and those whose write acts.
-/

namespace Sys2Proof.Machine

open Sys2Proof

/-! ## Rows and access codes -/

/-- What software's write leaves (R12, R13): RW fields take the value, W1C fields clear where it is 1, the rest stands. -/
def RegRow.write (r : RegRow) (o : Nat) (old v : Word) : Word :=
  let rw := r.part o r.rw
  let keep := (old &&& ~~~rw) ||| (v &&& rw)
  keep &&& ~~~(v &&& r.part o r.w1c)

/-- Whether software can write nothing of a register. -/
def RegRow.ro (r : RegRow) : Bool := r.rw == 0 && r.w1c == 0 && !r.wo

/-- The offset in BAR0 of a word of a channel window's pin area (R388). -/
def pinOff (o : Nat) : Option Nat :=
  if 0x80800 ≤ o && o < 0x80A20 then some (0x3301000 + (o - 0x80800))
  else if 0x80C00 ≤ o && o < 0x80E00 && o % 64 < 0x28 then some (0x3302000 + (o - 0x80C00))
  else none

/-- The row of a word of a channel window, pins included, and the offset to look it up by. -/
def winRow (o : Nat) : Option RegRow × Nat :=
  match pinOff o with
  | some g => (glRow g, g)
  | none => (chRow o, o)

/-- Whether a word belongs to a pair, and is its high word. -/
def pairOf (q : Option RegRow × Nat) : Option Bool :=
  match q.1 with
  | some r => if r.pair then some (r.word q.2 % 2 == 1) else none
  | none => none

/-! ## Program-memory debug (R37) -/

/-- Fetches the word at SEQ_PM_ADDR into SEQ_PM_DATA and SEQ_PM_CHK. (DESIGN CHOICE, log entry 24.) -/
def Channel.pmFetch (x : Channel) : Channel :=
  let i := (x.reg SEQ_PM_ADDR).toNat % 0x8000
  let w := sget 0 x.pm.words i
  let e := sget 0 x.pm.err i
  (x.setReg64 SEQ_PM_DATA w).setReg SEQ_PM_CHK
    (fields [((Config.pmCheck w).toNat, 0), (b2n (e == 1), 8), (b2n (e == 2), 9)])

/-- A write of SEQ_PM_ADDR, ignored while the channel is not idle. -/
def Channel.pmAddr (x : Channel) (v : Word) : Channel :=
  if x.idle then (x.setReg SEQ_PM_ADDR (v &&& 0x7FFF)).pmFetch else x

/-- A read of SEQ_PM_DATA's high word goes on to the next word. -/
def Channel.pmNext (x : Channel) : Channel := if x.idle then x.pmAddr (x.reg SEQ_PM_ADDR + 1) else x

/-! ## Writes of a channel window -/

/-- The registers the host writes only while FETCH_EN is 0 and the channel is idle (R61). -/
def setupRegs : List Nat := [CH_CMD_BASE, CH_CMD_SIZE, CH_CPL_BASE, CH_CPL_SIZE, CH_WB_ADDR, CH_JRNL_BASE, CH_SEQ_NEXT]

/-- Whether the register at an offset accepts a write now (R61, R92, R151, R212, R264, R325, R357, R380, R401).
(DEDUCED, log entry 19.) -/
def State.chAccepts (s : State) (c : ChId) (p : Path) (o : Nat) : Bool :=
  let x := s.chan c
  let host := match p with | .host => true | .csr _ => false
  let o := o - (if (chRow o).any (fun r => r.pair && r.word o % 2 == 1) then 4 else 0)
  if setupRegs.contains o then x.idle && !x.bit CH_CTRL 0
  else if (0x11000 ≤ o && o < 0x11020) || o == MA_CHK_TOL || o == CAS_LAT || o == LINK_ROUTE then !host || x.idle
  else if 0x50008 ≤ o && o < 0x50044 then x.idle && !x.bit PTU_CTRL 0
  else if o == SERVO_T0 then !x.bit SERVO_CTRL 0
  else if o == FRZ_BASE || o == FRZ_LIMIT || o == BARO_BASE || o == BARO_SIZE then
    x.frz.isNone && !x.bit FRZ_CTRL 0 && getField (x.reg FRZ_STAT) 1 0 == 0
  else if o == CAN_NBT || o == CAN_DBT || o == CAN_T0 || o == CAN_COLLEN || (0x80040 ≤ o && o < 0x80080) || o == CAN_RXBASE ||
      o == CAN_RXSIZE then getField (x.reg CAN_CTRL) 1 0 == 0
  else if (0x60100 ≤ o && o < 0x60300) || (0x61000 ≤ o && o < 0x61800) then
    let n := if o < 0x61000 then (o - 0x60100) / 0x100 else (o - 0x61000) / 0x400
    o == IN_S_CFG n || o == IN_S_HOSTPOST n || !x.bit (IN_S_CFG n) 0
  else true

/-- A write of IN_BRING (R281): the intake binds the ring's consumer side. A ring it cannot bind leaves EN 0 and sets
CFG_ERR. (DEDUCED, log entry 21.) -/
def State.bringWrite (s : State) (c : ChId) (v : Word) : State :=
  let x := s.chan c
  let old := x.reg IN_BRING
  let x := if old.getLsbD 6 then x.unbindCons (old.extractLsb' 0 6) else x
  let r : BitVec 6 := v.extractLsb' 0 6
  if !v.getLsbD 6 then s.setChan c (x.setReg IN_BRING (v &&& 0x3F))
  else if (x.ring r).valid && bindOk (x.ring r).cons .intake then
    s.setChan c ((x.bindCons r .intake).setReg IN_BRING (v &&& 0x7F))
  else (s.setChan c (x.setReg IN_BRING (v &&& 0x3F))).inErr c 0x20

/-- What the write of a channel register whose write acts does; none for the others.
(DEDUCED, log entry 19; DESIGN CHOICE, log entry 20.) -/
def State.chAct (s : State) (c : ChId) (p : Path) (o : Nat) (v : Word) : Option State :=
  let x := s.chan c
  let b0 := v.getLsbD 0
  let keep (o : Nat) (m : Word) : State := s.setChan c (x.setReg o ((x.reg o &&& ~~~m) ||| (v &&& m)))
  if o == CH_CTRL then some (s.chCtrl c v)
  else if o == CH_CMD_TAIL then some (s.cmdTail c v)
  else if o == CH_CPL_CONS then some (s.cplCons c v)
  else if o == SEQ_PM_ADDR then some (s.setChan c (x.pmAddr v))
  else if o == DMA_CTRL then some (s.dmaEnWrite c b0)
  else if o == MA_CHK_TOL then
    match p with
    | .host => none
    | .csr _ =>
      let keep := if x.restore.any (fun e => e.1 == o) then x.restore else x.restore ++ [(o, x.reg o)]
      some (s.setChan c { x.setReg o (v &&& 0xFFFF) with restore := keep })
  else if o == IN_CTRL then
    let s := keep IN_CTRL 0x1F
    some (if b0 then s else s.modChan c (fun x => x.clrReg IN_STAT 1))
  else if o == IN_BRING then some (s.bringWrite c v)
  else if o == IN_S_CFG 0 || o == IN_S_CFG 1 then
    some ((keep o (if x.bit o 0 then 0 else 0x3FFFFE)).inEn c (if o == IN_S_CFG 0 then 0 else 1) b0)
  else if o == IN_S_HOSTPOST 0 then some (s.hostPost c 0 v)
  else if o == IN_S_HOSTPOST 1 then some (s.hostPost c 1 v)
  else if o == SERVO_CTRL then some ((keep o 0x2).servoEnWrite c b0)
  else if o == SERVO_SWCTL then some (if v.getLsbD 1 then s.servoDisarm c else if b0 then s.servoArm c else s)
  else if o == SERVO_RING then some (s.setChan c (x.servoRingWrite v))
  else if o == DRV_CFG then some ((keep o 0x1E).drvEnWrite c b0)
  else if o == CAN_CTRL then some ((keep o 0x7C).canModeWrite c (v.extractLsb' 0 2))
  else if o == CAN_RXTAIL then some (s.setChan c (x.canRxTail v))
  else if o == FRZ_CTRL then some (s.frzCtrl c v)
  else if o == BARO_BASE then some (s.setChan c (x.setReg o (v &&& 0xFFFFFFC0)))
  else if o == BARO_SIZE then
    some (if 6 ≤ getField v 4 0 && getField v 4 0 ≤ 16 then s.setChan c (x.setReg o (v &&& 0x1F)) else s)
  else if 0xB0010 ≤ o && o < 0xB0030 then some (s.setChan c (x.linkOpen ((o - 0xB0010) / 4) v))
  else if 0xB0100 ≤ o && o < 0xB0128 && !ownsPort c then some s
  else if o == CAS_CTRL then some ((keep o 0x6).casEnWrite c b0)
  else none

/-- A write of a word that is no register but memory of the channel (R301, R302, R306, R307, R328): a learning table while
its axis is off or on hold, a loop-table bank while it is neither active nor armed; the Almanac banks ignore it. -/
def State.chMemWrite (s : State) (c : ChId) (o : Nat) (v : Word) : State :=
  if 0x180000 ≤ o && o < 0x1C0000 then
    let k := (o - 0x180000) / 4
    if (s.chan c).servo.tableFree (Fin.ofNat 16 (k / 4096)) then
      s.modChan c (fun x => x.modServo (fun u => { u with learn := sset 0 u.learn k v }))
    else s
  else if 0x1C0000 ≤ o && o < 0x1C4000 && o % 0x2000 < 4160 then
    let b : Fin 2 := Fin.ofNat 2 ((o - 0x1C0000) / 0x2000)
    let u := (s.chan c).servo
    if b == u.active || u.armed then s
    else s.modChan c (fun x => x.modServo (fun u => { u with
      banks := u.banks.set b.val (wrBytes (u.banks.get b) (o % 0x2000) (leBytes 4 v.toNat)) b.isLt }))
  else s

/-! ## Writes of the common block -/

/-- A write of a word of the MSI-X table: unmasking an entry whose pending bit is set sends its message. -/
def State.msixWrite (s : State) (k : Nat) (v : Word) : State :=
  let w := k % 16 / 4
  let e := k / 16
  let m : Word := if w == 0 then 0xFFFFFFFC else if w == 3 then 1 else 0xFFFFFFFF
  let s := { s with msix := sset (if w == 3 then 1 else 0) s.msix (k / 4 * 4) (v &&& m) }
  if w == 3 && !v.getLsbD 0 && s.pba.getLsbD e then { s with pba := setBit s.pba e false }.signal e else s

/-- A host write of a word of a steering entry (R272, R449): it clears REVOKED, or sets it for a channel out of service.
(DEDUCED, log entry 21.) -/
def State.steerWrite (s : State) (e w : Nat) (v : Word) : State :=
  let s := s.setReg (STEER e w) (if w == 0 then v else if w == 1 then v &&& 0x9F else 0)
  let t := s.reg (STEER e 1)
  let dead := !s.bit GLB_CHLIVE (getField t 3 0)
  s.setReg (STEER e 1) (if dead then t ||| 0x40 else t &&& 0xFFFFFFBF)

/-- Whether a trigger's schedule is the path's to write (R389); the host may still rebind a bound output.
(DESIGN CHOICE, log entry 20.) -/
def State.trgWrite (s : State) (t : Fin 8) (k : Nat) (p : Path) (v : Word) : State :=
  let o := TRG_CFG t.val + 4 * k
  let own := pinPath (s.reg (TRG_CFG t.val)) 1 5 p
  if k == 0 then s.setReg o (if own then v &&& 0x3F else (s.reg o &&& 1) ||| (v &&& 0x3E))
  else if !own then s
  else if k == 7 then
    let s := if v.getLsbD 1 then s.trgCancel t p else s
    if v.getLsbD 0 then s.trgArm t p else s
  else match glRow o with
    | some r => s.setReg o (r.write o (s.reg o) v)
    | none => s

/-- A register of an Ethernet port that accepts writes only while EN is 0 (R411). (DEDUCED, log entry 19.) -/
def ethGated (k : Nat) : Bool := k == 8 || k == 12 || k == 0x20 || k == 0x24 || k == 0x28 || k == 0x40 || k == 0x44 || k == 0x48

/-- What the write of a common-block register whose write acts, or is at times ignored, does; none for the others. -/
def State.glAct (s : State) (p : Path) (o : Nat) (v : Word) : Option State :=
  let b0 := v.getLsbD 0
  if 0x3360000 ≤ o && o < 0x3360400 then some (s.steerWrite ((o - 0x3360000) / 16) (o % 16 / 4) v)
  else if 0x3F00000 ≤ o && o < 0x3F00400 then some (s.msixWrite (o - 0x3F00000) v)
  else if 0x3301000 ≤ o && o < 0x3301220 && o % 32 == 0x1C then some (s.tcapPop (Fin.ofNat 17 ((o - 0x3301000) / 32)) p)
  else if 0x3302000 ≤ o && o < 0x3302200 then some (s.trgWrite (Fin.ofNat 8 ((o - 0x3302000) / 64)) (o % 64 / 4) p v)
  else if 0x3340000 ≤ o && o < 0x3360000 then
    let q := (o - 0x3340000) / 0x10000
    let en := s.bit (ETH_CTRL q) 0
    let k := o % 0x10000
    if k == 0 then
      let t := s.setReg o (if en then setBit (s.reg o) 0 b0 else v &&& 0x1F)
      some (if (t.reg o ^^^ s.reg o) &&& 6 == 0 then t else t.ethLat q)
    else if ethGated k && en then some s
    else none
  else if 0x33A0000 ≤ o && o < 0x33A0400 && o % 64 == 0 then some (s.pwrReq (Fin.ofNat 16 ((o - 0x33A0000) / 64)) v)
  else if 0x33C0800 ≤ o && o < 0x33C0900 then (if s.sup.flashRun.isSome then some s else none)
  else if 0x33C1000 ≤ o && o < 0x33C1400 then (if s.sup.calRun.isSome then some s else none)
  else if 0x33C2000 ≤ o && o < 0x33C2030 then (if s.sup.attRun then some (s.orReg ATST_STAT 4) else none)
  else if 0x33E0000 ≤ o && o < 0x33E0040 then (if s.bit MBX_H2S_CTL 0 then some s else none)
  else if o == GLB_RESET then some (s.glbReset v)
  else if o == GLB_SYNC_ARM then some (s.syncArm v)
  else if o == GLB_SYNC_GO then some (if b0 then s.syncGo else s)
  else if o == TIME_CMD then some (s.timeCmd v)
  else if o == PTP_CTRL then some (s.ptpCtrl v)
  else if o == PTP_PRIO then some (s.ptpPrio (v &&& 0xFFFF))
  else if o == TSQ_HEAD then some (s.tsqHead v)
  else if o == SAFE_CTRL then some (s.safeCtrl v)
  else if o == FLASH_ADDR then (if s.sup.flashRun.isSome then some s else none)
  else if o == FLASH_CMD then some (s.flashCmd v)
  else if o == CAL_CMD then some (s.calCmd v)
  else if o == ATT_CMD then some (if b0 then s.attGo else s)
  else if o == MBX_H2S_CTL then some (if b0 then s.orReg o 1 else s)
  else if o == MBX_S2H_CTL then some (if b0 then s.mbxRelease else s)
  else none

/-- A word of the common block that is no half of a pair is written. -/
def State.glStore (s : State) (p : Path) (o : Nat) (v : Word) : State :=
  match s.glAct p o v with
  | some t => t
  | none =>
    match glRow o with
    | some r => if r.ro || r.wo then s else s.setReg o (r.write o (s.reg o) v)
    | none => s

/-- Both words of a common-block pair are written on the same fc (R11). -/
def State.glStore64 (s : State) (p : Path) (o : Nat) (v : Dword) : State :=
  let next := o == TIME_NEXT_ADD || o == TIME_NEXT_STEP || o == TIME_NEXT_AT
  if o == TIME_ADDEND then s.timeAddend v
  else if next && s.slave then s.cmdErr
  else if 0x3302000 ≤ o && o < 0x3302200 then
    if pinPath (s.reg (TRG_CFG ((o - 0x3302000) / 64))) 1 5 p then s.setReg64 o v else s
  else match s.glAct p o (v.extractLsb' 0 32) with
    | some t => t
    | none =>
      match glRow o with
      | some r => if r.ro then s else s.setReg64 o (v &&& BitVec.ofNat 64 r.rw)
      | none => s

/-! ## One write of a word (R11) -/

/-- A register of a channel that the host has written on this fc: a SYS.CSR write of it on the same fc comes before, and the host's
value is left (R451). -/
def State.hostFirst (s : State) (c : ChId) (p : Path) (o : Nat) : Bool :=
  match p with | .host => false | .csr _ => (s.chan c).hostWr.contains o

/-- Notes a register that the host writes on this fc. -/
def State.noteHost (s : State) (c : ChId) (p : Path) (o : Nat) : State :=
  match p with | .host => s.modChan c (fun x => { x with hostWr := o :: x.hostWr }) | .csr _ => s

/-- What a SYS.CSR write leaves of a register that the host writes on the same fc: the fields that it clears by ones (R451). -/
def RegRow.behind (r : RegRow) (o : Nat) (old v : Word) : Word := old &&& ~~~(v &&& r.part o r.w1c)

/-- A word of a channel window that is no half of a pair is written. A pin's word acts as the pin's register. -/
def State.chStore (s : State) (c : ChId) (p : Path) (o : Nat) (v : Word) : State :=
  match pinOff o with
  | some g =>
    let cfg := if g < 0x3302000 then (s.reg (TCAP_CFG ((g - 0x3301000) / 32)), 2, 6) else (s.reg (TRG_CFG ((g - 0x3302000) / 64)), 1, 5)
    if pinPath cfg.1 cfg.2.1 cfg.2.2 (.csr c) then s.glStore p g v else s
  | none =>
    if !s.chAccepts c p o then s
    else
      let first := s.hostFirst c p o
      let s := s.noteHost c p o
      if first && (chRow o).any (fun r => r.rw != 0) then
        s.modChan c (fun x => x.setReg o (match chRow o with | some r => r.behind o (x.reg o) v | none => x.reg o))
      else match s.chAct c p o v with
        | some t => t
        | none =>
          match chRow o with
          | some r => if r.ro || r.wo then s else s.modChan c (fun x => x.setReg o (r.write o (x.reg o) v))
          | none => s.chMemWrite c o v

/-- Both words of a channel pair are written on the same fc (R11). CH_CMD_BASE, CH_CPL_BASE, CH_WB_ADDR and CH_JRNL_BASE keep the low bits
of a misaligned value, which R61 says no more of than that the address is aligned. (DESIGN CHOICE, log entry 54.) -/
def State.chStore64 (s : State) (c : ChId) (p : Path) (o : Nat) (v : Dword) : State :=
  match pinOff o with
  | some g => if pinPath (s.reg (TRG_CFG ((g - 0x3302000) / 64))) 1 5 (.csr c) then s.glStore64 p g v else s
  | none =>
    if !s.chAccepts c p o || s.hostFirst c p o then s
    else
      let s := s.noteHost c p o
      let v := if o == BARO_BASE then v &&& 0xFFFFFFFFFFFFFFC0 else v
      match chRow o with
      | some r => if r.ro then s else s.modChan c (fun x => x.setReg64 o (v &&& BitVec.ofNat 64 r.rw))
      | none => s

/-- The staging words of a path's channel accesses. -/
def Channel.stages (x : Channel) (p : Path) : Sparse Nat := match p with | .host => x.stage | .csr _ => x.ownStage
/-- The staging words of a path's channel accesses, set. -/
def Channel.setStages (x : Channel) (p : Path) (m : Sparse Nat) : Channel :=
  match p with | .host => { x with stage := m } | .csr _ => { x with ownStage := m }
/-- The read latches of a path's channel accesses. -/
def Channel.latches (x : Channel) (p : Path) : Sparse Nat := match p with | .host => x.latch | .csr _ => x.ownLatch
/-- The read latches of a path's channel accesses, set. -/
def Channel.setLatches (x : Channel) (p : Path) (m : Sparse Nat) : Channel :=
  match p with | .host => { x with latch := m } | .csr _ => { x with ownLatch := m }

/-- A word as a staging word or latch holds it. -/
def heldWord (v : Word) : Nat := v.toNat + 0x100000000

/-- The word a staging word or latch holds; none when it is empty. -/
def heldOf (n : Nat) : Option Word := if n == 0 then none else some (BitVec.ofNat 32 n)

/-- Whether a channel window answers (R429): a channel that is out of service keeps its ring-control registers alone.
(DESIGN CHOICE, log entry 18.) -/
def State.chServes (s : State) (c : ChId) (o : Nat) : Bool := s.live c || ringCtl.contains o

/-- A write of a word of a channel window on a path (R11): the low word of a pair is staged, the high word takes effect with
it. The pair of a pin that the host also reaches in the common block has a staging word per address. (DESIGN CHOICE, log
entry 52.) -/
def State.chWrite (s : State) (c : ChId) (p : Path) (o : Nat) (v : Word) : State :=
  if !s.live c && o != CH_CPL_CONS then s
  else match pairOf (winRow o) with
    | none => s.chStore c p o v
    | some false => s.modChan c (fun x => x.setStages p (sset 0 (x.stages p) o (heldWord v)))
    | some true =>
      let l := o - 4
      let x := s.chan c
      let lo := (heldOf (sget 0 (x.stages p) l)).getD (s.chView c l)
      let s := s.setChan c (x.setStages p (sset 0 (x.stages p) l 0))
      s.chStore64 c p l (v ++ lo)

/-- A write of a word of the common block by the host (R11). -/
def State.glWrite (s : State) (o : Nat) (v : Word) : State :=
  match pairOf (glRow o, o) with
  | none => s.glStore .host o v
  | some false => { s with stage := sset 0 s.stage o (heldWord v) }
  | some true =>
    let l := o - 4
    let lo := (heldOf (sget 0 s.stage l)).getD (s.glView l)
    { s with stage := sset 0 s.stage l 0 }.glStore64 .host l (v ++ lo)

/-! ## One read of a word (R11) -/

/-- What a read of a word does beside returning it: the host's read of CH_SIG, and a read of SEQ_PM_DATA's high word. -/
def Channel.readAct (x : Channel) (p : Path) (o : Nat) : Channel :=
  if o == SEQ_PM_DATA + 4 then x.pmNext
  else if o == CH_SIG then
    match p with
    | .host => x.modCmd (fun d => { d with sigUnread := false })
    | .csr _ => x
  else x

/-- A read of a word of a channel window on a path (R11): a pair's low word loads the latch with the high word, its high word
is taken from the latch while that is loaded. The pair of a pin that the host also reaches in the common block has a latch per
address. (DESIGN CHOICE, log entry 52.) -/
def State.chRead (s : State) (c : ChId) (p : Path) (o : Nat) : Word × State :=
  if !s.chServes c o then (0, s)
  else
    let x := s.chan c
    match pairOf (winRow o) with
    | none => (s.chView c o, s.setChan c (x.readAct p o))
    | some false => (s.chView c o, s.setChan c (x.setLatches p (sset 0 (x.latches p) o (heldWord (s.chView c (o + 4))))))
    | some true =>
      let v := (heldOf (sget 0 (x.latches p) (o - 4))).getD (s.chView c o)
      (v, s.setChan c ((x.setLatches p (sset 0 (x.latches p) (o - 4) 0)).readAct p o))

/-- A read of a word of the common block by the host (R11, R383). -/
def State.glRead (s : State) (o : Nat) : Word × State :=
  match pairOf (glRow o, o) with
  | none => (s.glView o, if o == TIME_NS then s.latchTime else s)
  | some false => (s.glView o, { s with latch := sset 0 s.latch o (heldWord (s.glView (o + 4))) })
  | some true =>
    ((heldOf (sget 0 s.latch (o - 4))).getD (s.glView o), { s with latch := sset 0 s.latch (o - 4) 0 })

end Sys2Proof.Machine
end

