-- ==== Sys2Proof/Machine/Host.lean ====
section
/-!
DEFINITION. The host port (R93, R445 to R452): register accesses by address, the apertures, broadcast and groups, and the
requests it turns away.
-/

namespace Sys2Proof.Machine

open Sys2Proof

/-! ## Errors -/

/-- A bit of GLB_HOSTERR is set, and vector 46 signalled (R453, R455). -/
def State.hostErr (s : State) (k : Nat) : State := (s.orReg GLB_HOSTERR (BitVec.ofNat 32 (2 ^ k))).cause 46

/-- Where a BAR0 offset lies (R448). -/
inductive Window where
  | chan (ch : ChId) (o : Nat)
  | group (g : Option (Fin 8)) (o : Nat)
  | common
deriving DecidableEq, Repr

/-- The window of a BAR0 offset. -/
def windowOf (a : Nat) : Window :=
  let k := a / 0x200000
  if k < 16 then .chan (Fin.ofNat 16 k) (a % 0x200000)
  else if k == 16 then .group none (a % 0x200000)
  else if k < 25 then .group (some (Fin.ofNat 8 (k - 17))) (a % 0x200000)
  else .common

/-! ## Broadcast and groups (R452) -/

/-- The members a window reaches: live and not fenced. -/
def State.members (s : State) (g : Option (Fin 8)) : List ChId :=
  (List.finRange 16).filter (fun c => s.live c && !(s.chan c).fenced &&
    (match g with | none => true | some g => s.bit (GLB_GROUP g.val) c.val))

/-- A write through the broadcast window or a group window. -/
def State.bcastWrite (s : State) (g : Option (Fin 8)) (o : Nat) (v : Word) : State :=
  let l := s.members g
  if l.isEmpty then s.hostErr 3 else l.foldl (fun (t : State) c => t.chWrite c .host o v) s

/-- Reads a register in each member. -/
def readMembers (o : Nat) : List ChId → State → List (ChId × Word) × State
  | [], s => ([], s)
  | c :: r, s =>
    let q := s.chRead c .host o
    let t := readMembers o r q.2
    ((c, q.1) :: t.1, t.2)

/-- A read through either window: the value of the lowest member, and GLB_BCAST_DIFF. -/
def State.bcastRead (s : State) (g : Option (Fin 8)) (o : Nat) : Word × State :=
  let q := readMembers o (s.members g) s
  match q.1 with
  | [] => (0xFFFFFFFF, s.hostErr 3)
  | (c, w) :: r =>
    let diff := fields (((c, w) :: r).map (fun e => (b2n (e.2 != w), e.1.val)))
    (w, q.2.setReg GLB_BCAST_DIFF diff)

/-! ## Register accesses by address -/

/-- A host write of an aligned word of BAR0. -/
def State.bar0Write (s : State) (a : Nat) (v : Word) : State :=
  match windowOf a with
  | .chan c o => s.chWrite c .host o v
  | .group g o => s.bcastWrite g o v
  | .common => s.glWrite a v

/-- A host read of an aligned word of BAR0. -/
def State.bar0Read (s : State) (a : Nat) : Word × State :=
  match windowOf a with
  | .chan c o => s.chRead c .host o
  | .group g o => s.bcastRead g o
  | .common => s.glRead a

/-- Whether a word is a pair's low (`some false`) or high word, on a path: a BAR0 offset for the host, a window offset for
SYS.CSR. -/
def pairAt (p : Path) (a : Nat) : Option Bool :=
  match p with
  | .csr _ => pairOf (winRow a)
  | .host =>
    match windowOf a with
    | .chan _ o => pairOf (winRow o)
    | .group _ o => pairOf (winRow o)
    | .common => pairOf (glRow a, a)

/-- A write of an aligned word on a path. (DESIGN CHOICE, log entry 17.) -/
def State.pathWrite (s : State) (p : Path) (a : Nat) (v : Word) : State :=
  match p with
  | .csr c => s.chWrite c p a v
  | .host => s.atPort (fun s => s.bar0Write a v)

/-- The bytes of a word that a request enables, in ascending order (R450). -/
def enabledBytes (r : RdAt) (w : Word) : List Byte :=
  ((List.range 4).filter r.be.getLsbD).map (fun k => w.extractLsb' (8 * k) 8)

/-- A read of an aligned word on a path: the whole register is read, and the host gets the bytes that its request enables (R450).
(DESIGN CHOICE, log entry 17.) -/
def State.pathRead (s : State) (p : Path) (r : RdAt) : State :=
  match p with
  | .csr c => (s.chRead c p r.addr.toNat).2
  | .host => s.atPort (fun s => let q := s.bar0Read r.addr.toNat; q.2.reply .ok (enabledBytes r q.1))

/-- A read of a pair's low word (R11), or of a register that is no pair, which an access of 4 bytes reads (R450); nothing at a
pair's high word. -/
def execPairLowRead (p : Path) (r : RdAt) (s : State) : Out :=
  .next (if r.addr.toNat % 4 == 0 && pairAt p r.addr.toNat != some true then s.pathRead p r else s)

/-- A read of a pair's high word (R11). -/
def execPairHighRead (p : Path) (r : RdAt) (s : State) : Out :=
  .next (if r.addr.toNat % 4 == 0 && pairAt p r.addr.toNat == some true then s.pathRead p r else s)

/-- A write of a pair's low word (R11). -/
def execPairLowWrite (p : Path) (a : BitVec 26) (v : Word) (s : State) : Out :=
  .next (if a.toNat % 4 == 0 && pairAt p a.toNat == some false then s.pathWrite p a.toNat v else s)

/-- A write of a pair's high word (R11). -/
def execPairHighWrite (p : Path) (a : BitVec 26) (v : Word) (s : State) : Out :=
  .next (if a.toNat % 4 == 0 && pairAt p a.toNat == some true then s.pathWrite p a.toNat v else s)

/-- A write of a register (R13); a pair's words have commands of their own, but are written here as well. -/
def execRegisterWrite (p : Path) (a : BitVec 26) (v : Word) (s : State) : Out :=
  .next (if a.toNat % 4 == 0 then s.pathWrite p a.toNat v else s)

/-- A write of SEQ_PM_ADDR (R37). -/
def execSeqPmAddrWrite (ch : ChId) (v : Word) (s : State) : Out := .next (s.modChan ch (fun x => x.pmAddr v))

/-- The host reads SEQ_PM_DATA's high word (R37). -/
def execSeqPmDataHighRead (ch : ChId) (s : State) : Out :=
  .next (s.atPort (fun s => let q := s.chRead ch .host (SEQ_PM_DATA + 4); q.2.reply .ok (leBytes 4 q.1.toNat)))

/-- The host reads CH_SIG (R50). -/
def execChSigRead (ch : ChId) (s : State) : Out :=
  .next (s.atPort (fun s => let q := s.chRead ch .host CH_SIG; q.2.reply .ok (leBytes 4 q.1.toNat)))

/-- TIME_NS read over the host port (R383); no channel window holds it. -/
def execTimeNsRead (p : Path) (s : State) : Out :=
  .next (match p with
    | .host => s.atPort (fun s => let q := s.glRead TIME_NS; q.2.reply .ok (leBytes 4 q.1.toNat))
    | .csr _ => s)

/-- A BAR0 write with 1 to 3 bytes enabled is discarded (R450). -/
def execBar0PartialWrite (a : BitVec 26) (v : Word) (s : State) : Out :=
  .next (s.atPort (fun s => let _ := (a, v); s.hostErr 0))

/-- A BAR0 request over 8 B, or crossing an 8-byte boundary (R450). -/
def execBar0OversizeAccess (a : BitVec 26) (rd : Bool) (s : State) : Out :=
  .next (s.atPort (fun s =>
    let _ := a
    let s := s.hostErr 1
    if rd then s.reply .abort [] else s))

/-- A host write of a word of a steering entry (R449). -/
def execSteeringEntryWrite (e : Fin 64) (w : Fin 4) (v : Word) (s : State) : Out :=
  .next (s.atPort (fun s => s.steerWrite e.val w.val v))

/-- A write through the broadcast window, or a group window (R452). -/
def execBroadcastWrite (g : Option (Fin 8)) (o : BitVec 21) (v : Word) (s : State) : Out :=
  .next (if o.toNat % 4 == 0 then s.atPort (fun s => s.bcastWrite g o.toNat v) else s)

/-- A read through the broadcast window, or a group window (R452). -/
def execBroadcastRead (g : Option (Fin 8)) (o : BitVec 21) (s : State) : Out :=
  .next (if o.toNat % 4 == 0 then
    s.atPort (fun s => let q := s.bcastRead g o.toNat; q.2.reply .ok (leBytes 4 q.1.toNat)) else s)

/-! ## The apertures (R93, R447) -/

/-- Whether a channel's apertures answer: it is live and not fenced. -/
def State.apOpen (s : State) (c : ChId) : Bool := s.live c && !(s.chan c).fenced

/-- Bytes of ones. -/
def ones (n : Nat) : List Byte := List.replicate n 0xFF

/-- A read of a channel's scratchpad through BAR2 (R93): an uncorrectable codeword completes poisoned and raises the channel's
checker event. (DESIGN CHOICE, log entry 22.) -/
def execBar2Read (ch : ChId) (a : BitVec 25) (n : Nat) (s : State) : Out :=
  .next (s.atPort (fun s =>
    let n := min n (0x2000000 - a.toNat)
    if !s.apOpen ch then s.reply .ok (ones n)
    else
      let q := (s.chan ch).spadRead a.toNat n
      (s.setChan ch q.2.1).reply (if q.2.2 then .poisoned else .ok) q.1))

/-- A write of a channel's scratchpad through BAR2 (R93). (DESIGN CHOICE, log entry 22.) -/
def execBar2Write (ch : ChId) (a : BitVec 25) (data : List Byte) (s : State) : Out :=
  .next (s.atPort (fun s =>
    if !s.apOpen ch then s else s.modChan ch (fun x => x.spadWrite a.toNat (data.take (0x2000000 - a.toNat)))))

/-- The DRAM address behind an offset in a BAR4 window (R447); none beyond the window. (DESIGN CHOICE, log entry 22.) -/
def State.bar4Addr (s : State) (c : ChId) (a : Nat) : Option Nat :=
  if a < s.bar4W then some (getField (s.reg (GLB_B4OFF c.val)) 8 0 * 0x1000000 + a) else none

/-- A read of a channel's DRAM through BAR4 (R447); while a refresh holds the queue it is not served (R500).
(DESIGN CHOICE, log entries 22 and 29.) -/
def execBar4Read (ch : ChId) (a : BitVec 33) (n : Nat) (s : State) : Out :=
  .next (s.atPort (fun s =>
    match s.bar4Addr ch a.toNat with
    | none => s
    | some d =>
      if !s.apOpen ch then s.reply .ok (ones n)
      else if !(s.chan ch).dramOk d n || (s.chan ch).dramTop ≤ d then (s.hostErr 2).reply .ok (ones n)
      else if (s.chan ch).dramHeld then s
      else
        let q := (s.chan ch).dramTurn.dramRead d n
        (s.setChan ch q.2.1).reply (if q.2.2 then .poisoned else .ok) q.1))

/-- A write of a channel's DRAM through BAR4 (R447). (DESIGN CHOICE, log entry 22.) -/
def execBar4Write (ch : ChId) (a : BitVec 33) (data : List Byte) (s : State) : Out :=
  .next (s.atPort (fun s =>
    match s.bar4Addr ch a.toNat with
    | none => s
    | some d =>
      if !s.apOpen ch then s
      else if !(s.chan ch).dramOk d data.length || (s.chan ch).dramTop ≤ d then s.hostErr 2
      else s.modChan ch (fun x => x.dramPost d data)))

/-- A poisoned TLP written to BAR2 or BAR4 is discarded and reported, as a non-fatal error in AER (R447): the bit of its status is
that of the PCI Express Base Specification. (PRESUMED, log entry 22.) -/
def execPoisonedTlpWrite (s : State) : Out :=
  .next (s.atPort (fun s => { s.hostErr 4 with sup := { s.sup with aer := s.sup.aer ||| 0x1000 } }))

/-! ## Identity (R445) -/

/-- Vendor and device ID: the device ID is the grade. -/
def State.pciId (s : State) : Word := (s.reg GLB_ID).extractLsb' 0 16 ++ (0x1F3E : BitVec 16)

/-- Class code and revision ID. -/
def pciClass : Word := 0x120000A1

end Sys2Proof.Machine
end

