-- ==== Sys2Proof/Machine/Sys.lean ====
section
/-!
DEFINITION. The SYS instructions (R47, R49, R50, R342, R345, R354).
(DESIGN CHOICE, log entry 16.)
-/

namespace Sys2Proof.Machine

open Sys2Proof

/-- SYS.TIME: s[SD] = the present time base in short time. -/
def execSysTime (ch : ChId) (f : FmtS) (s : State) : Out :=
  .next (issueS s ch 0xD0 f (f.sa == 0 && okNoB f && f.mod == 0) (fun s => seqDone s ch (fun q => q.ws f.sd s.now)))

/-- SYS.EPOCH (R342): s[SD] = the epoch in force. -/
def execSysEpoch (ch : ChId) (f : FmtS) (s : State) : Out :=
  .next (issueS s ch 0xD1 f (f.sa == 0 && okNoB f && f.mod == 0) (fun s =>
    seqDone s ch (fun q => q.ws f.sd (((s.chan ch).reg ALM_EPOCH).zeroExtend 64))))

/-- SYS.SEED (R30): the generator key = s[SA]. -/
def execSysSeed (ch : ChId) (f : FmtS) (s : State) : Out :=
  .next (issueS s ch 0xD2 f (f.sd == 0 && okNoB f && f.mod == 0) (fun s =>
    seqDone s ch (fun q => { q with key := q.rs f.sa })))

/-- Whether a SYS.CSR access raises CSR: an offset in the control sub-block, or a write of an RO register (R49).
(DESIGN CHOICE, log entry 16.) -/
def csrBad (o : Nat) (write : Bool) : Bool :=
  decide (o < 0x10000) ||
    (write && ((0x1C4000 ≤ o && o < 0x1C4400) || (match (winRow o).1 with | some r => r.ro | none => false)))

/-- The causes of a SYS.CSR access (R49). -/
def csrCauses (o : Nat) (write : Bool) : List (Bool × Exc) := [(o % 4 != 0, .align), (csrBad o write, .csr)]

/-- An RO register that a window does not show: a cascade port's in a channel without one, a pin's while it is not bound to
the channel. A write of it is ignored (R380, R388). -/
def State.csrHidden (s : State) (c : ChId) (o : Nat) : Bool :=
  (0xB0100 ≤ o && o < 0xB0128 && !ownsPort c) ||
    (match pinOff o with
     | some g =>
       if g < 0x3302000 then !pinPath (s.reg (TCAP_CFG ((g - 0x3301000) / 32))) 2 6 (.csr c)
       else !pinPath (s.reg (TRG_CFG ((g - 0x3302000) / 64))) 1 5 (.csr c)
     | none => false)

/-- The form with the direction MOD[0] the row names; the reserved bits MOD[3:1] stay (R49). -/
def withDir (f : FmtS) (wr : Bool) : FmtS := { f with mod := setBit f.mod 0 wr }

/-- SYS.CSR with MOD = 0 (R49): a register of the channel's window, zero-extended, to s[SD]. -/
def execSysCsrRead (ch : ChId) (f : FmtS) (s : State) : Out :=
  .next (
    let f := withDir f false
    issueS s ch 0xD3 f (f.mod.toNat < 2 && f.sa == 0 && f.sb == 0 && !f.i && decide (f.imm.toNat < 0x200000)) (fun s =>
      guarded (csrCauses f.imm.toNat false) (
        let q := s.chRead ch (.csr ch) f.imm.toNat
        seqDone q.2 ch (fun y => y.ws f.sd (q.1.zeroExtend 64)))))

/-- SYS.CSR with MOD = 1 (R49): s[SB][31:0] to a register of the channel's window. -/
def execSysCsrWrite (ch : ChId) (f : FmtS) (s : State) : Out :=
  .next (
    let f := withDir f true
    issueS s ch 0xD3 f (f.mod.toNat < 2 && f.sd == 0 && f.sa == 0 && !f.i && decide (f.imm.toNat < 0x200000)) (fun s =>
      let o := f.imm.toNat
      guarded (csrCauses o (!s.csrHidden ch o)) (
        if s.csrHidden ch o then .done s
        else .done (s.chWrite ch (.csr ch) o (((s.chan ch).seq.rs f.sb).extractLsb' 0 32)))))

/-- SYS.SIG (R50): CH_SIG takes the value, and the completion vector is signalled when enabled (R63); a value the host has not
read is overwritten and sets SIG_OVF. -/
def execSysSig (ch : ChId) (f : FmtS) (s : State) : Out :=
  .next (issueS s ch 0xD4 f (f.sd == 0 && okNoB f && f.mod == 0) (fun s =>
    let x := s.chan ch
    let s := if x.cmd.sigUnread then s.chError ch 0x100 else s
    let s := s.modChan ch (fun x =>
      (x.setReg CH_SIG ((x.seq.rs f.sa).extractLsb' 0 32)).modCmd (fun d => { d with sigUnread := true }))
    .done (if x.bit CH_CTRL 1 then s.signal (2 * ch.val) else s)))

/-- SYS.TRAP (R64): raises TRAP. -/
def execSysTrap (ch : ChId) (f : FmtS) (s : State) : Out :=
  .next (issueS s ch 0xD5 f (f.sd == 0 && f.sa == 0 && okNoB f && f.mod == 0) (fun _ => .exc .trap))

/-- SYS.MARK (R354): the identifier IMM and the ac of the run. -/
def execSysMark (ch : ChId) (f : FmtS) (s : State) : Out :=
  .next (issueS s ch 0xD6 f (f.sd == 0 && f.sa == 0 && f.sb == 0 && !f.i && f.mod == 0) (fun s =>
    .done (s.modChan ch (fun x => x.modRun (fun r => { r with mark := f.imm, markAc := r.acs })))))

/-- SYS.FREEZE (R345): a freeze point. -/
def execSysFreeze (ch : ChId) (f : FmtS) (s : State) : Out :=
  .next (issueS s ch 0xD7 f (f.sd == 0 && f.sa == 0 && okNoB f && f.mod == 0) (fun s =>
    .went ((s.modChan ch (fun x => x.modSeq (fun q => q.step q.pc))).freezePoint ch)))

end Sys2Proof.Machine
end

