-- ==== Sys2Proof/Machine/Dispatch.lean ====
section
/-!
DEFINITION. The dispatch of a command to its meaning: one arm per row of the opcode table.
-/

namespace Sys2Proof.Machine

open Sys2Proof

/-- The effect of a command on everything but the queue. -/
def exec (i : Instr) (s : State) : Host.Outcome State Fault Refusal :=
  match i with
  | .nop ch f => Sys2Proof.Machine.execNop ch f s
  | .undefinedOpcode ch w => Sys2Proof.Machine.execUndefinedOpcode ch w s
  | .scalarAdd ch f => Sys2Proof.Machine.execScalarAdd ch f s
  | .scalarSub ch f => Sys2Proof.Machine.execScalarSub ch f s
  | .scalarMul ch f => Sys2Proof.Machine.execScalarMul ch f s
  | .scalarMulh ch f => Sys2Proof.Machine.execScalarMulh ch f s
  | .scalarAnd ch f => Sys2Proof.Machine.execScalarAnd ch f s
  | .scalarOr ch f => Sys2Proof.Machine.execScalarOr ch f s
  | .scalarXor ch f => Sys2Proof.Machine.execScalarXor ch f s
  | .scalarShl ch f => Sys2Proof.Machine.execScalarShl ch f s
  | .scalarShr ch f => Sys2Proof.Machine.execScalarShr ch f s
  | .scalarSra ch f => Sys2Proof.Machine.execScalarSra ch f s
  | .scalarMin ch f => Sys2Proof.Machine.execScalarMin ch f s
  | .scalarMax ch f => Sys2Proof.Machine.execScalarMax ch f s
  | .scalarCmp ch f => Sys2Proof.Machine.execScalarCmp ch f s
  | .scalarPlog ch f => Sys2Proof.Machine.execScalarPlog ch f s
  | .scalarLui ch f => Sys2Proof.Machine.execScalarLui ch f s
  | .scalarLd ch f => Sys2Proof.Machine.execScalarLd ch f s
  | .scalarSt ch f => Sys2Proof.Machine.execScalarSt ch f s
  | .scalarAdda ch f => Sys2Proof.Machine.execScalarAdda ch f s
  | .scalarMova ch f => Sys2Proof.Machine.execScalarMova ch f s
  | .scalarBit ch f => Sys2Proof.Machine.execScalarBit ch f s
  | .branchJmp ch f => Sys2Proof.Machine.execBranchJmp ch f s
  | .branchBc ch f => Sys2Proof.Machine.execBranchBc ch f s
  | .branchLoop ch f => Sys2Proof.Machine.execBranchLoop ch f s
  | .branchRep ch f => Sys2Proof.Machine.execBranchRep ch f s
  | .branchCall ch f => Sys2Proof.Machine.execBranchCall ch f s
  | .branchRet ch f => Sys2Proof.Machine.execBranchRet ch f s
  | .branchEnd ch f => Sys2Proof.Machine.execBranchEnd ch f s
  | .vectorAdd ch f => Sys2Proof.Machine.execVectorAdd ch f s
  | .vectorSub ch f => Sys2Proof.Machine.execVectorSub ch f s
  | .vectorMul ch f => Sys2Proof.Machine.execVectorMul ch f s
  | .vectorFma ch f => Sys2Proof.Machine.execVectorFma ch f s
  | .vectorMin ch f => Sys2Proof.Machine.execVectorMin ch f s
  | .vectorMax ch f => Sys2Proof.Machine.execVectorMax ch f s
  | .vectorLogic ch f => Sys2Proof.Machine.execVectorLogic ch f s
  | .vectorShift ch f => Sys2Proof.Machine.execVectorShift ch f s
  | .vectorCvt ch f => Sys2Proof.Machine.execVectorCvt ch f s
  | .vectorExp ch f => Sys2Proof.Machine.execVectorExp ch f s
  | .vectorRcp ch f => Sys2Proof.Machine.execVectorRcp ch f s
  | .vectorRsq ch f => Sys2Proof.Machine.execVectorRsq ch f s
  | .vectorRmax ch f => Sys2Proof.Machine.execVectorRmax ch f s
  | .vectorRsum ch f => Sys2Proof.Machine.execVectorRsum ch f s
  | .vectorCmp ch f => Sys2Proof.Machine.execVectorCmp ch f s
  | .vectorSel ch f => Sys2Proof.Machine.execVectorSel ch f s
  | .vectorLd ch f => Sys2Proof.Machine.execVectorLd ch f s
  | .vectorSt ch f => Sys2Proof.Machine.execVectorSt ch f s
  | .vectorBcast ch f => Sys2Proof.Machine.execVectorBcast ch f s
  | .vectorQshift ch f => Sys2Proof.Machine.execVectorQshift ch f s
  | .vectorQuant ch f => Sys2Proof.Machine.execVectorQuant ch f s
  | .vectorPerm ch f => Sys2Proof.Machine.execVectorPerm ch f s
  | .vectorExtr ch f => Sys2Proof.Machine.execVectorExtr ch f s
  | .tileLoad ch f => Sys2Proof.Machine.execTileLoad ch f s
  | .tileMacI8 ch f => Sys2Proof.Machine.execTileMacI8 ch f s
  | .tileMacI4 ch f => Sys2Proof.Machine.execTileMacI4 ch f s
  | .tileMacCb ch f => Sys2Proof.Machine.execTileMacCb ch f s
  | .tileMacF8 ch f => Sys2Proof.Machine.execTileMacF8 ch f s
  | .tileMacBf16 ch f => Sys2Proof.Machine.execTileMacBf16 ch f s
  | .tileDrain ch f => Sys2Proof.Machine.execTileDrain ch f s
  | .tileZero ch f => Sys2Proof.Machine.execTileZero ch f s
  | .tileAccrd ch f => Sys2Proof.Machine.execTileAccrd ch f s
  | .tileAccwr ch f => Sys2Proof.Machine.execTileAccwr ch f s
  | .convWin ch f => Sys2Proof.Machine.execConvWin ch f s
  | .convWino ch f => Sys2Proof.Machine.execConvWino ch f s
  | .convDw ch f => Sys2Proof.Machine.execConvDw ch f s
  | .convPool ch f => Sys2Proof.Machine.execConvPool ch f s
  | .convHaloArm ch f => Sys2Proof.Machine.execConvHaloArm ch f s
  | .convHaloDisarm ch f => Sys2Proof.Machine.execConvHaloDisarm ch f s
  | .attnPage ch f => Sys2Proof.Machine.execAttnPage ch f s
  | .attnAppend ch f => Sys2Proof.Machine.execAttnAppend ch f s
  | .attnRef ch f => Sys2Proof.Machine.execAttnRef ch f s
  | .attnPin ch f => Sys2Proof.Machine.execAttnPin ch f s
  | .attnCow ch f => Sys2Proof.Machine.execAttnCow ch f s
  | .attnSeqCreate ch f => Sys2Proof.Machine.execAttnSeqCreate ch f s
  | .attnSeqFork ch f => Sys2Proof.Machine.execAttnSeqFork ch f s
  | .attnSeqRelease ch f => Sys2Proof.Machine.execAttnSeqRelease ch f s
  | .attnTable ch f => Sys2Proof.Machine.execAttnTable ch f s
  | .scanStep ch f => Sys2Proof.Machine.execScanStep ch f s
  | .scanNorm ch f => Sys2Proof.Machine.execScanNorm ch f s
  | .scanSlotAssign ch f => Sys2Proof.Machine.execScanSlotAssign ch f s
  | .scanSlotRelease ch f => Sys2Proof.Machine.execScanSlotRelease ch f s
  | .scanSlotFreezeOut ch f => Sys2Proof.Machine.execScanSlotFreezeOut ch f s
  | .scanSlotThaw ch f => Sys2Proof.Machine.execScanSlotThaw ch f s
  | .scanInit ch f => Sys2Proof.Machine.execScanInit ch f s
  | .moveFront ch f => Sys2Proof.Machine.execMoveFront ch f s
  | .moveFcancel ch f => Sys2Proof.Machine.execMoveFcancel ch f s
  | .moveDma ch f => Sys2Proof.Machine.execMoveDma ch f s
  | .movePlist ch f => Sys2Proof.Machine.execMovePlist ch f s
  | .moveRing ch f => Sys2Proof.Machine.execMoveRing ch f s
  | .moveAg ch f => Sys2Proof.Machine.execMoveAg ch f s
  | .moveRs ch f => Sys2Proof.Machine.execMoveRs ch f s
  | .moveAgA ch f => Sys2Proof.Machine.execMoveAgA ch f s
  | .moveRsA ch f => Sys2Proof.Machine.execMoveRsA ch f s
  | .moveHalo ch f => Sys2Proof.Machine.execMoveHalo ch f s
  | .moveRdesc ch f => Sys2Proof.Machine.execMoveRdesc ch f s
  | .moveRadv ch f => Sys2Proof.Machine.execMoveRadv ch f s
  | .syncWait ch f => Sys2Proof.Machine.execSyncWait ch f s
  | .syncTime ch f => Sys2Proof.Machine.execSyncTime ch f s
  | .syncBar ch f => Sys2Proof.Machine.execSyncBar ch f s
  | .syncFence ch f => Sys2Proof.Machine.execSyncFence ch f s
  | .syncBatch ch f => Sys2Proof.Machine.execSyncBatch ch f s
  | .servoSet ch f => Sys2Proof.Machine.execServoSet ch f s
  | .servoRd ch f => Sys2Proof.Machine.execServoRd ch f s
  | .servoLearn ch f => Sys2Proof.Machine.execServoLearn ch f s
  | .busSend ch f => Sys2Proof.Machine.execBusSend ch f s
  | .busCancel ch f => Sys2Proof.Machine.execBusCancel ch f s
  | .sysTime ch f => Sys2Proof.Machine.execSysTime ch f s
  | .sysEpoch ch f => Sys2Proof.Machine.execSysEpoch ch f s
  | .sysSeed ch f => Sys2Proof.Machine.execSysSeed ch f s
  | .sysCsrRead ch f => Sys2Proof.Machine.execSysCsrRead ch f s
  | .sysCsrWrite ch f => Sys2Proof.Machine.execSysCsrWrite ch f s
  | .sysSig ch f => Sys2Proof.Machine.execSysSig ch f s
  | .sysTrap ch f => Sys2Proof.Machine.execSysTrap ch f s
  | .sysMark ch f => Sys2Proof.Machine.execSysMark ch f s
  | .sysFreeze ch f => Sys2Proof.Machine.execSysFreeze ch f s
  | .commandStopDrain ch => Sys2Proof.Machine.execCommandStopDrain ch s
  | .chCmdTailWrite ch v => Sys2Proof.Machine.execChCmdTailWrite ch v s
  | .recordFetch ch => Sys2Proof.Machine.execRecordFetch ch s
  | .recordArrival ch => Sys2Proof.Machine.execRecordArrival ch s
  | .journalWriteDone ch => Sys2Proof.Machine.execJournalWriteDone ch s
  | .commandStart ch => Sys2Proof.Machine.execCommandStart ch s
  | .kindRun ch => Sys2Proof.Machine.execKindRun ch s
  | .kindLoadProg ch => Sys2Proof.Machine.execKindLoadProg ch s
  | .kindLoadAlm ch => Sys2Proof.Machine.execKindLoadAlm ch s
  | .switchNext ch => Sys2Proof.Machine.execSwitchNext ch s
  | .switchTimed ch => Sys2Proof.Machine.execSwitchTimed ch s
  | .switchStop ch => Sys2Proof.Machine.execSwitchStop ch s
  | .switchDisarm ch => Sys2Proof.Machine.execSwitchDisarm ch s
  | .kindMark ch => Sys2Proof.Machine.execKindMark ch s
  | .kindThaw ch => Sys2Proof.Machine.execKindThaw ch s
  | .budgetStop ch => Sys2Proof.Machine.execBudgetStop ch s
  | .commandCommit ch => Sys2Proof.Machine.execCommandCommit ch s
  | .chCplConsWrite ch v => Sys2Proof.Machine.execChCplConsWrite ch v s
  | .fetchEnable ch v => Sys2Proof.Machine.execFetchEnable ch v s
  | .seqPmAddrWrite ch v => Sys2Proof.Machine.execSeqPmAddrWrite ch v s
  | .seqPmDataHighRead ch => Sys2Proof.Machine.execSeqPmDataHighRead ch s
  | .chSigRead ch => Sys2Proof.Machine.execChSigRead ch s
  | .pairLowRead p r => Sys2Proof.Machine.execPairLowRead p r s
  | .pairHighRead p r => Sys2Proof.Machine.execPairHighRead p r s
  | .pairLowWrite p a v => Sys2Proof.Machine.execPairLowWrite p a v s
  | .pairHighWrite p a v => Sys2Proof.Machine.execPairHighWrite p a v s
  | .registerWrite p a v => Sys2Proof.Machine.execRegisterWrite p a v s
  | .bar0PartialWrite a v => Sys2Proof.Machine.execBar0PartialWrite a v s
  | .bar0OversizeAccess a rd => Sys2Proof.Machine.execBar0OversizeAccess a rd s
  | .bar2Read ch a n => Sys2Proof.Machine.execBar2Read ch a n s
  | .bar2Write ch a data => Sys2Proof.Machine.execBar2Write ch a data s
  | .bar4Read ch a n => Sys2Proof.Machine.execBar4Read ch a n s
  | .bar4Write ch a data => Sys2Proof.Machine.execBar4Write ch a data s
  | .poisonedTlpWrite => Sys2Proof.Machine.execPoisonedTlpWrite s
  | .broadcastWrite g o v => Sys2Proof.Machine.execBroadcastWrite g o v s
  | .broadcastRead g o => Sys2Proof.Machine.execBroadcastRead g o s
  | .steeringEntryWrite e w v => Sys2Proof.Machine.execSteeringEntryWrite e w v s
  | .partialWriteMerge ch bank => Sys2Proof.Machine.execPartialWriteMerge ch bank s
  | .drizzleWriteback ch => Sys2Proof.Machine.execDrizzleWriteback ch s
  | .drizzleSweepVisit ch => Sys2Proof.Machine.execDrizzleSweepVisit ch s
  | .accDrizzleRewrite ch arr => Sys2Proof.Machine.execAccDrizzleRewrite ch arr s
  | .dramRequestServe ch => Sys2Proof.Machine.execDramRequestServe ch s
  | .dramRefresh ch rank1 hot => Sys2Proof.Machine.execDramRefresh ch rank1 hot s
  | .frontStreamTake ch => Sys2Proof.Machine.execFrontStreamTake ch s
  | .frontStepIssue ch stream => Sys2Proof.Machine.execFrontStepIssue ch stream s
  | .frontBurstReturn ch => Sys2Proof.Machine.execFrontBurstReturn ch s
  | .frontCancelPoint ch => Sys2Proof.Machine.execFrontCancelPoint ch s
  | .frontCancelComplete ch stream => Sys2Proof.Machine.execFrontCancelComplete ch stream s
  | .dmaContextLoad ch => Sys2Proof.Machine.execDmaContextLoad ch s
  | .dmaTransferStart ch => Sys2Proof.Machine.execDmaTransferStart ch s
  | .dmaTransferComplete ch => Sys2Proof.Machine.execDmaTransferComplete ch s
  | .dmaCtrlEnWrite ch en => Sys2Proof.Machine.execDmaCtrlEnWrite ch en s
  | .dmaDiscardSettled ch => Sys2Proof.Machine.execDmaDiscardSettled ch s
  | .arrayInstrStart ch arr fault => Sys2Proof.Machine.execArrayInstrStart ch arr fault s
  | .windowVerdict ch arr fault => Sys2Proof.Machine.execWindowVerdict ch arr fault s
  | .drainSlotEnter ch arr => Sys2Proof.Machine.execDrainSlotEnter ch arr s
  | .drainComplete ch arr => Sys2Proof.Machine.execDrainComplete ch arr s
  | .convPassComplete ch slot arr fault => Sys2Proof.Machine.execConvPassComplete ch slot arr fault s
  | .haloRowStallEnd ch h => Sys2Proof.Machine.execHaloRowStallEnd ch h s
  | .haloPushReceive ch src dev => Sys2Proof.Machine.execHaloPushReceive ch src dev s
  | .haloPushComplete ch rep => Sys2Proof.Machine.execHaloPushComplete ch rep s
  | .ptuOperation ch => Sys2Proof.Machine.execPtuOperation ch s
  | .cowCopyComplete ch => Sys2Proof.Machine.execCowCopyComplete ch s
  | .ptuCtrlEnWrite ch en => Sys2Proof.Machine.execPtuCtrlEnWrite ch en s
  | .attnInstrComplete ch ptu arr fault => Sys2Proof.Machine.execAttnInstrComplete ch ptu arr fault s
  | .scanFenceRelease ch => Sys2Proof.Machine.execScanFenceRelease ch s
  | .scanInstrComplete ch fault => Sys2Proof.Machine.execScanInstrComplete ch fault s
  | .ringStepReceive ch src bad => Sys2Proof.Machine.execRingStepReceive ch src bad s
  | .ringCreditReturn ch right => Sys2Proof.Machine.execRingCreditReturn ch right s
  | .ringSegmentDead ch right => Sys2Proof.Machine.execRingSegmentDead ch right s
  | .linkOpenWrite ch k v => Sys2Proof.Machine.execLinkOpenWrite ch k v s
  | .ringBlockReceive ch src dev => Sys2Proof.Machine.execRingBlockReceive ch src dev s
  | .moveRingComplete ch rep => Sys2Proof.Machine.execMoveRingComplete ch rep s
  | .collectiveBlockReceive ch src dev bad => Sys2Proof.Machine.execCollectiveBlockReceive ch src dev bad s
  | .collectiveComplete ch tag rep => Sys2Proof.Machine.execCollectiveComplete ch tag rep s
  | .barrierRelease ch => Sys2Proof.Machine.execBarrierRelease ch s
  | .csiFrameStart ch st err => Sys2Proof.Machine.execCsiFrameStart ch st err s
  | .csiImageLine ch st data err => Sys2Proof.Machine.execCsiImageLine ch st data err s
  | .csiFrameEnd ch st err => Sys2Proof.Machine.execCsiFrameEnd ch st err s
  | .csiEmbeddedLine ch st data err => Sys2Proof.Machine.execCsiEmbeddedLine ch st data err s
  | .csiDiscardedPacket ch err => Sys2Proof.Machine.execCsiDiscardedPacket ch err s
  | .intakeRowOutput ch st => Sys2Proof.Machine.execIntakeRowOutput ch st s
  | .ethFrameReceive port frame fcsBad t frac => Sys2Proof.Machine.execEthFrameReceive port frame fcsBad t frac s
  | .batchSubmit ch => Sys2Proof.Machine.execBatchSubmit ch s
  | .jpegDecodeStart ch => Sys2Proof.Machine.execJpegDecodeStart ch s
  | .jpegDecodeComplete ch => Sys2Proof.Machine.execJpegDecodeComplete ch s
  | .jpegDecodeAbandon ch => Sys2Proof.Machine.execJpegDecodeAbandon ch s
  | .batchDeadline ch => Sys2Proof.Machine.execBatchDeadline ch s
  | .slotAssemblyComplete ch => Sys2Proof.Machine.execSlotAssemblyComplete ch s
  | .inHostpostWrite ch st v => Sys2Proof.Machine.execInHostpostWrite ch st v s
  | .inStreamEnWrite ch st en => Sys2Proof.Machine.execInStreamEnWrite ch st en s
  | .servoCtrlEnWrite ch en => Sys2Proof.Machine.execServoCtrlEnWrite ch en s
  | .servoTickStart ch => Sys2Proof.Machine.execServoTickStart ch s
  | .servoEvalStart ch cmp ecc sof => Sys2Proof.Machine.execServoEvalStart ch cmp ecc sof s
  | .servoHandoff ch sof => Sys2Proof.Machine.execServoHandoff ch sof s
  | .learnClearDone ch axis => Sys2Proof.Machine.execLearnClearDone ch axis s
  | .servoSwctlArm ch => Sys2Proof.Machine.execServoSwctlArm ch s
  | .servoSwctlDisarm ch => Sys2Proof.Machine.execServoSwctlDisarm ch s
  | .drvSampleFrame ch kind len frame err => Sys2Proof.Machine.execDrvSampleFrame ch kind len frame err s
  | .drvStsReceive ch sts errs => Sys2Proof.Machine.execDrvStsReceive ch sts errs s
  | .drvCfgEnWrite ch en => Sys2Proof.Machine.execDrvCfgEnWrite ch en s
  | .drvBlockLock ch => Sys2Proof.Machine.execDrvBlockLock ch s
  | .drvLockLoss ch bad => Sys2Proof.Machine.execDrvLockLoss ch bad s
  | .drvTrnReceive ch state role => Sys2Proof.Machine.execDrvTrnReceive ch state role s
  | .drvEchoReceive ch token turn ps => Sys2Proof.Machine.execDrvEchoReceive ch token turn ps s
  | .drvMeasTimeout ch => Sys2Proof.Machine.execDrvMeasTimeout ch s
  | .drvTrainingTimeout ch => Sys2Proof.Machine.execDrvTrainingTimeout ch s
  | .almFrameStart ch => Sys2Proof.Machine.execAlmFrameStart ch s
  | .almEntryOpen ch => Sys2Proof.Machine.execAlmEntryOpen ch s
  | .almFillStart ch => Sys2Proof.Machine.execAlmFillStart ch s
  | .protectedBoundaryCut ch => Sys2Proof.Machine.execProtectedBoundaryCut ch s
  | .standingReportWrite ch => Sys2Proof.Machine.execStandingReportWrite ch s
  | .almSwitchApply ch => Sys2Proof.Machine.execAlmSwitchApply ch s
  | .frzReqWrite ch v => Sys2Proof.Machine.execFrzReqWrite ch v s
  | .freezeTaken ch => Sys2Proof.Machine.execFreezeTaken ch s
  | .freezeImageComplete ch => Sys2Proof.Machine.execFreezeImageComplete ch s
  | .thawRestoreComplete ch => Sys2Proof.Machine.execThawRestoreComplete ch s
  | .glbSyncArmWrite v => Sys2Proof.Machine.execGlbSyncArmWrite v s
  | .glbSyncGoWrite => Sys2Proof.Machine.execGlbSyncGoWrite s
  | .syncInSample => Sys2Proof.Machine.execSyncInSample s
  | .barrierApply => Sys2Proof.Machine.execBarrierApply s
  | .syncOutRelease => Sys2Proof.Machine.execSyncOutRelease s
  | .casCtrlEnWrite ch en => Sys2Proof.Machine.execCasCtrlEnWrite ch en s
  | .casTrnReceive ch state pos port c0 c1 master => Sys2Proof.Machine.execCasTrnReceive ch state pos port c0 c1 master s
  | .casClassReceive ch cls => Sys2Proof.Machine.execCasClassReceive ch cls s
  | .casEchoReceive ch token turn ps => Sys2Proof.Machine.execCasEchoReceive ch token turn ps s
  | .casMeasTimeout ch => Sys2Proof.Machine.execCasMeasTimeout ch s
  | .casTrainingTimeout ch => Sys2Proof.Machine.execCasTrainingTimeout ch s
  | .casPacketReceive ch p err => Sys2Proof.Machine.execCasPacketReceive ch p err s
  | .casPacketDeliver ch => Sys2Proof.Machine.execCasPacketDeliver ch s
  | .casNakReceive ch pseq => Sys2Proof.Machine.execCasNakReceive ch pseq s
  | .casIdleReceive ch ack c0 c1 => Sys2Proof.Machine.execCasIdleReceive ch ack c0 c1 s
  | .casAlignSend ch => Sys2Proof.Machine.execCasAlignSend ch s
  | .casDeadTimeout ch => Sys2Proof.Machine.execCasDeadTimeout ch s
  | .addendPacketReceive => Sys2Proof.Machine.execAddendPacketReceive s
  | .timeAddendWrite v => Sys2Proof.Machine.execTimeAddendWrite v s
  | .timeCmdSet => Sys2Proof.Machine.execTimeCmdSet s
  | .timeCmdArm add step => Sys2Proof.Machine.execTimeCmdArm add step s
  | .timeCmdDisarm => Sys2Proof.Machine.execTimeCmdDisarm s
  | .timedChangeApply => Sys2Proof.Machine.execTimedChangeApply s
  | .timeNsRead p => Sys2Proof.Machine.execTimeNsRead p s
  | .ppsOutStart => Sys2Proof.Machine.execPpsOutStart s
  | .ppsOutEnd => Sys2Proof.Machine.execPpsOutEnd s
  | .tcapEdge pin rising => Sys2Proof.Machine.execTcapEdge pin rising s
  | .tcapPop pin p => Sys2Proof.Machine.execTcapPop pin p s
  | .trgArm t p => Sys2Proof.Machine.execTrgArm t p s
  | .trgCancel t p => Sys2Proof.Machine.execTrgCancel t p s
  | .trgPulseStart t => Sys2Proof.Machine.execTrgPulseStart t s
  | .trgPulseEnd t => Sys2Proof.Machine.execTrgPulseEnd t s
  | .ethTxtailWrite port v => Sys2Proof.Machine.execEthTxtailWrite port v s
  | .ethFrameTransmitted port t frac => Sys2Proof.Machine.execEthFrameTransmitted port t frac s
  | .ethRxtailWrite port v => Sys2Proof.Machine.execEthRxtailWrite port v s
  | .tsqHeadWrite v => Sys2Proof.Machine.execTsqHeadWrite v s
  | .ptpFollowUp port off => Sys2Proof.Machine.execPtpFollowUp port off s
  | .ptpRestepWrite => Sys2Proof.Machine.execPtpRestepWrite s
  | .canModeWrite ch mode => Sys2Proof.Machine.execCanModeWrite ch mode s
  | .canSlotOpen ch => Sys2Proof.Machine.execCanSlotOpen ch s
  | .canSlotClose ch => Sys2Proof.Machine.execCanSlotClose ch s
  | .canArbitration ch => Sys2Proof.Machine.execCanArbitration ch s
  | .canFrameTxEnd ch res tdcv sof => Sys2Proof.Machine.execCanFrameTxEnd ch res tdcv sof s
  | .canFrameReceive ch id fmt data stamp err => Sys2Proof.Machine.execCanFrameReceive ch id fmt data stamp err s
  | .canBusoffRecovery ch => Sys2Proof.Machine.execCanBusoffRecovery ch s
  | .canRxtailWrite ch v p => Sys2Proof.Machine.execCanRxtailWrite ch v p s
  | .checkerEventLatch e => Sys2Proof.Machine.execCheckerEventLatch e s
  | .supervisorDecision ch d => Sys2Proof.Machine.execSupervisorDecision ch d s
  | .deadmanExpiry => Sys2Proof.Machine.execDeadmanExpiry s
  | .channelHeartbeatTimeout ch => Sys2Proof.Machine.execChannelHeartbeatTimeout ch s
  | .supervisorHeartbeatTimeout => Sys2Proof.Machine.execSupervisorHeartbeatTimeout s
  | .wdogNAssert => Sys2Proof.Machine.execWdogNAssert s
  | .clockMonitorTrip => Sys2Proof.Machine.execClockMonitorTrip s
  | .voltageMonitorTrip rail => Sys2Proof.Machine.execVoltageMonitorTrip rail s
  | .overtemperatureTrip => Sys2Proof.Machine.execOvertemperatureTrip s
  | .commandRetry ch => Sys2Proof.Machine.execCommandRetry ch s
  | .channelSafeState ch => Sys2Proof.Machine.execChannelSafeState ch s
  | .deviceSafeState => Sys2Proof.Machine.execDeviceSafeState s
  | .safeReleaseWrite v => Sys2Proof.Machine.execSafeReleaseWrite v s
  | .squallToggle => Sys2Proof.Machine.execSquallToggle s
  | .abortedRecordIssue ch => Sys2Proof.Machine.execAbortedRecordIssue ch s
  | .channelRetirement ch => Sys2Proof.Machine.execChannelRetirement ch s
  | .hailSignatureCheck ch => Sys2Proof.Machine.execHailSignatureCheck ch s
  | .powerOn => Sys2Proof.Machine.execPowerOn s
  | .perstNAssert => Sys2Proof.Machine.execPerstNAssert s
  | .deviceStart b => Sys2Proof.Machine.execDeviceStart b s
  | .bootWatchdogTimeout => Sys2Proof.Machine.execBootWatchdogTimeout s
  | .glbResetDevice => Sys2Proof.Machine.execGlbResetDevice s
  | .functionLevelReset => Sys2Proof.Machine.execFunctionLevelReset s
  | .glbResetCalmExit => Sys2Proof.Machine.execGlbResetCalmExit s
  | .glbResetCalmReq => Sys2Proof.Machine.execGlbResetCalmReq s
  | .pcieCompletionTimeout ch => Sys2Proof.Machine.execPcieCompletionTimeout ch s
  | .mbxEcho => Sys2Proof.Machine.execMbxEcho s
  | .mbxInfo => Sys2Proof.Machine.execMbxInfo s
  | .mbxLog => Sys2Proof.Machine.execMbxLog s
  | .mbxUnknownType => Sys2Proof.Machine.execMbxUnknownType s
  | .mbxS2hRelease => Sys2Proof.Machine.execMbxS2hRelease s
  | .flashRead => Sys2Proof.Machine.execFlashRead s
  | .flashErase4k => Sys2Proof.Machine.execFlashErase4k s
  | .flashProg256 => Sys2Proof.Machine.execFlashProg256 s
  | .flashFloor => Sys2Proof.Machine.execFlashFloor s
  | .flashCmdComplete err => Sys2Proof.Machine.execFlashCmdComplete err s
  | .calLoad => Sys2Proof.Machine.execCalLoad s
  | .calSeal => Sys2Proof.Machine.execCalSeal s
  | .calCommit => Sys2Proof.Machine.execCalCommit s
  | .calCmdComplete err => Sys2Proof.Machine.execCalCmdComplete err s
  | .attGo => Sys2Proof.Machine.execAttGo s
  | .attReportComplete fail => Sys2Proof.Machine.execAttReportComplete fail s
  | .pwrReqWrite ch v => Sys2Proof.Machine.execPwrReqWrite ch v s
  | .pointChangeApply ch => Sys2Proof.Machine.execPointChangeApply ch s
  | .pointChangeComplete ch => Sys2Proof.Machine.execPointChangeComplete ch s
  | .telemetrySample ch temp mv => Sys2Proof.Machine.execTelemetrySample ch temp mv s
  | .regulatorReading ma dev => Sys2Proof.Machine.execRegulatorReading ma dev s
  | .throttleLift ch => Sys2Proof.Machine.execThrottleLift ch s
  | .syncTimeRelease ch => Sys2Proof.Machine.execSyncTimeRelease ch s
  | .casBlockLock ch lock => Sys2Proof.Machine.execCasBlockLock ch lock s
  | .casMeasReceive ch token => Sys2Proof.Machine.execCasMeasReceive ch token s
  | .ethLinkChange port link block fec => Sys2Proof.Machine.execEthLinkChange port link block fec s
  | .csiLaneSync ch sync => Sys2Proof.Machine.execCsiLaneSync ch sync s
  | .debugUnlock => Sys2Proof.Machine.execDebugUnlock s
  | .supplyLoss aon com => Sys2Proof.Machine.execSupplyLoss aon com s
  | .pmStateWrite d3 => Sys2Proof.Machine.execPmStateWrite d3 s

end Sys2Proof.Machine
end

