-- ==== Sys2Proof/Machine/Tick.lean ====
section
/-!
DEFINITION. One fc passes (R24, R260, R293, R332, R353, R381, R384): the time base, the counters of what passes with time,
and the slot boundaries of the Almanacs.
-/

namespace Sys2Proof.Machine

open Sys2Proof

/-- The time base `units`, in 2⁻³² ns from 0. -/
def baseOf (units : Nat) : TimeBase :=
  let ns := units / 2 ^ 32
  ⟨BitVec.ofNat 48 (ns / 1000000000), BitVec.ofNat 30 (ns % 1000000000), BitVec.ofNat 32 units⟩

/-- The time base's instant in 2⁻³² ns. -/
def TimeBase.units (t : TimeBase) : Int :=
  ((t.sec.toNat * 1000000000 + t.ns.toNat) * 2 ^ 32 + t.frac.toNat : Nat)

/-- The span of the time base: SEC wraps from 2⁴⁸ − 1 to 0. -/
def timeSpan : Nat := 2 ^ 48 * 1000000000 * 2 ^ 32

/-- The advance of the time base (R381, R384): it adds the addend, and a step that has applied; or it holds what was set.
Ticks of the servo engines that a change passes do not run (R295). -/
def State.advance (s : State) : State :=
  if s.sup.comOff then s
  else
    let was := s.time
    match s.tc.set with
    | some (sec, ns) =>
      { s.orReg TIME_STAT 0x10 with
        time := ⟨sec, ns, 0⟩, tc := { s.tc with set := none, step := 0, last := was } }.skipTicks
    | none =>
      let u : Int := (s.time.units : Int) + s.tc.step * 2 ^ 32 + (s.addend : Int)
      let t := { s with time := baseOf (u % (timeSpan : Int)).toNat, tc := { s.tc with step := 0, last := was } }
      if 0 < s.tc.step then t.skipTicks else t

/-- The ac edges a channel receives in fc `k` at a point (R24). -/
def edgesIn (point k : Nat) : Nat :=
  match point with
  | 0 => 2
  | 1 => if k % 3 == 2 then 1 else 2
  | 2 => if k % 3 == 0 then 2 else 1
  | _ => 0

/-- Whether a command's ac count runs: from its first issue edge to the edge on which its last token comes in (R353); of a THAW,
from the reading of its image (R351). -/
def Channel.counting (x : Channel) : Bool :=
  match x.cmd.run with
  | some r => r.budgeted || (r.phase == .ended && !x.seq.quiet)
  | none => false

/-! ## The Barometer (R353) -/

/-- Whether array `k` waits for ring fill, or its drain for ring space (R82). -/
def Channel.arrRingWait (x : Channel) (k : Fin 2) : Bool :=
  let a := x.arr k
  (match a.run with
   | some i => x.arrLacks k i
   | none => match a.queue with | i :: _ => !i.rcd.isEmpty && x.arrLacks k i | [] => false) ||
  (match a.slot with
   | some d =>
     let r : BitVec 6 := BitVec.ofNat 6 (field d.ins.rcd 0 4)
     bitOf (field d.ins.rcd 10 1) 3 && decide ((x.ring r).free < 128) &&
       (match x.drainOuts d with | some o => decide (d.ins.pos < o.flatten.length) | none => false)
   | none => false)

/-- Whether the DMA engine's transfer waits for its ring. -/
def Channel.dmaRingWait (x : Channel) : Bool :=
  match x.dmaActive with
  | none => false
  | some (k, d) =>
    if d.plist then
      (match (x.dctx k).walk with | .ready _ => decide ((x.ring d.ring).free < 128) | _ => false)
    else (d.srcRing && decide ((x.ring d.ring).fill < 128)) ||
      (d.dstRing && decide ((x.ring d.ring).free < d.block (x.dctx k).done))

/-- Whether a Front stream waits for ring space. -/
def Channel.frontRingWait (x : Channel) : Bool :=
  x.front.streams.toList.any (fun t => t.busy && !t.cancelling && decide (128 ≤ t.rem) && credits (x.ring t.ring) t == 0)

/-- Whether a pass of the window generator waits for ring rows, or CONV.POOL for ring space. -/
def Channel.winRingWait (x : Channel) : Bool :=
  x.win.slots.toList.any (fun o => match o with
    | some i => !x.convWaits i && ((!(x.rowsReady i.rcd i.count).1 && (x.rowsReady i.rcd i.count).2.isNone) ||
        (i.opc == 0x63 && bitOf (cPMode i.rcd) 3 && decide ((x.ring (BitVec.ofNat 6 (field i.rcd 64 4))).free < 128)))
    | none => false)

/-- Whether the SCAN datapath waits for a ring: for the decay table of a chunk that begins, for a row's bytes, or for output space. -/
def Channel.scanRingWait (x : Channel) : Bool :=
  match x.scan.queue with
  | i :: _ =>
    let r := stepRec i.rcd
    i.opc == 0x80 && !i.rcd.isEmpty && !x.mustFence i &&
      (if i.n == 0 then
        r.dmode == 1 && bitOf r.flags 1 && !x.scanWaits i && decide (i.dbuf.length < 512 ∧ (x.ring (BitVec.ofNat 6 r.dsrc)).fill < 128)
       else
        (decide (i.i < i.count) && !(x.rowRun r i .none).on) || (!i.obuf.isEmpty && decide ((x.ring (BitVec.ofNat 6 r.odst)).free < 128)))
  | [] => false

/-- Whether a unit of the command waits for ring fill or ring space. -/
def Channel.ringWait (x : Channel) : Bool :=
  x.arrRingWait 0 || x.arrRingWait 1 || x.dmaRingWait || x.frontRingWait || x.winRingWait || x.scanRingWait || x.pageWait ||
    x.link.xfers.any (fun t => match t.ring with | some r => decide (t.pos < t.len) && decide ((x.ring r).fill < 128) | none => false)

/-- Whether a collective of the command waits for its peers' blocks. -/
def Channel.peerWait (x : Channel) : Bool := x.link.colls.any (fun i => i.started && decide (i.got.length < i.members.length))

/-- Whether a transfer of channel `a` waits for space in the ring of this device that it lands in (R203, R370). -/
def State.spaceWait (s : State) (a : ChId) : Bool :=
  (s.chan a).link.xfers.any (fun t =>
    t.dev == s.ownDev && t.fate == .accepted && decide (t.pos < t.len) && decide ((s.chan t.ch).landFree t.halo t.slot < 128))

/-- The fc, 0 or 1, in which a unit of the command waits for links: for a collective's peers, and for space in a ring of this device
(`space`), by the state; how long a transfer on its way, or a collective's own blocks, wait for credits is free.
(DESIGN CHOICE, log entry 50.) -/
def Channel.linkWait (x : Channel) (space : Bool) (k : Nat) : Nat :=
  if x.peerWait || space then 1 else if x.link.xfers.isEmpty && x.link.outbox.isEmpty then 0 else Config.freeNat k % 2

/-- Whether the host port holds a finished command back: the completion ring is full (R59). -/
def Channel.hostWait (x : Channel) : Bool := x.cplFull && x.waiting

/-- Whether the registers count that wait: they are the present command's, and it is the one that waits or the last to have left. -/
def Channel.ownHostWait (x : Channel) : Bool :=
  x.hostWait && (match x.cmd.run with | some r => r.phase == .finished | none => true)

/-- The Barometer's counts in one fc (R353): RUN_AC; RING, HALO and HOST by the state, HOST while a record's read has timed out and
is retried as well (R446), and LINK where the state tells. The waits for
banks and for the DRAM queue depend on timing that the model does not have, and are free.
(DESIGN CHOICE, log entry 50.) -/
def Channel.baro (x : Channel) (space : Bool) (edges k : Nat) : Channel :=
  let x := if x.hostWait then
      (if x.ownHostWait then x.bump BARO_STALL_HOST 1 else x).modCmd (fun d => { d with done := d.done.map (fun r =>
        { r with stalls := r.stalls.modify 5 (fun v => satAdd32 v 1) }) })
    else x
  if !x.counting then x
  else
    let ring := b2n x.ringWait
    let link := x.linkWait space (k + 2)
    let x := x.modRun (fun r => { r with acs := r.acs + edges })
    let x := (x.bump BARO_RUN_AC edges).bump BARO_STALL_HALO (b2n (x.win.halos.toList.any (·.waiting)))
    let x := x.bump BARO_STALL_HOST (b2n x.cmd.again)
    let x := (x.bump BARO_STALL_RING ring).bump BARO_STALL_LINK link
    (x.bump BARO_STALL_BANK (Config.freeNat k % 2)).bump BARO_STALL_DRAM (Config.freeNat (k + 1) % 2)

/-- Whether two passes run at once and share the four pieces per ac (R187). -/
def Channel.winShares (x : Channel) : Bool :=
  match x.win.slots.get 0, x.win.slots.get 1 with
  | some i, some j => i.no != j.no && !x.convWaits i && !x.convWaits j && (x.rowsReady i.rcd i.count).1 && (x.rowsReady j.rcd j.count).1
  | _, _ => false

/-- The window generator's counts in one fc (R205). How much slower two passes that run at once make each other depends on their
timing, and is free. (DESIGN CHOICE, log entries 30 and 50.) -/
def Channel.winCount (x : Channel) (edges k : Nat) : Channel :=
  let x := if x.win.halos.toList.any (·.waiting) then x.inc WIN_HALO_AC edges else x
  if x.winShares then x.inc WIN_SLOW_AC (Config.freeNat (k + 3) % 3) else x

/-- What one fc brings in a channel that is not parked. -/
def Channel.tick (x : Channel) (space : Bool) (edges fc k : Nat) : Channel :=
  let x := { (((x.baro space edges k).winCount edges k).frontTick fc).haloTick.dmaTick.ptuTick fc with odd := x.odd != (edges % 2 == 1) }
  let x := if x.scan.fence.isEmpty then x else x.inc SCAN_FENCE_FC 1
  let x := if x.intake.decode.isSome then x.inc64 IN_DEC_BUSY 1 else x
  if x.dram.hold == 0 then x else { x with dram := { x.dram with hold := x.dram.hold - 1 } }

/-- A slot boundary of a running Almanac: the entry a channel awaits finds its gate met (R332), and an open FILL entry ends when that
entry could open (R333). -/
def State.gateTick (s : State) (c : ChId) : State :=
  let x := s.chan c
  let i := x.alm.ahead
  let e := bkEnt x.bank i
  if !x.alm.running || s.parked c || !decide (i < bkNent x.bank) then s
  else match s.boundary c with
    | none => s
    | some k =>
      if !x.canOpen i k then s
      else s.modChan c (fun x => x.modAlm (fun a =>
        let a := if e.gate && a.gateMet.isNone then { a with gateMet := some (1000 * k) } else a
        if a.isOpen && (bkEnt x.bank a.entry).typ == 1 then { a with isOpen := false, entry := i } else a))

/-- An error of the hardware, when one strikes (R72). (DESIGN CHOICE, log entry 9.) -/
def upsetIn (c : ChId) (x : Channel) (k : Nat) : Channel :=
  match Config.upset k with
  | some (ch, m, i, kind) => if ch % 16 == c.val then x.upset m i (kind % 4) (k + 1) else x
  | none => x

/-- An error of the hardware in a memory of the common block that its code does not flag: a word of the steering table or of the
MSI-X table that no rule gives (R72). (DESIGN CHOICE, log entries 5 and 9.) -/
def State.upsetCommon (s : State) (k : Nat) : State :=
  match Config.upset k with
  | some (_, 6, i, kind) =>
    let w := Config.freeWord (k + 1)
    if kind % 4 < 2 then s
    else if i % 2 == 0 then
      let o := STEER (i / 4 % 64) (i / 2 % 2)
      s.setReg o (if i / 2 % 2 == 0 then w else w &&& 0xDF)
    else
      let j := i / 2 % 256
      { s with msix := sset (if j % 4 == 3 then 1 else 0) s.msix (j * 4) (w &&& (if j % 4 == 0 then 0xFFFFFFFC else if j % 4 == 3 then 1 else 0xFFFFFFFF)) }
  | _ => s

/-- One fc passes. (DESIGN CHOICE, log entries 2 and 50.) -/
def State.tick (s : State) : State :=
  let t := s.advance
  let chans := Vector.ofFn (fun c : ChId =>
    let x := if s.parked c then t.chan c else (t.chan c).tick (s.spaceWait c) (edgesIn (s.point c) s.fc) s.fc (s.free + 4 * c.val)
    upsetIn c { x with hostWr := [] } (s.free + 64))
  let t := { t with chans := chans, fc := s.fc + 1, linkFc := s.linkFc + 1, free := s.free + 97 }
  (List.finRange 16).foldl State.gateTick (t.segTick.upsetCommon (s.free + 64))

end Sys2Proof.Machine
end

