-- ==== Sys2Proof/Machine/Step.lean ====
section
/-!
DEFINITION. The step: the command at the front of the queue, or, on an empty queue, one fc.
-/

namespace Sys2Proof.Machine

open Sys2Proof

/-- One step: the command at the front of the queue is taken and performed on the rest; on an empty queue one fc passes.
(DESIGN CHOICE, log entries 2 and 4.) -/
def step (s : State) : Host.Outcome State Fault Refusal :=
  match s.pending with
  | [] => .next s.tick
  | c :: rest => exec c { s with pending := rest }

/-- The state with the command a table word spells put at the front of its queue. (DESIGN CHOICE, log entry 3.) -/
def State.withFetchWord (s : State) (nbits w : Nat) : State :=
  match decodeTableWord nbits w with
  | some c => { s with pending := c :: s.pending }
  | none => s

end Sys2Proof.Machine
end

