-- ==== Sys2Proof/Safety.lean ====
section
/-!
DEFINITION. What the statements call a sound state: the canonical forms of the memories and tables; and the conditions and
comparisons they are stated with.
-/

namespace Sys2Proof.Machine

open Sys2Proof

/-! ## Canonical forms -/

/-- A byte memory is in canonical form: addresses strictly rising, no byte that an unlisted address reads as. -/
abbrev Mem.wf (m : Mem) : Prop := swf (0 : Byte) m = true

/-- The canonical form of a table whose unlisted keys read as `d` says. -/
def kwfFrom {α : Type} [DecidableEq α] (d : Nat → α) : Option Nat → Sparse α → Bool
  | _, [] => true
  | lo, (j, v) :: r => (match lo with | none => true | some l => decide (l < j)) && decide (v ≠ d j) && kwfFrom d (some j) r

/-- What an unlisted word of the MSI-X table reads as: entries are masked. -/
def msixReset (o : Nat) : Word := if o % 16 == 12 then 1 else 0

/-- The memories and tables outside the channels are in canonical form: host memory, flash, the common block's registers and
the MSI-X table. -/
abbrev State.Canon (s : State) : Prop :=
  Mem.wf s.hostMem ∧ Mem.wf s.sup.flash ∧ kwfFrom glReset none s.regs = true ∧ kwfFrom msixReset none s.msix = true

/-- The memories and the registers of a channel are in canonical form: scratchpad, DRAM and accumulators with their error marks, and
the register table. -/
abbrev Channel.Canon (x : Channel) : Prop :=
  Mem.wf x.spad.mem ∧ swf 0 x.spad.err = true ∧ Mem.wf x.dram.mem ∧ swf 0 x.dram.err = true ∧
  (∀ k, swf 0 (x.accOf k).mem = true ∧ swf 0 (x.accOf k).err = true) ∧ kwfFrom chReset none x.regs = true

/-! ## Issue -/

/-- The channel's sequencer can issue the word `w`: a program runs, nothing stops it, it holds no other instruction, and
the word at its program counter lies in a loaded image and has no uncorrectable error. -/
abbrev State.ready (s : State) (c : ChId) (w : Dword) : Prop :=
  (s.chan c).issues = true ∧ ((s.chan c).seq.stall = .none ∨ (s.chan c).seq.held = w) ∧
  sget 0 (s.chan c).pm.err (s.chan c).seq.pc.toNat ≠ 2 ∧ (s.chan c).pm.loaded (s.chan c).seq.pc.toNat = true

/-- The guard passes, for the instructions it skips as a whole (R32, R44). -/
abbrev State.guardOn (s : State) (c : ChId) (pg : BitVec 3) (pn : Bool) : Prop := (s.chan c).seq.guard pg pn = true

/-- The state with a change of the sequencer made and the instruction stepped over. -/
def State.retire (s : State) (c : ChId) (g : Seq → Seq) : State :=
  s.modChan c (fun x => x.modSeq (fun q => (g q).step q.pc))

/-- The program counter of channel `c` in `t` is where it goes after the instruction it stood at in `s` (R41). -/
abbrev State.stepped (s t : State) (c : ChId) : Prop :=
  (t.chan c).seq.pc = (nextPc (s.chan c).seq.pc (s.chan c).seq.reps).1

/-- The channels other than `c` are the same. -/
abbrev State.others (s t : State) (c : ChId) : Prop := ∀ d : ChId, d ≠ c → t.chan d = s.chan d

/-! ## Vectors -/

/-- A VECTOR instruction can issue: the word is ready, the guard is not the one that never executes, and no v register it names
waits for an array (R40, R44). -/
abbrev State.readyV (s : State) (c : ChId) (opc : Byte) (f : FmtV) : Prop :=
  s.ready c (wordV opc f) ∧ never f.pg f.pn = false ∧ ∀ r ∈ vUses opc f, (s.chan c).seq.vpend.getLsbD r.toNat = false

/-- Whether the guard enables lane `i` in `s` (R32). -/
def State.laneOn (s : State) (c : ChId) (f : FmtV) (i : Nat) : Bool := ((s.chan c).seq.lanes f.pg f.pn).getLsbD i

/-- Lane `i` of v[r] in `s`. -/
def State.lane (s : State) (c : ChId) (r : BitVec 4) (i : Nat) : Word := Sys2Proof.Machine.lane (s.chan c).seq r i

/-- In `t` the lanes of v[VD] that the guard enabled in `s` hold `g`, and the others what they held; the other v registers,
the s, a, p and t registers, the scratchpad and the other channels are unchanged, and the sequencer has stepped on. -/
abbrev State.lanesWritten (s t : State) (c : ChId) (f : FmtV) (g : Nat → Word) : Prop :=
  (∀ i, i < 128 → t.lane c f.vd i = if s.laneOn c f i then g i else s.lane c f.vd i) ∧
  (∀ r, r ≠ f.vd → (t.chan c).seq.rv r = (s.chan c).seq.rv r) ∧
  (t.chan c).seq.s = (s.chan c).seq.s ∧ (t.chan c).seq.a = (s.chan c).seq.a ∧ (t.chan c).seq.p = (s.chan c).seq.p ∧
  (t.chan c).seq.t = (s.chan c).seq.t ∧ (t.chan c).spad = (s.chan c).spad ∧ s.stepped t c ∧ s.others t c

/-! ## Engine instructions -/

/-- A format D instruction with a record can issue: the word is ready, its guard passes, and the 64 bytes at its record's address
lie in the scratchpad, aligned (R31, R46). -/
abbrev State.readyD (s : State) (c : ChId) (opc : Byte) (f : FmtD) : Prop :=
  s.ready c (wordD opc f) ∧ s.guardOn c f.pg f.pn ∧ ((s.chan c).seq.ra f.ad).toNat < 0x2000000 ∧
  (s.chan c).seq.descAddr f + 64 ≤ 0x2000000 ∧ (s.chan c).seq.descAddr f % 64 = 0

/-- The scratchpad, the rings, DRAM and the s, a, p and v registers of channel `c` and all of the other channels are the same,
and the sequencer has stepped on: what issuing an instruction to an engine's queue leaves. -/
abbrev State.onlyQueued (s t : State) (c : ChId) : Prop :=
  (t.chan c).spad = (s.chan c).spad ∧ (t.chan c).rings = (s.chan c).rings ∧ (t.chan c).dram = (s.chan c).dram ∧
  (t.chan c).seq.s = (s.chan c).seq.s ∧ (t.chan c).seq.a = (s.chan c).seq.a ∧ (t.chan c).seq.p = (s.chan c).seq.p ∧
  (t.chan c).seq.v = (s.chan c).seq.v ∧ (t.chan c).seq.t = (s.chan c).seq.t ∧ s.stepped t c ∧ s.others t c

/-- As `onlyQueued`, but that the instruction has bound the rings its record names: a side that is valid and free, or bound by the same
engine, has one binding more, and nothing else of any ring has changed (R82). -/
abbrev State.queuedBinding (s t : State) (c : ChId) (ce pe : Eng) (cons prod : List (BitVec 6)) : Prop :=
  (t.chan c).spad = (s.chan c).spad ∧ (t.chan c).dram = (s.chan c).dram ∧ (t.chan c).seq.s = (s.chan c).seq.s ∧
  (t.chan c).seq.a = (s.chan c).seq.a ∧ (t.chan c).seq.p = (s.chan c).seq.p ∧ (t.chan c).seq.v = (s.chan c).seq.v ∧
  (t.chan c).seq.t = (s.chan c).seq.t ∧ s.stepped t c ∧ s.others t c ∧
  ∀ r, let d := (s.chan c).ring r
    let cs := r ∈ cons ∧ d.valid = true ∧ bindOk d.cons ce = true
    let ps := r ∈ prod ∧ d.valid = true ∧ bindOk d.prod pe = true
    (t.chan c).ring r = { d with cons := if cs then bindAdd d.cons ce else d.cons, xc := d.xc || (decide cs && ce.ofCommand),
                                 prod := if ps then bindAdd d.prod pe else d.prod, xp := d.xp || (decide ps && pe.ofCommand) }

/-- Token counter `k` has one more operation outstanding than in `s`, and the others as many (R43). -/
abbrev State.began (s t : State) (c : ChId) (k : BitVec 4) : Prop :=
  ∀ j, (t.chan c).seq.out j = (s.chan c).seq.out j + (if j = k then 1 else 0)

/-- `n` bytes from `a` lie in the populated DRAM (`dram`) or in the scratchpad of a channel (R31, R94, R114). -/
abbrev Channel.fits (x : Channel) (dram : Bool) (a n : Nat) : Prop :=
  if dram then a + n ≤ x.dramTop ∧ a < 0x200000000 else a + n ≤ 0x2000000

/-- The state with channel `c` changed by `g` and the sequencer stepped over its instruction. -/
def State.retireWith (s : State) (c : ChId) (g : Channel → Channel) : State :=
  s.modChan c (fun x => (g x).modSeq (fun q => q.step x.seq.pc))

/-- An aligned access on path `p` at `a` reaches word `o` of the window of the live channel `c`: by SYS.CSR of `c` itself, or by
BAR0 (R11, R448). -/
abbrev State.reaches (s : State) (p : Path) (a : Nat) (c : ChId) (o : Nat) : Prop :=
  a % 4 = 0 ∧ s.live c = true ∧ ((p = .host ∧ s.hostUp = true ∧ windowOf a = .chan c o) ∨ (p = .csr c ∧ a = o))

/-- What a write of `v` leaves in a register word (R12, R13): a writable bit takes the value, a W1C bit clears where the value is
1, every other bit stands. -/
def writtenBit (r : RegRow) (o : Nat) (old v : Word) (k : Nat) : Bool :=
  (if (r.part o r.rw).getLsbD k then v.getLsbD k else old.getLsbD k) && !(v.getLsbD k && (r.part o r.w1c).getLsbD k)

/-- In `t` an operation of token counter `k` of channel `c` has finished: the counter has gone up by one and one operation fewer is
outstanding (R42); t15 keeps reading 0. -/
abbrev State.token (s t : State) (c : ChId) (k : BitVec 4) : Prop :=
  (t.chan c).seq.rt k = (if k = 15 then 0 else (s.chan c).seq.rt k + 1) ∧ (t.chan c).seq.out k = (s.chan c).seq.out k - 1

/-- Token counter `k` can take one more increment. -/
abbrev State.room (s : State) (c : ChId) (k : BitVec 4) : Prop := k = 15 ∨ (s.chan c).seq.rt k ≠ 0xFFFF

/-- Nothing of array `k` is left to be read before its work goes on: the drain in its slot has read its entries and the instruction at
the head of its queue has its record. -/
abbrev Channel.arrReady (x : Channel) (k : Fin 2) : Prop :=
  (∀ d, (x.arr k).slot = some d → d.outs ≠ none) ∧
  ∀ i r, (x.arr k).queue = i :: r → arrHasRec i.opc = true → i.rcd ≠ []

/-- The outputs of drain `i` of array `k`, as bytes: for every entry its columns, converted with the shifts and biases. -/
abbrev Channel.drainBytesOf (x : Channel) (k : Fin 2) (i : ArrIns) (shifts : List Byte) (biases : List Word) : List (List Byte) :=
  let o := field i.rcd 10 1
  (List.range i.count).map (fun n => ((List.range (field i.rcd 20 1 + 1)).map (fun j =>
    leBytes (ofmtSize (o % 8)) (drainElem (o / 128) (o % 8) (bitOf o 5) (biases[j]?) (byteAt shifts j).toInt
      (drawRnd (i.mod.getLsbD 0) i.key (1 + k.val) (x.draws.get (if k = 0 then 1 else 2) + BitVec.ofNat 48 n).toNat j)
      (sget 0 (x.accOf k).mem (128 * (field i.rcd 8 2 + n) + j))).1)).flatten)
end Sys2Proof.Machine
end

