-- ==== Sys2Proof/Certificates/Slice0/Obligations.lean ====
section
/-!
DEFINITION. The statements about the block. Each docstring names the rules of the manual it rests on.
-/

open Sys2Proof Sys2Proof.Machine

/-- A step takes the command at the front of the queue and performs it on the state with the rest of the queue. The queue
is the model's own (log entry 4). -/
def Obligations.StepRunsFront : Prop :=
  ∀ (c : Instr) (rest : List Instr) (s : State), step { s with pending := c :: rest } = exec c { s with pending := rest }

/-- Every command answers a next state on every state: the manual stops the machine nowhere, and a command whose event
cannot occur has no effect (the model's choice, log entry 1). -/
def Obligations.EveryCommandCompletes : Prop := ∀ (c : Instr) (s : State), ∃ t, exec c s = .next t

/-- No command, a reset included, puts a command into the queue or takes one out of it: only the step does (log entry 4). -/
def Obligations.QueueKept : Prop := ∀ (c : Instr) (s t : State), exec c s = .next t → t.pending = s.pending

/-- On an empty queue a step is one fc (the model's choice, log entry 2): the count of fc grows by one, and where nothing is
set, no step is pending and VDD_COM is on, the time base adds the addend, in units of 2⁻³² ns, modulo its span (R381, R382). -/
def Obligations.IdleStepPassesOneFc : Prop :=
  ∀ s : State, s.pending = [] →
    ∃ t, step s = .next t ∧ t.pending = [] ∧ t.fc = s.fc + 1 ∧
      (s.sup.comOff = false → s.tc.set = none → s.tc.step = 0 →
        t.time = baseOf ((s.time.units + (s.addend : Int)) % (timeSpan : Int)).toNat)

/-- At reset the memories and tables are in canonical form, those of the channels too, no command waits, and no channel is live.
That the queue is empty is the model's own state (log entry 4); that no channel is live before a start, of which R453 says only that a
start sets GLB_CHLIVE, is the model's choice (log entry 12). -/
def Obligations.ResetIsCanonical : Prop :=
  State.reset.Canon ∧ (∀ c, (State.reset.chan c).Canon) ∧ State.reset.pending = [] ∧ State.reset.reg GLB_CHLIVE = 0

/-- For every state, not only those a run reaches: a step from a state whose memories and tables outside the channels are in
canonical form (keys strictly rising, nothing listed that an unlisted key reads as) gives such a state, and so does one from a state
whose channels' scratchpads, DRAMs, accumulators and registers are. So equal memories are equal data. -/
def Obligations.StepKeepsCanonicalForm : Prop :=
  (∀ s t : State, s.Canon → step s = .next t → t.Canon) ∧
  (∀ s t : State, (∀ c, (s.chan c).Canon) → step s = .next t → ∀ c, (t.chan c).Canon)

/-- R30, R43: s0 reads 0 and p0 reads all ones; writes to them, and to the null counter t15, are discarded; every other
register of the three files reads back what was written, and a write leaves every other register of its file. -/
def Obligations.HardwiredRegisters : Prop :=
  ∀ (q : Seq),
    (q.rs 0 = 0 ∧ q.rp 0 = BitVec.allOnes 128 ∧ q.rt 15 = 0) ∧
    (∀ v, q.ws 0 v = q) ∧ (∀ v, q.wp 0 v = q) ∧ (∀ v, q.wt 15 v = q) ∧
    (∀ i j v, i ≠ 0 → (q.ws i v).rs j = if j = i then v else q.rs j) ∧
    (∀ i j v, i ≠ 0 → (q.wp i v).rp j = if j = i then v else q.rp j) ∧
    (∀ i j v, i ≠ 15 → (q.wt i v).rt j = if j = i then v else q.rt j)

/-- R47, R48: the two-operand scalar instructions, whole: the next state is the old one with s[SD] written and the
sequencer stepped over the instruction, and nothing else changed. -/
def Obligations.ScalarArithmeticResults : Prop :=
  ∀ (s : State) (c : ChId) (f : FmtS), s.guardOn c f.pg f.pn → okB f = true →
    (f.mod = 0 → s.ready c (wordS 0x02 f) →
      exec (.scalarAdd c f) s = .next (s.retire c (fun q => q.ws f.sd (q.rs f.sa + q.opB f)))) ∧
    (f.mod = 0 → s.ready c (wordS 0x03 f) →
      exec (.scalarSub c f) s = .next (s.retire c (fun q => q.ws f.sd (q.rs f.sa - q.opB f)))) ∧
    (f.mod = 0 → s.ready c (wordS 0x04 f) →
      exec (.scalarMul c f) s = .next (s.retire c (fun q => q.ws f.sd (q.rs f.sa * q.opB f)))) ∧
    (f.mod = 0 → s.ready c (wordS 0x05 f) →
      exec (.scalarMulh c f) s =
        .next (s.retire c (fun q => q.ws f.sd (BitVec.ofInt 64 ((q.rs f.sa).toInt * (q.opB f).toInt / 2 ^ 64))))) ∧
    (f.mod = 1 → s.ready c (wordS 0x05 f) →
      exec (.scalarMulh c f) s =
        .next (s.retire c (fun q => q.ws f.sd (BitVec.ofNat 64 ((q.rs f.sa).toNat * (q.opB f).toNat / 2 ^ 64))))) ∧
    (f.mod = 0 → s.ready c (wordS 0x06 f) →
      exec (.scalarAnd c f) s = .next (s.retire c (fun q => q.ws f.sd (q.rs f.sa &&& q.opB f)))) ∧
    (f.mod = 0 → s.ready c (wordS 0x07 f) →
      exec (.scalarOr c f) s = .next (s.retire c (fun q => q.ws f.sd (q.rs f.sa ||| q.opB f)))) ∧
    (f.mod = 0 → s.ready c (wordS 0x08 f) →
      exec (.scalarXor c f) s = .next (s.retire c (fun q => q.ws f.sd (q.rs f.sa ^^^ q.opB f)))) ∧
    (f.mod = 0 → s.ready c (wordS 0x09 f) →
      exec (.scalarShl c f) s = .next (s.retire c (fun q => q.ws f.sd (q.rs f.sa <<< ((q.opB f).toNat % 64))))) ∧
    (f.mod = 0 → s.ready c (wordS 0x0A f) →
      exec (.scalarShr c f) s = .next (s.retire c (fun q => q.ws f.sd (q.rs f.sa >>> ((q.opB f).toNat % 64))))) ∧
    (f.mod = 0 → s.ready c (wordS 0x0B f) →
      exec (.scalarSra c f) s = .next (s.retire c (fun q => q.ws f.sd ((q.rs f.sa).sshiftRight ((q.opB f).toNat % 64))))) ∧
    (f.mod.toNat < 2 → s.ready c (wordS 0x0C f) →
      exec (.scalarMin c f) s = .next (s.retire c (fun q => q.ws f.sd
        (if (if f.mod = 0 then (q.opB f).slt (q.rs f.sa) else (q.opB f).ult (q.rs f.sa)) then q.opB f else q.rs f.sa)))) ∧
    (f.mod.toNat < 2 → s.ready c (wordS 0x0D f) →
      exec (.scalarMax c f) s = .next (s.retire c (fun q => q.ws f.sd
        (if (if f.mod = 0 then (q.rs f.sa).slt (q.opB f) else (q.rs f.sa).ult (q.opB f)) then q.opB f else q.rs f.sa))))

/-- R32, R47, R497: the scalar instructions that write predicates, address registers or counts, whole. -/
def Obligations.ScalarOtherResults : Prop :=
  ∀ (s : State) (c : ChId) (f : FmtS), s.guardOn c f.pg f.pn →
    (f.sd = 0 → f.sa = 0 → okNoB f = true → f.mod = 0 → s.ready c (wordS 0x01 f) → exec (.nop c f) s = .next (s.retire c id)) ∧
    (okB f = true → okP f.sd = true → f.mod.toNat < 6 → s.ready c (wordS 0x0E f) →
      exec (.scalarCmp c f) s = .next (s.retire c (fun q => q.wp (pOf f.sd)
        (if condHolds f.mod.toNat (q.rs f.sa) (q.opB f) then BitVec.allOnes 128 else 0)))) ∧
    (okP f.sd = true → okP f.sa = true → okP f.sb = true → f.i = false → f.imm = 0 → s.ready c (wordS 0x0F f) →
      (f.mod = 0 → exec (.scalarPlog c f) s =
        .next (s.retire c (fun q => q.wp (pOf f.sd) (q.rp (pOf f.sa) &&& q.rp (pOf f.sb))))) ∧
      (f.mod = 1 → exec (.scalarPlog c f) s =
        .next (s.retire c (fun q => q.wp (pOf f.sd) (q.rp (pOf f.sa) ||| q.rp (pOf f.sb))))) ∧
      (f.mod = 2 → exec (.scalarPlog c f) s =
        .next (s.retire c (fun q => q.wp (pOf f.sd) (q.rp (pOf f.sa) ^^^ q.rp (pOf f.sb))))) ∧
      (f.mod = 3 → exec (.scalarPlog c f) s =
        .next (s.retire c (fun q => q.wp (pOf f.sd) (q.rp (pOf f.sa) &&& ~~~q.rp (pOf f.sb)))))) ∧
    (f.sa = 0 → f.sb = 0 → f.i = false → f.mod = 0 → s.ready c (wordS 0x10 f) →
      exec (.scalarLui c f) s = .next (s.retire c (fun q => q.ws f.sd (f.imm ++ (q.rs f.sd).extractLsb' 0 32)))) ∧
    (okB f = true → okA f.sd = true → okA f.sa = true → f.mod = 0 → s.ready c (wordS 0x13 f) →
      exec (.scalarAdda c f) s = .next (s.retire c (fun q => q.wa (aOf f.sd) (q.ra (aOf f.sa) + q.opB f)))) ∧
    (okNoB f = true → s.ready c (wordS 0x14 f) →
      (f.mod = 0 → okA f.sd = true →
        exec (.scalarMova c f) s = .next (s.retire c (fun q => q.wa (aOf f.sd) (q.rs f.sa)))) ∧
      (f.mod = 1 → okA f.sa = true →
        exec (.scalarMova c f) s = .next (s.retire c (fun q => q.ws f.sd (q.ra (aOf f.sa)))))) ∧
    (okNoB f = true → f.mod.toNat < 3 → s.ready c (wordS 0x15 f) →
      ∃ n : Nat, n ≤ 64 ∧ n = bitCount f.mod ((s.chan c).seq.rs f.sa) ∧
        exec (.scalarBit c f) s = .next (s.retire c (fun q => q.ws f.sd (BitVec.ofNat 64 n))))

/-- R31, R47, R74, R88: the 8-byte scratchpad load and store at a[SA] + IMM. The load leaves memory as it is; the store
changes the 8 bytes at that address and no other. -/
def Obligations.ScalarMemoryResults : Prop :=
  ∀ (s : State) (c : ChId) (f : FmtS) (a : Nat), s.guardOn c f.pg f.pn →
    okA f.sa = true → f.i = false → f.mod = 0 →
    ((s.chan c).seq.ra (aOf f.sa)).toNat < 0x2000000 →
    effAddr ((s.chan c).seq.ra (aOf f.sa)) f.imm.toInt = (a : Int) → a % 8 = 0 → a + 8 ≤ 0x2000000 →
    (f.sb = 0 → s.ready c (wordS 0x11 f) →
      ∃ t, exec (.scalarLd c f) s = .next t ∧ s.stepped t c ∧ s.others t c ∧
        (∀ r, (t.chan c).seq.rs r =
          ((s.chan c).seq.ws f.sd (BitVec.ofNat 64 (leNat (rdBytes (s.chan c).spad.mem a 8)))).rs r) ∧
        (t.chan c).spad.mem = (s.chan c).spad.mem) ∧
    (f.sd = 0 → s.ready c (wordS 0x12 f) →
      (s.chan c).mergeBusy a ((leBytes 8 ((s.chan c).seq.rs f.sb).toNat).map some) = false →
      (∀ e ∈ (s.chan c).spad.err, e.1 = a / 16 → e.2 ≠ 2) →
      ∃ t, exec (.scalarSt c f) s = .next t ∧ s.stepped t c ∧ s.others t c ∧
        rdBytes (t.chan c).spad.mem a 8 = leBytes 8 ((s.chan c).seq.rs f.sb).toNat ∧
        (∀ b, b < a ∨ a + 8 ≤ b → rd8 (t.chan c).spad.mem b = rd8 (s.chan c).spad.mem b) ∧
        (∀ r, (t.chan c).seq.rs r = (s.chan c).seq.rs r))

/-- R30, R41, R58: the branch instructions where no repeat body is active, whole; a branch of count register 0 is not taken,
which is the model's reading (log entry 13). That END fixes the end time, until a last token comes in, is log entry 55. -/
def Obligations.BranchResults : Prop :=
  ∀ (s : State) (c : ChId) (f : FmtB), s.guardOn c f.pg f.pn → f.rsv = 0 → (s.chan c).seq.reps = [] →
    (∀ p : BitVec 15, ((s.chan c).seq.pc.toNat : Int) + f.off.toInt = (p.toNat : Int) → (s.chan c).pm.loaded p.toNat = true →
      let go (g : Seq → Seq) : State := s.modChan c (fun x => x.modSeq (fun q => { g q with pc := p, stall := .none }))
      (f.sa = 0 → f.sb = 0 → f.cond = 0 → s.ready c (wordB 0x20 f) → exec (.branchJmp c f) s = .next (go id)) ∧
      (f.cond.toNat < 6 → s.ready c (wordB 0x21 f) →
        exec (.branchBc c f) s = .next
          (if condHolds f.cond.toNat ((s.chan c).seq.rs f.sa) ((s.chan c).seq.rs f.sb) then go id else s.retire c id)) ∧
      (f.sb = 0 → f.cond = 0 → s.ready c (wordB 0x22 f) →
        exec (.branchLoop c f) s = .next
          (if f.sa ≠ 0 ∧ (s.chan c).seq.rs f.sa ≠ 1 then go (fun q => q.ws f.sa (q.rs f.sa - 1))
           else s.retire c (fun q => q.ws f.sa (q.rs f.sa - 1)))) ∧
      (f.sa = 0 → f.sb = 0 → f.cond = 0 → s.ready c (wordB 0x24 f) → (s.chan c).seq.calls.length < 16 →
        exec (.branchCall c f) s = .next (go (fun q => { q with calls := (q.pc + 1) :: q.calls })))) ∧
    (f.sb = 0 → f.cond = 0 → f.off.toNat < 64 → s.ready c (wordB 0x23 f) →
      exec (.branchRep c f) s = .next (s.modChan c (fun x => x.modSeq (fun q =>
        if q.rs f.sa = 0 then { q with pc := q.pc + BitVec.ofNat 15 (f.off.toNat + 1) + 1, reps := [], stall := .none }
        else { q with pc := q.pc + 1, stall := .none,
                      reps := [⟨(q.rs f.sa).toNat, q.pc + 1, q.pc + BitVec.ofNat 15 (f.off.toNat + 1)⟩] })))) ∧
    (f.sa = 0 → f.sb = 0 → f.cond = 0 → f.off = 0 →
      (s.ready c (wordB 0x25 f) → ∀ r rest, (s.chan c).seq.calls = r :: rest → (s.chan c).pm.loaded r.toNat = true →
        exec (.branchRet c f) s =
          .next (s.modChan c (fun x => x.modSeq (fun q => { q with pc := r, calls := rest, stall := .none })))) ∧
      (s.ready c (wordB 0x26 f) →
        ∃ t, exec (.branchEnd c f) s = .next t ∧ s.others t c ∧
          (t.chan c).cmd.run = (s.chan c).cmd.run.map (fun r => { r with phase := .ended, endT := s.now })))

/-- R32, R33, R44: a skipped instruction steps the sequencer on and does nothing else, for every row of the formats S, B, D, M and
Y; a VECTOR instruction is skipped whole with PG = 0 and PN = 1 alone. The fields that each row leaves 0 or limits are those of its
entry in the manual (R45). -/
def Obligations.SkippedInstructions : Prop :=
  ∀ (s : State) (c : ChId),
    (∀ f : FmtS, ¬ s.guardOn c f.pg f.pn →
      let sk (opc : Byte) (i : Instr) : Prop := s.ready c (wordS opc f) → exec i s = .next (s.retire c id)
      (okB f = true → f.mod = 0 → sk 0x02 (.scalarAdd c f) ∧ sk 0x03 (.scalarSub c f) ∧ sk 0x04 (.scalarMul c f) ∧
        sk 0x06 (.scalarAnd c f) ∧ sk 0x07 (.scalarOr c f) ∧ sk 0x08 (.scalarXor c f) ∧ sk 0x09 (.scalarShl c f) ∧
        sk 0x0A (.scalarShr c f) ∧ sk 0x0B (.scalarSra c f) ∧
        (okA f.sd = true → okA f.sa = true → sk 0x13 (.scalarAdda c f))) ∧
      (okB f = true → f.mod.toNat < 2 → sk 0x05 (.scalarMulh c f) ∧ sk 0x0C (.scalarMin c f) ∧ sk 0x0D (.scalarMax c f)) ∧
      (okB f = true → okP f.sd = true → f.mod.toNat < 6 → sk 0x0E (.scalarCmp c f)) ∧
      (okP f.sd = true → okP f.sa = true → okP f.sb = true → f.i = false → f.imm = 0 → f.mod.toNat < 4 → sk 0x0F (.scalarPlog c f)) ∧
      (f.sa = 0 → f.sb = 0 → f.i = false → f.mod = 0 → sk 0x10 (.scalarLui c f)) ∧
      (okA f.sa = true → f.i = false → f.mod = 0 → (f.sb = 0 → sk 0x11 (.scalarLd c f)) ∧ (f.sd = 0 → sk 0x12 (.scalarSt c f))) ∧
      (okNoB f = true →
        (f.mod = 0 → okA f.sd = true → sk 0x14 (.scalarMova c f)) ∧ (f.mod = 1 → okA f.sa = true → sk 0x14 (.scalarMova c f)) ∧
        (f.mod.toNat < 3 → sk 0x15 (.scalarBit c f)) ∧
        (f.mod = 0 → f.sa = 0 → sk 0xD0 (.sysTime c f) ∧ sk 0xD1 (.sysEpoch c f)) ∧
        (f.mod = 0 → f.sd = 0 → sk 0xD2 (.sysSeed c f) ∧ sk 0xD4 (.sysSig c f)) ∧
        (f.mod = 0 → f.sd = 0 → f.sa = 0 → sk 0x01 (.nop c f) ∧ sk 0xD5 (.sysTrap c f) ∧ sk 0xD7 (.sysFreeze c f))) ∧
      (f.i = false → f.imm.toNat < 16 → (f.sd = 0 → f.mod.toNat < 2 → sk 0xB0 (.servoSet c f)) ∧
        (f.sa = 0 → f.sb = 0 → f.mod.toNat < 13 → sk 0xB1 (.servoRd c f)) ∧
        (f.sd = 0 → f.sa = 0 → f.sb = 0 → f.mod.toNat < 4 → sk 0xB2 (.servoLearn c f))) ∧
      (f.i = false → f.imm.toNat < 512 → f.sb = 0 →
        (f.sd = 0 → okA f.sa = true → sk 0xC0 (.busSend c f)) ∧ (f.sa = 0 → sk 0xC1 (.busCancel c f))) ∧
      (f.i = false → f.imm.toNat < 0x200000 → f.sa = 0 →
        (f.mod = 0 → f.sb = 0 → sk 0xD3 (.sysCsrRead c f)) ∧ (f.mod = 1 → f.sd = 0 → sk 0xD3 (.sysCsrWrite c f))) ∧
      (f.sd = 0 → f.sa = 0 → f.sb = 0 → f.i = false → f.mod = 0 → sk 0xD6 (.sysMark c f))) ∧
    (∀ f : FmtB, ¬ s.guardOn c f.pg f.pn → f.rsv = 0 →
      let sk (opc : Byte) (i : Instr) : Prop := s.ready c (wordB opc f) → exec i s = .next (s.retire c id)
      (f.cond.toNat < 6 → sk 0x21 (.branchBc c f)) ∧
      (f.sb = 0 → f.cond = 0 → sk 0x22 (.branchLoop c f) ∧ (f.off.toNat < 64 → sk 0x23 (.branchRep c f))) ∧
      (f.sa = 0 → f.sb = 0 → f.cond = 0 → sk 0x20 (.branchJmp c f) ∧ sk 0x24 (.branchCall c f) ∧
        (f.off = 0 → sk 0x25 (.branchRet c f) ∧ sk 0x26 (.branchEnd c f)))) ∧
    (∀ f : FmtD, ¬ s.guardOn c f.pg f.pn →
      let sk (opc : Byte) (i : Instr) : Prop := s.ready c (wordD opc f) → exec i s = .next (s.retire c id)
      (f.unit ≠ 0 → f.tk = 0 → f.mod = 0 → (f.count = 0 → sk 0x50 (.tileLoad c f)) ∧ sk 0x57 (.tileZero c f)) ∧
      (f.unit ≠ 0 → f.tk = 0 → f.mod.toNat < 32 → f.mod.toNat % 4 ≠ 3 →
        (f.mod.toNat % 4 = 0 → f.mod.getLsbD 2 = false →
          sk 0x51 (.tileMacI8 c f) ∧ sk 0x52 (.tileMacI4 c f) ∧ sk 0x55 (.tileMacBf16 c f)) ∧
        (f.mod.getLsbD 2 = false → sk 0x53 (.tileMacCb c f)) ∧ (f.mod.toNat % 4 = 0 → sk 0x54 (.tileMacF8 c f))) ∧
      (f.unit ≠ 0 → f.mod.toNat < 2 → sk 0x56 (.tileDrain c f) ∧ sk 0x60 (.convWin c f) ∧ sk 0x62 (.convDw c f)) ∧
      (f.unit ≠ 0 → f.mod = 0 → sk 0x61 (.convWino c f)) ∧
      (f.unit = 1 ∨ f.unit = 2 → f.ad = 0 → f.doff = 0 → f.tk = 0 → f.mod.toNat < 16 → sk 0x58 (.tileAccrd c f) ∧ sk 0x59 (.tileAccwr c f)) ∧
      (f.unit = 0 →
        (f.mod = 0 → sk 0x63 (.convPool c f) ∧ sk 0x70 (.attnPage c f) ∧ sk 0x71 (.attnAppend c f) ∧ sk 0x74 (.attnCow c f) ∧
          sk 0x75 (.attnSeqCreate c f) ∧ sk 0x80 (.scanStep c f) ∧ sk 0x81 (.scanNorm c f) ∧ sk 0x82 (.scanSlotAssign c f) ∧
          sk 0x83 (.scanInit c f)) ∧
        (f.mod = 1 → sk 0x75 (.attnSeqFork c f) ∧ sk 0x82 (.scanSlotRelease c f)) ∧
        (f.mod = 2 → sk 0x75 (.attnSeqRelease c f) ∧ sk 0x82 (.scanSlotFreezeOut c f)) ∧
        (f.mod = 3 → sk 0x82 (.scanSlotThaw c f)) ∧
        (f.mod.toNat < 2 → sk 0x72 (.attnRef c f)) ∧ (f.mod.toNat < 4 → sk 0x73 (.attnPin c f)) ∧
        (f.mod.toNat < 32 → f.mod.toNat % 4 ≠ 3 → (f.mod.toNat % 4 = 1 ∨ f.mod.toNat < 4) → sk 0x76 (.attnTable c f)) ∧
        (f.tk = 0 → f.count = 0 → (f.mod = 1 → sk 0x64 (.convHaloArm c f)) ∧ (f.mod = 0 → sk 0x64 (.convHaloDisarm c f))))) ∧
    (∀ f : FmtM, ¬ s.guardOn c f.pg f.pn →
      let sk (opc : Byte) (i : Instr) : Prop := s.ready c (wordM opc f) → exec i s = .next (s.retire c id)
      (f.mod.toNat < 2 → f.tgt = 0 → (f.mod = 1 → f.sl ≠ 31) → sk 0x88 (.moveFront c f)) ∧
      (f.src = 0 → f.tgt = 0 → f.sl = 0 → f.ring = 0 → f.mod = 0 → sk 0x89 (.moveFcancel c f)) ∧
      (let dir := f.mod.toNat % 16
       f.mod.toNat < 128 → dir < 4 → f.ctx.toNat < 8 → (f.mod.getLsbD 4 = true → f.mod.getLsbD 5 = false ∧ f.tgt = 0 ∧ (dir = 0 ∨ dir = 3)) →
       (f.mod.getLsbD 5 = true → f.src = 0 ∧ (dir = 1 ∨ dir = 3)) → (f.mod.getLsbD 4 = false → f.mod.getLsbD 5 = false → f.ring = 0) →
       (f.mod.getLsbD 6 = true → f.sl ≠ 31) → sk 0x8A (.moveDma c f)) ∧
      (f.mod.toNat < 2 → f.ctx.toNat < 8 → sk 0x8B (.movePlist c f)) ∧
      (f.ctx = 0 → (f.mod = 0 → f.ring = 0 → sk 0x8C (.moveRing c f) ∧ sk 0x91 (.moveHalo c f)) ∧
        (f.mod = 1 → f.src = 0 → sk 0x8C (.moveRing c f) ∧ sk 0x91 (.moveHalo c f))) ∧
      (f.ring = 0 → f.mod = 0 → sk 0x8D (.moveAg c f) ∧ sk 0x8E (.moveRs c f) ∧ sk 0x8F (.moveAgA c f) ∧ sk 0x90 (.moveRsA c f)) ∧
      (f.tgt = 0 → f.ctx = 0 → f.tk = 0 → (f.mod.toNat < 4 → sk 0x92 (.moveRdesc c f)) ∧
        (f.src = 0 → f.mod.toNat < 2 → sk 0x93 (.moveRadv c f)))) ∧
    (∀ f : FmtY, ¬ s.guardOn c f.pg f.pn →
      let sk (opc : Byte) (i : Instr) : Prop := s.ready c (wordY opc f) → exec i s = .next (s.retire c id)
      (f.sa = 0 → f.imm = 0 → sk 0xA0 (.syncWait c f)) ∧
      (f.tk = 0 → f.cnt = 0 → f.imm = 0 → sk 0xA1 (.syncTime c f) ∧ (f.sa = 0 → sk 0xA3 (.syncFence c f))) ∧
      (f.tk = 0 → f.sa = 0 → f.imm.toNat < 65536 → f.imm.getLsbD c.val = true → sk 0xA2 (.syncBar c f)) ∧
      (f.cnt = 0 → f.imm = 0 → sk 0xA4 (.syncBatch c f))) ∧
    (∀ f : FmtV, f.pg = 0 → f.pn = true → f.fmt.toNat < 3 → f.vc = 0 → f.ss = 0 → f.imm = 0 → f.mod = 0 →
      s.ready c (wordV 0x30 f) → exec (.vectorAdd c f) s = .next (s.retire c id))

/-- R47, R61, R64 to R68: an undefined opcode raises ILLEGAL whatever its guard: what is recorded, and that the command
stops with status INVALID (0x02) and the code and opcode in CODE. The command does not carry FLAGS.HAIL (R438). -/
def Obligations.IllegalWordRaisesIllegal : Prop :=
  ∀ (s : State) (c : ChId) (w : Dword) (r : RunCmd), opcodeDefined (opcOf w) = false → s.ready c w →
    (s.chan c).cmd.run = some r → r.cmd.hail = false →
    ∃ t, exec (.undefinedOpcode c w) s = .next t ∧ s.others t c ∧
      (t.chan c).reg CH_EXC_CODE = BitVec.ofNat 32 (1 + 256 * (opcOf w).toNat) ∧
      (t.chan c).reg CH_EXC_PC = (s.chan c).seq.pc.zeroExtend 32 ∧
      (t.chan c).reg64 CH_EXC_INSN = w ∧ (t.chan c).reg64 CH_EXC_SEQ = r.cmd.seq ∧
      (t.chan c).bit CH_STATUS 7 = true ∧
      (t.chan c).cmd.run = some { r with phase := .stopping, status := 0x02, code := BitVec.ofNat 16 (1 + 256 * (opcOf w).toNat) }

/-- R32, R155: the integer forms: exact, then clamped; a clamp sets VEC_STAT.SAT (bit 0), and nothing else of VEC_STAT changes. -/
def Obligations.VectorIntegerArithmetic : Prop :=
  ∀ (s : State) (c : ChId) (f : FmtV), f.fmt = 0 → f.ss = 0 → f.imm = 0 → f.mod = 0 →
    let x (i : Nat) : Int := (s.lane c f.va i).toInt
    let y (i : Nat) : Int := (s.lane c f.vb i).toInt
    let z (i : Nat) : Int := (s.lane c f.vc i).toInt
    let ok (t : State) (g : Nat → Int) : Prop :=
      s.lanesWritten t c f (fun i => BitVec.ofInt 32 (max (-2147483648) (min 2147483647 (g i)))) ∧
      (t.chan c).reg VEC_STAT =
        if (∃ i < 128, s.laneOn c f i = true ∧ (g i < -2147483648 ∨ 2147483647 < g i)) then (s.chan c).reg VEC_STAT ||| 1
        else (s.chan c).reg VEC_STAT
    (f.vc = 0 → s.readyV c 0x30 f → ∃ t, exec (.vectorAdd c f) s = .next t ∧ ok t (fun i => x i + y i)) ∧
    (f.vc = 0 → s.readyV c 0x31 f → ∃ t, exec (.vectorSub c f) s = .next t ∧ ok t (fun i => x i - y i)) ∧
    (f.vc = 0 → s.readyV c 0x32 f → ∃ t, exec (.vectorMul c f) s = .next t ∧ ok t (fun i => x i * y i)) ∧
    (s.readyV c 0x33 f → ∃ t, exec (.vectorFma c f) s = .next t ∧ ok t (fun i => x i * y i + z i))

/-- R153 to R157, R161, R501: the float forms, MIN and MAX of every format, and the special functions. -/
def Obligations.VectorFloatArithmetic : Prop :=
  ∀ (s : State) (c : ChId) (f : FmtV), f.ss = 0 → f.imm = 0 → f.mod = 0 → f.fmt.toNat < 3 →
    let fm := if f.fmt = 1 then fp32 else bf16
    let v (r : BitVec 4) (i : Nat) : FV := laneVal f.fmt.toNat (s.lane c r i)
    let rnd (i : Nat) : Rnd := drawRnd f.sr (s.chan c).seq.key 0 ((s.chan c).draws.get 0).toNat i
    let sum (w : Nat → FV) (i : Nat) : Word := BitVec.ofNat 32 (fm.arith (rnd i) (w i)).w
    let drew (t : State) : Prop := (t.chan c).draws.get 0 = (s.chan c).draws.get 0 + (if f.sr then 1 else 0)
    let version := getField ((s.chan c).reg NUM_LIB) 15 0
    (f.fmt ≠ 0 →
      (f.vc = 0 → s.readyV c 0x30 f → ∃ t, exec (.vectorAdd c f) s = .next t ∧ drew t ∧
        s.lanesWritten t c f (sum (fun i => (v f.va i).add (v f.vb i)))) ∧
      (f.vc = 0 → s.readyV c 0x31 f → ∃ t, exec (.vectorSub c f) s = .next t ∧ drew t ∧
        s.lanesWritten t c f (sum (fun i => (v f.va i).add (v f.vb i).neg))) ∧
      (f.vc = 0 → s.readyV c 0x32 f → ∃ t, exec (.vectorMul c f) s = .next t ∧ drew t ∧
        s.lanesWritten t c f (sum (fun i => (v f.va i).mul (v f.vb i)))) ∧
      (s.readyV c 0x33 f → ∃ t, exec (.vectorFma c f) s = .next t ∧ drew t ∧
        s.lanesWritten t c f (sum (fun i => ((v f.va i).mul (v f.vb i)).add (v f.vc i))))) ∧
    (f.sr = false → f.vc = 0 →
      (s.readyV c 0x34 f → ∃ t, exec (.vectorMin c f) s = .next t ∧
        s.lanesWritten t c f (fun i => BitVec.ofNat 32 (minmaxLane f.fmt.toNat false (s.lane c f.va i) (s.lane c f.vb i)).w)) ∧
      (s.readyV c 0x35 f → ∃ t, exec (.vectorMax c f) s = .next t ∧
        s.lanesWritten t c f (fun i => BitVec.ofNat 32 (minmaxLane f.fmt.toNat true (s.lane c f.va i) (s.lane c f.vb i)).w))) ∧
    (f.sr = false → f.vc = 0 → f.vb = 0 → f.fmt ≠ 0 →
      (s.readyV c 0x39 f → ∃ t, exec (.vectorExp c f) s = .next t ∧
        s.lanesWritten t c f (fun i => BitVec.ofNat 32 (specialLane f.fmt.toNat (expValue version (v f.va i))).w)) ∧
      (s.readyV c 0x3A f → ∃ t, exec (.vectorRcp c f) s = .next t ∧
        s.lanesWritten t c f (fun i => BitVec.ofNat 32 (specialLane f.fmt.toNat (rcpValue version (v f.va i))).w)) ∧
      (s.readyV c 0x3B f → ∃ t, exec (.vectorRsq c f) s = .next t ∧
        s.lanesWritten t c f (fun i => BitVec.ofNat 32 (specialLane f.fmt.toNat (rsqValue version (v f.va i))).w)))

/-- R47, R156, R162, R163, R167, R169, R497: the instructions that move or convert lanes. The packed forms of CVT and QUANT write
lanes 0 to 63 by `packMask` and `packLane`. -/
def Obligations.VectorMoveResults : Prop :=
  ∀ (s : State) (c : ChId) (f : FmtV), f.imm = 0 → f.fmt.toNat < 3 →
    let a := s.lane c f.va
    let b := s.lane c f.vb
    let reg := (s.chan c).seq.rs f.ss
    let rnd (i : Nat) : Rnd := drawRnd f.sr (s.chan c).seq.key 0 ((s.chan c).draws.get 0).toNat i
    let tgt := f.mod.toNat % 8
    let on := lanesOf ((s.chan c).seq.lanes f.pg f.pn)
    let conv (t : State) (g : Nat → NumR) (pack : Bool) : Prop :=
      if pack then ∀ i, i < 128 → t.lane c f.vd i =
          if packMask ((s.chan c).seq.lanes f.pg f.pn) i then packLane ((s.chan c).seq.lanes f.pg f.pn) g i else s.lane c f.vd i
      else s.lanesWritten t c f (fun i => BitVec.ofNat 32 (g i).w)
    (f.sr = false → f.vc = 0 → f.ss = 0 →
      (f.mod.toNat < 4 → s.readyV c 0x36 f → ∃ t, exec (.vectorLogic c f) s = .next t ∧
        s.lanesWritten t c f (fun i => logicOp f.mod.toNat (a i) (b i))) ∧
      (f.mod = 0 → s.readyV c 0x45 f → ∃ t, exec (.vectorPerm c f) s = .next t ∧
        s.lanesWritten t c f (fun i => a ((b i).toNat % 128)))) ∧
    (f.sr = false → f.fmt = 0 → f.vc = 0 → f.mod.toNat < 8 → tgt % 4 ≠ 3 → s.readyV c 0x37 f →
      (f.mod.getLsbD 2 = false → f.vb = 0 → ∃ t, exec (.vectorShift c f) s = .next t ∧
        s.lanesWritten t c f (fun i => shiftLane (tgt % 4) (a i) reg.toNat)) ∧
      (f.mod.getLsbD 2 = true → f.ss = 0 → ∃ t, exec (.vectorShift c f) s = .next t ∧
        s.lanesWritten t c f (fun i => shiftLane (tgt % 4) (a i) (b i).toNat))) ∧
    (f.sr = false → f.ss = 0 → f.mod = 0 → f.vc.getLsbD 3 = false → s.readyV c 0x3F f →
      ∃ t, exec (.vectorSel c f) s = .next t ∧
        s.lanesWritten t c f (fun i => if ((s.chan c).seq.rp (f.vc.extractLsb' 0 3)).getLsbD i then a i else b i)) ∧
    (f.sr = false → f.va = 0 → f.vb = 0 → f.vc = 0 → f.mod = 0 → s.readyV c 0x42 f →
      ∃ t, exec (.vectorBcast c f) s = .next t ∧ s.lanesWritten t c f (fun _ => reg.extractLsb' 0 32)) ∧
    (f.vb = 0 → f.vc = 0 → f.ss = 0 → f.mod.toNat < 16 → (f.mod.getLsbD 3 = true → tgt = 5) → s.readyV c 0x38 f →
      ∃ t, exec (.vectorCvt c f) s = .next t ∧
        (if tgt = f.fmt.toNat then s.lanesWritten t c f a
         else conv t (fun i => convertTgt tgt (rnd i) (laneVal f.fmt.toNat (a i))) (f.mod.getLsbD 3)) ∧
        ((t.chan c).reg64 (QNT_TOT 6)).toNat =
          if tgt ≠ f.fmt.toNat ∧ canClip f.fmt.toNat tgt = true then
            min (2 ^ 64 - 1) (((s.chan c).reg64 (QNT_TOT 6)).toNat + on.length)
          else ((s.chan c).reg64 (QNT_TOT 6)).toNat) ∧
    (f.vc = 0 → 2 ≤ tgt → f.mod.toNat < 256 → f.mod.toNat / 16 % 8 < 6 → (f.mod.getLsbD 3 = true → tgt = 5) →
      (if f.mod.getLsbD 7 then f.ss = 0 else f.vb = 0) → s.readyV c 0x44 f →
      ∃ t, exec (.vectorQuant c f) s = .next t ∧
        conv t (fun i => convertTgt tgt (rnd i) ((laneVal f.fmt.toNat (a i)).scale
          (-(max (-128) (min 127 (if f.mod.getLsbD 7 then (b i).toInt else reg.toInt)))))) (f.mod.getLsbD 3) ∧
        ((t.chan c).reg64 (QNT_TOT (f.mod.toNat / 16 % 8))).toNat =
          min (2 ^ 64 - 1) (((s.chan c).reg64 (QNT_TOT (f.mod.toNat / 16 % 8))).toNat + on.length))

/-- R32, R48, R156, R158, R166, R497: the VECTOR instructions that write a scalar or a predicate register. That RSUM with FMT = 0
saturates at each node of its tree is the model's reading (log entry 14). -/
def Obligations.VectorReductionResults : Prop :=
  ∀ (s : State) (c : ChId) (f : FmtV), f.sr = false → f.vc = 0 → f.fmt.toNat < 3 →
    let q := (s.chan c).seq
    let on := lanesOf (q.lanes f.pg f.pn)
    let wrote (t : State) (g : Word) (v : Dword) : Prop :=
      (∀ i, i < 128 → t.lane c f.vd i = if s.laneOn c f i then g else s.lane c f.vd i) ∧
      (∀ r, (t.chan c).seq.rs r = (q.ws f.ss v).rs r) ∧ s.stepped t c ∧ s.others t c
    (f.vb = 0 → f.imm = 0 → f.mod = 0 → s.readyV c 0x3C f →
      ∃ t, exec (.vectorRmax c f) s = .next t ∧ (on = [] → wrote t (laneLowest f.fmt.toNat) ((laneLowest f.fmt.toNat).zeroExtend 64)) ∧
        let m := BitVec.ofNat 32 (laneBits f.fmt.toNat (maxOver f.fmt.toNat (on.map (s.lane c f.va))))
        wrote t m (m.zeroExtend 64)) ∧
    (f.vb = 0 → f.imm = 0 → f.mod = 0 → s.readyV c 0x3D f →
      ∃ t, exec (.vectorRsum c f) s = .next t ∧ (on = [] → wrote t 0 0) ∧
        let r := ((sumTree f.fmt.toNat 7 ((List.range 128).map (fun i =>
          if s.laneOn c f i then (⟨laneBits f.fmt.toNat (s.lane c f.va i), 0, false⟩ : NumR) else ⟨0, 0, false⟩))).headD ⟨0, 0, false⟩).w
        wrote t (BitVec.ofNat 32 r) (BitVec.ofNat 64 r)) ∧
    (f.ss = 0 → f.imm = 0 → f.mod.toNat < 6 → f.vd.getLsbD 3 = false → s.readyV c 0x3E f →
      ∃ t, exec (.vectorCmp c f) s = .next t ∧ s.stepped t c ∧ s.others t c ∧
        ∀ i, i < 128 → ((t.chan c).seq.rp (f.vd.extractLsb' 0 3)).getLsbD i =
          if s.laneOn c f i = true ∧ f.vd ≠ 0 then cmpLane f.fmt.toNat f.mod.toNat (s.lane c f.va i) (s.lane c f.vb i)
          else (q.rp (f.vd.extractLsb' 0 3)).getLsbD i) ∧
    (f.imm = 0 → f.mod.toNat < 32 → 3 ≤ f.mod.toNat % 8 → s.readyV c 0x43 f →
      let val (r : BitVec 4) (i : Nat) : FV := laneVal f.fmt.toNat (s.lane c r i)
      let m := on.foldl (fun m i => maxIgnore (maxIgnore m (val f.va i)) (val f.vb i).neg) (.fin false 0 0)
      let sh := rowShift m (f.mod.toNat % 8) (f.mod.toNat / 8)
      ∃ t, exec (.vectorQshift c f) s = .next t ∧ -128 ≤ sh ∧ sh ≤ 127 ∧ wrote t (BitVec.ofInt 32 sh) (BitVec.ofInt 64 sh)) ∧
    (f.vd = 0 → f.vb = 0 → f.mod = 0 → f.imm.toNat < 128 → s.readyV c 0x46 f →
      exec (.vectorExtr c f) s = .next (s.retire c (fun q =>
        if s.laneOn c f f.imm.toNat then q.ws f.ss ((s.lane c f.va f.imm.toNat).zeroExtend 64) else q)))

/-- R32, R74, R164, R497: the memory vector of 128 elements at a[VA] + IMM × size. -/
def Obligations.VectorMemoryResults : Prop :=
  ∀ (s : State) (c : ChId) (f : FmtV) (a : Nat), f.fmt.toNat < 3 → okMem f = true →
    ((s.chan c).seq.ra f.va).toNat < 0x2000000 →
    (((s.chan c).seq.ra f.va).toNat : Int) + f.imm.toInt * (128 * elemSize f : Nat) = (a : Int) → a % 16 = 0 →
    a + 128 * elemSize f ≤ 0x2000000 →
    (f.sr = false → s.readyV c 0x40 f →
      ∃ t, exec (.vectorLd c f) s = .next t ∧ (t.chan c).spad.mem = (s.chan c).spad.mem ∧ s.stepped t c ∧ s.others t c ∧
        ∀ i, i < 128 → t.lane c f.vd i = if s.laneOn c f i then
            widen f (leNat (rdBytes (s.chan c).spad.mem (a + elemSize f * i) (elemSize f))) else s.lane c f.vd i) ∧
    (s.readyV c 0x41 f →
      let g (i : Nat) : NumR := narrow f (drawRnd f.sr (s.chan c).seq.key 0 ((s.chan c).draws.get 0).toNat i) (s.lane c f.vd i)
      (s.chan c).mergeBusy a (storeBytes ((s.chan c).seq.lanes f.pg f.pn) (elemSize f) g) = false →
      (∀ e ∈ (s.chan c).spad.err, a / 16 ≤ e.1 → e.1 * 16 < a + 128 * elemSize f → e.2 ≠ 2) →
      ∃ t, exec (.vectorSt c f) s = .next t ∧ s.stepped t c ∧ s.others t c ∧ (t.chan c).seq.v = (s.chan c).seq.v ∧
        ∀ b, rd8 (t.chan c).spad.mem b =
          if a ≤ b ∧ b < a + 128 * elemSize f ∧ s.laneOn c f ((b - a) / elemSize f) = true then
            (leBytes (elemSize f) (g ((b - a) / elemSize f)).w).getD ((b - a) % elemSize f) 0
          else rd8 (s.chan c).spad.mem b)

/-- R42, R46, R82, R126 to R139, R161: what issuing a TILE instruction does: the arrays' queues take it with the generator key of this
moment, and the ring its record names is bound to the arrays. -/
def Obligations.TileInstructionsQueue : Prop :=
  ∀ (s : State) (c : ChId) (f : FmtD), (s.chan c).arrRoom f.unit = true →
    let b := rdBytes (s.chan c).spad.mem ((s.chan c).seq.descAddr f) 64
    let e := arrEng (if f.unit = 2 then 1 else 0) f.unit
    let entered (t : State) (i : ArrIns) : Prop := (t.chan c).issued = (s.chan c).issued + 1 ∧
      ∀ k : Fin 2, ((t.chan c).arr k).queue = ((s.chan c).arr k).queue ++ (if k ∈ unitArrs f.unit then [i] else [])
    let entry (opc : Byte) : ArrIns := mkArrIns s c opc f ((s.chan c).seq.descAddr f)
    let queued (t : State) (opc : Byte) : Prop :=
      let cons := (recRing (entry opc) b).toList.map (·.1)
      let prod := (recOut (entry opc) b).toList
      s.queuedBinding t c e e cons prod ∧ entered t { entry opc with binds := ((s.chan c).bindSides e e cons prod {}).2 }
    let plain (t : State) (opc : Byte) : Prop := queued t opc ∧ (t.chan c).seq.outst = (s.chan c).seq.outst
    (f.unit ≠ 0 → f.tk = 0 → f.count = 0 → f.mod = 0 → s.readyD c 0x50 f → ∃ t, exec (.tileLoad c f) s = .next t ∧ plain t 0x50) ∧
    (f.unit ≠ 0 → f.tk = 0 → macMod f.mod false false = true →
      (s.readyD c 0x51 f → ∃ t, exec (.tileMacI8 c f) s = .next t ∧ plain t 0x51) ∧
      (s.readyD c 0x52 f → ∃ t, exec (.tileMacI4 c f) s = .next t ∧ plain t 0x52) ∧
      (s.readyD c 0x55 f → ∃ t, exec (.tileMacBf16 c f) s = .next t ∧ plain t 0x55)) ∧
    (f.unit ≠ 0 → f.tk = 0 → macMod f.mod true false = true → s.readyD c 0x53 f →
      ∃ t, exec (.tileMacCb c f) s = .next t ∧ plain t 0x53) ∧
    (f.unit ≠ 0 → f.tk = 0 → macMod f.mod false true = true → s.readyD c 0x54 f →
      ∃ t, exec (.tileMacF8 c f) s = .next t ∧ plain t 0x54) ∧
    (f.unit ≠ 0 → f.mod.toNat < 2 → s.readyD c 0x56 f →
      ∃ t, exec (.tileDrain c f) s = .next t ∧ queued t 0x56 ∧ s.began t c f.tk) ∧
    (f.unit ≠ 0 → f.tk = 0 → f.mod = 0 → s.readyD c 0x57 f → ∃ t, exec (.tileZero c f) s = .next t ∧ plain t 0x57) ∧
    (accForm f = true → f.count.toNat ≠ 0 → f.count.toNat ≤ 4096 → s.guardOn c f.pg f.pn →
      (s.chan c).seq.vpend.getLsbD (f.mod.toNat % 16) = false →
      (s.ready c (wordD 0x58 f) → ∃ t, exec (.tileAccrd c f) s = .next t ∧ s.onlyQueued t c ∧ entered t (mkArrIns s c 0x58 f 0) ∧
        (t.chan c).seq.vpend.getLsbD (f.mod.toNat % 16) = true) ∧
      (s.ready c (wordD 0x59 f) → ∃ t, exec (.tileAccwr c f) s = .next t ∧ s.onlyQueued t c ∧
        entered t { mkArrIns s c 0x59 f 0 with data := ((s.chan c).seq.rv (f.mod.extractLsb' 0 4)).toList }))

/-- R42, R82, R175, R179, R190, R192, R198, R201: what issuing a CONV instruction does. The record of CONV.HALO is the 64 bytes at its
address, here free of errors. -/
def Obligations.WindowInstructionsQueue : Prop :=
  ∀ (s : State) (c : ChId) (f : FmtD), (s.chan c).win.queue.length < 4 →
    let accepted (t : State) (opc : Byte) : Prop :=
      (t.chan c).issued = (s.chan c).issued + 1 ∧ s.stepped t c ∧ s.others t c ∧ s.began t c f.tk ∧
      ((s.chan c).win.queue = [] → (∀ k : Fin 2, ((s.chan c).win.slots.get k).isSome = true) →
        let i := mkDIns s c opc f ((s.chan c).seq.descAddr f)
        let r := convSides i (rdBytes (s.chan c).spad.mem ((s.chan c).seq.descAddr f) 128)
        s.queuedBinding t c .win .win r.1 r.2 ∧ (t.chan c).win.slots = (s.chan c).win.slots ∧
        (t.chan c).win.queue = [{ i with binds := ((s.chan c).bindSides .win .win r.1 r.2 {}).2 }])
    (f.unit ≠ 0 → f.mod.toNat < 2 → s.readyD c 0x60 f → ∃ t, exec (.convWin c f) s = .next t ∧ accepted t 0x60) ∧
    (f.unit ≠ 0 → f.mod = 0 → s.readyD c 0x61 f → ∃ t, exec (.convWino c f) s = .next t ∧ accepted t 0x61) ∧
    (f.unit ≠ 0 → f.mod.toNat < 2 → s.readyD c 0x62 f → ∃ t, exec (.convDw c f) s = .next t ∧ accepted t 0x62) ∧
    (f.unit = 0 → f.mod = 0 → s.readyD c 0x63 f → ∃ t, exec (.convPool c f) s = .next t ∧ accepted t 0x63) ∧
    (f.unit = 0 → f.tk = 0 → f.count = 0 → s.readyD c 0x64 f → (s.chan c).win.queue = [] → (s.chan c).spad.err = [] →
      let b := rdBytes (s.chan c).spad.mem ((s.chan c).seq.descAddr f) 64
      let h := field b 0 1
      let r : BitVec 6 := BitVec.ofNat 6 (field b 1 1)
      h < 4 → field b 1 1 < 64 → zeroBytes b 2 4 = true → field b 12 1 < 128 → zeroBytes b 13 64 = true →
      (f.mod = 1 → field b 4 4 % 128 = 0 → field b 4 4 ≠ 0 → ((s.chan c).halo h).armed = false →
        ((s.chan c).ring r).valid = true → ((s.chan c).ring r).prod = none → ((s.chan c).ring r).cons = none →
        ((s.chan c).ring r).fill = 0 →
        ∃ t, exec (.convHaloArm c f) s = .next t ∧ s.stepped t c ∧ s.others t c ∧
          ((t.chan c).ring r).prod = some (.halo, 1) ∧ ((t.chan c).ring r).cons = some (.halo, 1) ∧
          (t.chan c).halo h = { ring := r, armed := true, sch := BitVec.ofNat 4 (field b 12 1),
                                sdev := BitVec.ofNat 3 (field b 12 1 / 16), next := BitVec.ofNat 32 (field b 8 4),
                                rowb := BitVec.ofNat 32 (field b 4 4), first := BitVec.ofNat 32 (field b 8 4) }) ∧
      (f.mod = 0 → ((s.chan c).halo h).armed = true → ((s.chan c).ring ((s.chan c).halo h).ring).prod = some (.halo, 1) →
        ((s.chan c).ring ((s.chan c).halo h).ring).cons = some (.halo, 1) →
        ∃ t, exec (.convHaloDisarm c f) s = .next t ∧ s.stepped t c ∧ s.others t c ∧ ((t.chan c).halo h).armed = false ∧
          ((t.chan c).ring ((s.chan c).halo h).ring).prod = none ∧ ((t.chan c).ring ((s.chan c).halo h).ring).cons = none))

/-- R42, R82, R212, R222 to R225, R228, R231: what issuing an ATTN instruction does. -/
def Obligations.AttentionInstructionsQueue : Prop :=
  ∀ (s : State) (c : ChId) (f : FmtD), f.unit = 0 →
    let en : Prop := (s.chan c).bit PTU_CTRL 0 = true
    let attn (t : State) (opc : Byte) : Prop := s.onlyQueued t c ∧ s.began t c f.tk ∧
      (t.chan c).attn.queue = (s.chan c).attn.queue ++ [mkDIns s c opc f ((s.chan c).seq.descAddr f)]
    let ptu (t : State) (opc : Byte) (g : FmtD) : Prop := s.onlyQueued t c ∧ s.began t c f.tk ∧
      (t.chan c).ptu.queue = (s.chan c).ptu.queue ++ [mkDIns s c opc g ((s.chan c).seq.descAddr f)]
    ((s.chan c).attn.queue.length < 4 →
      (en → f.mod = 0 → (s.chan c).arrRoom 3 = true → s.readyD c 0x70 f → ∃ t, exec (.attnPage c f) s = .next t ∧ s.began t c f.tk ∧
        let r : BitVec 6 := BitVec.ofNat 6 (field (rdBytes (s.chan c).spad.mem ((s.chan c).seq.descAddr f) 64) 24 1)
        s.queuedBinding t c .attn .dma [r] [r] ∧
        (t.chan c).attn.queue = (s.chan c).attn.queue ++
          [{ mkDIns s c 0x70 f ((s.chan c).seq.descAddr f) with binds := ((s.chan c).bindSides .attn .dma [r] [r] {}).2 }] ∧
        ∀ k : Fin 2, ((t.chan c).arr k).queue =
          ((s.chan c).arr k).queue ++ [{ mkArrIns s c 0x70 f ((s.chan c).seq.descAddr f) with unit := 3 }]) ∧
      (en → f.mod = 0 → s.readyD c 0x71 f → ∃ t, exec (.attnAppend c f) s = .next t ∧ attn t 0x71) ∧
      ((f.mod.toNat < 3 ∨ (f.mod.toNat < 32 ∧ f.mod.toNat % 4 = 1)) → s.readyD c 0x76 f → ∃ t, exec (.attnTable c f) s = .next t ∧ attn t 0x76)) ∧
    (en → (s.chan c).ptu.queue.length < 8 →
      (f.mod.toNat < 2 → s.readyD c 0x72 f → ∃ t, exec (.attnRef c f) s = .next t ∧ ptu t 0x72 f) ∧
      (f.mod.toNat < 4 → s.readyD c 0x73 f → ∃ t, exec (.attnPin c f) s = .next t ∧ ptu t 0x73 f) ∧
      (f.mod = 0 → s.readyD c 0x74 f → ∃ t, exec (.attnCow c f) s = .next t ∧ ptu t 0x74 f) ∧
      (f.mod = 0 → s.readyD c 0x75 f → ∃ t, exec (.attnSeqCreate c f) s = .next t ∧ ptu t 0x75 f) ∧
      (f.mod = 1 → s.readyD c 0x75 f → ∃ t, exec (.attnSeqFork c f) s = .next t ∧ ptu t 0x75 f) ∧
      (f.mod = 2 → s.readyD c 0x75 f → ∃ t, exec (.attnSeqRelease c f) s = .next t ∧ ptu t 0x75 f))

/-- R42, R82, R245, R247, R257 to R261, R498: what issuing a SCAN instruction does when the queue is empty: its record is taken, and it waits
in the queue or, when its slot does not have its state, in the fence. -/
def Obligations.ScanInstructionsQueue : Prop :=
  ∀ (s : State) (c : ChId) (f : FmtD), f.unit = 0 → (s.chan c).scan.queue = [] → (s.chan c).scan.fence.length < 4 →
    (s.chan c).spad.err = [] →
    let b := rdBytes (s.chan c).spad.mem ((s.chan c).seq.descAddr f) 64
    let ok (t : State) (opc : Byte) : Prop :=
      let r := if opc = 0x80 then stepRings b else ([], [])
      let i : DIns := { mkDIns s c opc f ((s.chan c).seq.descAddr f) with
        rcd := b, binds := ((s.chan c).bindSides .scan .scan r.1 r.2 {}).2 }
      s.queuedBinding t c .scan .scan r.1 r.2 ∧ s.began t c f.tk ∧
      if (s.chan c).mustFence i then (t.chan c).scan.queue = [] ∧ (t.chan c).scan.fence = (s.chan c).scan.fence ++ [i]
      else (t.chan c).scan.queue = [i] ∧ (t.chan c).scan.fence = (s.chan c).scan.fence
    let good (opc : Byte) : Prop := lowest (scanRecCauses (mkDIns s c opc f ((s.chan c).seq.descAddr f)) b) = none
    let kept : Prop := ((s.chan c).slot (field b 0 1)).state ≠ 3
    (f.mod = 0 → kept → lowest (stepCauses b) = none →
      ((s.chan c).bindSides .scan .scan (stepRings b).1 (stepRings b).2 {}).2.bad = false → s.readyD c 0x80 f → ∃ t, exec (.scanStep c f) s = .next t ∧ ok t 0x80) ∧
    (f.mod = 0 → kept → good 0x81 → s.readyD c 0x81 f → ∃ t, exec (.scanNorm c f) s = .next t ∧ ok t 0x81) ∧
    (f.mod = 0 → kept → good 0x83 → s.readyD c 0x83 f → ∃ t, exec (.scanInit c f) s = .next t ∧ ok t 0x83) ∧
    (good 0x82 → f.count = 1 → s.readyD c 0x82 f →
      (f.mod = 0 → ∃ t, exec (.scanSlotAssign c f) s = .next t ∧ ok t 0x82) ∧
      (f.mod = 1 → ∃ t, exec (.scanSlotRelease c f) s = .next t ∧ ok t 0x82) ∧
      (f.mod = 2 → ∃ t, exec (.scanSlotFreezeOut c f) s = .next t ∧ ok t 0x82) ∧
      (f.mod = 3 → ∃ t, exec (.scanSlotThaw c f) s = .next t ∧ ok t 0x82)) ∧
    (f.count ≠ 1 → s.readyD c 0x82 f →
      let desc : Host.Outcome State Fault Refusal := .next (s.except c .desc ⟨(s.chan c).seq.pc, wordD 0x82 f⟩ false)
      (f.mod = 0 → exec (.scanSlotAssign c f) s = desc) ∧ (f.mod = 1 → exec (.scanSlotRelease c f) s = desc) ∧
      (f.mod = 2 → exec (.scanSlotFreezeOut c f) s = desc) ∧ (f.mod = 3 → exec (.scanSlotThaw c f) s = desc))

/-- R80, R81, R97, R98, R105: the whole next states. -/
def Obligations.FrontAndRingInstructions : Prop :=
  ∀ (s : State) (c : ChId) (f : FmtM), s.guardOn c f.pg f.pn → f.tgt = 0 →
    let x := s.chan c
    let a := x.seq.ra f.src
    let l := x.seq.rs f.sl
    let l1 := x.seq.rs (f.sl + 1)
    let d := x.ring f.ring
    let front (strided : Bool) (rowLen rows pitch : Nat) : Prop :=
      a.toNat % 64 = 0 → rowLen % 128 = 0 → rowLen ≠ 0 → rows ≠ 0 → x.fits true a.toNat ((rows - 1) * pitch + rowLen) →
      d.valid = true → (d.prod = none ∨ ∃ n, d.prod = some (.front, n)) → x.front.queue.length < 8 → s.ready c (wordM 0x88 f) →
      exec (.moveFront c f) s = .next (s.retireWith c (fun x =>
        ({ x with front := { x.front with queue := x.front.queue ++
             [(⟨false, f.ctx, f.tk, f.ring, a.toNat, rowLen * rows, strided, rowLen, pitch, x.org (wordM 0x88 f)⟩ : FrontIns)] }
                  seq := x.seq.begin f.tk }).bindProd f.ring .front))
    (f.mod = 0 → front false l.toNat 1 0) ∧
    (f.mod = 1 → f.sl ≠ 31 → getField l1 63 32 = 0 → getField l1 31 0 % 64 = 0 → getField l 31 0 ≤ getField l1 31 0 →
      front true (getField l 31 0) (getField l 63 32) (getField l1 31 0)) ∧
    (f.src = 0 → f.sl = 0 → f.ring = 0 → f.mod = 0 → x.front.queue.length < 8 → s.ready c (wordM 0x89 f) →
      exec (.moveFcancel c f) s = .next (s.retireWith c (fun x =>
        { x with front := { x.front with queue := x.front.queue ++
             [(⟨true, f.ctx, f.tk, 0, 0, 0, false, 0, 0, x.org (wordM 0x89 f)⟩ : FrontIns)] }
                 seq := x.seq.begin f.tk }))) ∧
    (f.ctx = 0 → f.tk = 0 → f.mod.toNat < 4 → d.prod = none → d.cons = none → s.ready c (wordM 0x92 f) →
      (l = 0 → exec (.moveRdesc c f) s = .next (s.retireWith c (fun x => x.setRing f.ring {}))) ∧
      (l ≠ 0 → a.toNat % 128 = 0 → l.toNat % 128 = 0 → a.toNat + l.toNat ≤ 0x2000000 →
        exec (.moveRdesc c f) s = .next (s.retireWith c (fun x => x.setRing f.ring
          { base := BitVec.ofNat 25 a.toNat, size := BitVec.ofNat 26 l.toNat,
            head := if f.mod.getLsbD 1 then BitVec.ofNat 32 l.toNat else 0, tail := 0, valid := true, live := f.mod.getLsbD 0 })))) ∧
    (f.src = 0 → f.ctx = 0 → f.tk = 0 → d.valid = true → l.toNat % 128 = 0 → s.ready c (wordM 0x93 f) →
      (f.mod = 0 → d.prod = none → l.toNat ≤ d.free → exec (.moveRadv c f) s =
        .next (s.retireWith c (fun x => x.setRing f.ring { d with head := d.head + BitVec.ofNat 32 l.toNat }))) ∧
      (f.mod = 1 → d.cons = none → l.toNat ≤ d.fill → exec (.moveRadv c f) s =
        .next (s.retireWith c (fun x => x.setRing f.ring { d with tail := d.tail + BitVec.ofNat 32 l.toNat }))))

/-- R113, R114, R118: what issuing a transfer does. A one-row transfer's length fits 33 bits; a ring side moves whole 128-byte
steps; `ext` is the extent of a plain side's rows, of which an empty transfer has none but an address (R31). -/
def Obligations.DmaInstructions : Prop :=
  ∀ (s : State) (c : ChId) (f : FmtM), s.guardOn c f.pg f.pn → f.ctx.toNat < 8 → (s.chan c).bit DMA_CTRL 0 = true →
    (s.chan c).dma.queue.length < 8 →
    let x := s.chan c
    let q := x.seq
    let queued (t : State) (d : DmaSet) (prod cons : Bool) : Prop :=
      (t.chan c).dma.queue = x.dma.queue ++ [(f.ctx.extractLsb' 0 3, d)] ∧ s.began t c f.tk ∧ s.stepped t c ∧ s.others t c ∧
      (t.chan c).spad = x.spad ∧ (t.chan c).dram = x.dram ∧ (t.chan c).seq.s = q.s ∧ (t.chan c).seq.a = q.a ∧
      ((t.chan c).ring f.ring).prod = (if prod then bindAdd (x.ring f.ring).prod .dma else (x.ring f.ring).prod) ∧
      ((t.chan c).ring f.ring).cons = (if cons then bindAdd (x.ring f.ring).cons .dma else (x.ring f.ring).cons)
    (let dir := f.mod.toNat % 16
     let tr := f.mod.getLsbD 4
     let sr := f.mod.getLsbD 5
     let twoD := f.mod.getLsbD 6
     let len := q.rs f.sl
     let pitch := if twoD then q.rs (f.sl + 1) else 0
     let rowLen := if twoD then getField len 31 0 else len.toNat
     let rows := if twoD then getField len 63 32 else 1
     let ext (p : Nat) : Nat := (rows - 1) * p + rowLen
     f.mod.toNat < 128 → dir < 4 → ¬(tr = true ∧ sr = true) → ¬(tr = true ∧ (dir = 1 ∨ dir = 2)) → ¬(sr = true ∧ (dir = 0 ∨ dir = 2)) →
     (sr = true → f.src = 0) → (tr = true → f.tgt = 0) → (sr = false → tr = false → f.ring = 0) → (twoD = true → f.sl ≠ 31) →
     (sr = false → x.fits (dir = 0 || dir = 2) (q.ra f.src).toNat (if rowLen * rows = 0 then 1 else ext (getField pitch 31 0))) →
     (tr = false → x.fits (dir = 1 || dir = 2) (q.ra f.tgt).toNat (if rowLen * rows = 0 then 1 else ext (getField pitch 63 32))) →
     (tr = true ∨ sr = true → (x.ring f.ring).valid = true ∧ rowLen * rows % 128 = 0) →
     (tr = true → bindOk (x.ring f.ring).prod .dma = true) → (sr = true → bindOk (x.ring f.ring).cons .dma = true) →
     (twoD = false → len.toNat < 2 ^ 33) → (twoD = true → sr = true → getField pitch 31 0 = 0) →
     (twoD = true → tr = true → getField pitch 63 32 = 0) → s.ready c (wordM 0x8A f) →
     ∃ t, exec (.moveDma c f) s = .next t ∧
       queued t ⟨x.issued, false, false, if sr then 0 else q.ra f.src, if tr then 0 else q.ra f.tgt, len, pitch, f.mod, f.ring, f.tk,
                 ⟨q.pc, wordM 0x8A f⟩⟩ tr sr) ∧
    (let len := (q.rs f.sl).toNat
     let first := (q.ra f.tgt).toNat
     f.mod.toNat < 2 → (q.ra f.src).toNat % 4 = 0 → first % 128 = 0 → first < 4096 → len % 128 = 0 →
     (x.ring f.ring).valid = true → bindOk (x.ring f.ring).prod .dma = true →
     x.fits true (q.ra f.src).toNat (if len = 0 then 1 else 4 * ((first + len + 4095) / 4096)) → s.ready c (wordM 0x8B f) →
     ∃ t, exec (.movePlist c f) s = .next t ∧
       queued t ⟨x.issued, false, true, q.ra f.src, q.ra f.tgt, q.rs f.sl, 0, f.mod, f.ring, f.tk, ⟨q.pc, wordM 0x8B f⟩⟩ true false)

/-- R202, R370, R377, R378: what issuing link work does. A collective may start at once, which leaves its place in the list. -/
def Obligations.LinkInstructions : Prop :=
  ∀ (s : State) (c : ChId) (f : FmtM) (r : RunCmd), s.guardOn c f.pg f.pn → (s.chan c).linkFull = false → (s.chan c).cmd.run = some r →
    let x := s.chan c
    let q := x.seq
    let noted (t : State) : Prop := s.began t c f.tk ∧ s.stepped t c ∧ ∃ r', (t.chan c).cmd.run = some r' ∧ r'.linkWork = true
    let xfer (t : State) (halo : Bool) (opc : Byte) (slot row len : Nat) : Prop := noted t ∧ s.others t c ∧
      (t.chan c).spad = x.spad ∧ (t.chan c).dram = x.dram ∧
      (t.chan c).link.xfers = x.link.xfers ++
        [{ halo := halo, ch := Fin.ofNat 16 (getField (q.ra f.tgt) 3 0), dev := getField (q.ra f.tgt) 6 4, slot := slot, row := row,
           len := len, src := (q.ra f.src).toNat, ring := if f.mod = 1 then some f.ring else none, tk := f.tk,
           org := ⟨q.pc, wordM opc f⟩ }] ∧
      ((t.chan c).ring f.ring).cons = (if f.mod = 1 then bindAdd (x.ring f.ring).cons .link else (x.ring f.ring).cons)
    let source (n : Nat) : Prop := f.ctx = 0 ∧ n % 128 = 0 ∧
      ((f.mod = 0 ∧ f.ring = 0 ∧ (q.ra f.src).toNat % 128 = 0 ∧ (q.ra f.src).toNat < 0x2000000 ∧ (q.ra f.src).toNat + n ≤ 0x2000000) ∨
       (f.mod = 1 ∧ f.src = 0 ∧ (x.ring f.ring).valid = true ∧ bindOk (x.ring f.ring).cons .link = true))
    let coll (t : State) (rs arrival : Bool) (opc : Byte) : Prop := noted t ∧
      (t.chan c).link.colls.length = x.link.colls.length + 1 ∧
      ∃ i, (t.chan c).link.colls[x.link.colls.length]? = some i ∧ i.rs = rs ∧ i.arrival = arrival ∧ i.tag = f.ctx ∧
        i.src = (q.ra f.src).toNat ∧ i.dst = (q.ra f.tgt).toNat ∧ i.b = getField (q.rs f.sl) 31 0 ∧
        i.desc = getField (q.rs f.sl) 56 32 ∧ i.tk = f.tk ∧ i.org = ⟨q.pc, wordM opc f⟩
    (source (q.rs f.sl).toNat → (q.ra f.tgt).toNat < 1024 → s.ready c (wordM 0x8C f) →
      ∃ t, exec (.moveRing c f) s = .next t ∧ xfer t false 0x8C (getField (q.ra f.tgt) 9 7) 0 (q.rs f.sl).toNat) ∧
    (source (getField (q.rs f.sl) 31 0) → (q.ra f.tgt).toNat < 512 → s.ready c (wordM 0x91 f) →
      ∃ t, exec (.moveHalo c f) s = .next t ∧
        xfer t true 0x91 (getField (q.ra f.tgt) 8 7) (getField (q.rs f.sl) 63 32) (getField (q.rs f.sl) 31 0)) ∧
    (f.ring = 0 → f.mod = 0 → getField (q.rs f.sl) 63 57 = 0 → (q.ra f.src).toNat % 128 = 0 → (q.ra f.tgt).toNat % 128 = 0 →
      getField (q.rs f.sl) 31 0 % 128 = 0 → getField (q.rs f.sl) 56 32 % 64 = 0 →
      (q.ra f.src).toNat < 0x2000000 → (q.ra f.tgt).toNat < 0x2000000 →
      (q.ra f.src).toNat + getField (q.rs f.sl) 31 0 ≤ 0x2000000 → (q.ra f.tgt).toNat + getField (q.rs f.sl) 31 0 ≤ 0x2000000 →
      getField (q.rs f.sl) 56 32 + 192 ≤ 0x2000000 →
      (s.ready c (wordM 0x8D f) → ∃ t, exec (.moveAg c f) s = .next t ∧ coll t false false 0x8D) ∧
      (s.ready c (wordM 0x8E f) → ∃ t, exec (.moveRs c f) s = .next t ∧ coll t true false 0x8E) ∧
      (s.ready c (wordM 0x8F f) → ∃ t, exec (.moveAgA c f) s = .next t ∧ coll t false true 0x8F) ∧
      (s.ready c (wordM 0x90 f) → ∃ t, exec (.moveRsA c f) s = .next t ∧ coll t true true 0x90))

/-- R43, R47, R285, R379: the SYNC instructions and the events that end their stalls. -/
def Obligations.SyncInstructions : Prop :=
  ∀ (s : State) (c : ChId) (f : FmtY),
    let q := (s.chan c).seq
    let stalled (r : Stall) (w : Dword) : State := s.modChan c (fun x => x.modSeq (fun q => { q with stall := r, held := w }))
    (s.guardOn c f.pg f.pn →
      (f.sa = 0 → f.imm = 0 → s.ready c (wordY 0xA0 f) →
        (f.cnt.toNat ≤ (q.rt f.tk).toNat → exec (.syncWait c f) s = .next (s.retire c (fun q => q.wt f.tk (q.rt f.tk - f.cnt)))) ∧
        ((q.rt f.tk).toNat < f.cnt.toNat → f.tk ≠ 15 → f.cnt.toNat ≤ (q.rt f.tk).toNat + q.out f.tk →
          exec (.syncWait c f) s = .next (stalled .wait (wordY 0xA0 f))) ∧
        ((q.rt f.tk).toNat < f.cnt.toNat → (f.tk = 15 ∨ (q.rt f.tk).toNat + q.out f.tk < f.cnt.toNat) →
          exec (.syncWait c f) s = .next (s.except c .deadlock ⟨q.pc, wordY 0xA0 f⟩ false))) ∧
      (f.tk = 0 → f.cnt = 0 → f.imm = 0 → s.ready c (wordY 0xA1 f) →
        exec (.syncTime c f) s = .next (if (q.rs f.sa).toNat ≤ s.now.toNat then s.retire c id
          else stalled (.time (q.rs f.sa)) (wordY 0xA1 f))) ∧
      (f.tk = 0 → f.cnt = 0 → f.sa = 0 → f.imm = 0 → s.ready c (wordY 0xA3 f) →
        ((∀ k, q.out k = 0) → exec (.syncFence c f) s = .next (s.retire c id)) ∧
        ((∃ k, q.out k ≠ 0) → exec (.syncFence c f) s = .next (stalled .fence (wordY 0xA3 f)))) ∧
      (f.cnt = 0 → f.imm = 0 → s.ready c (wordY 0xA4 f) →
        (s.chan c).intake.batches.any (fun b => b.bid.toNat == (q.rs f.sa).toNat) = false →
        (s.chan c).waitingBids.contains (q.rs f.sa).toNat = false →
        ∀ p, (s.chan c).intake.past.find? (fun p => p.1.toNat == (q.rs f.sa).toNat) = some p →
          (f.tk = 15 ∨ (q.rt f.tk).toNat + p.2 ≤ 65535) →
          exec (.syncBatch c f) s = .next (s.retire c (fun q => q.wt f.tk (q.rt f.tk + BitVec.ofNat 16 p.2)))) ∧
      (f.tk = 0 → f.sa = 0 → f.imm.toNat < 65536 → f.imm.getLsbD c.val = true → (s.chan c).link.bar = none →
        (∀ k, k < 16 → f.imm.getLsbD k = true → s.bit GLB_CHLIVE k = true) → s.ready c (wordY 0xA2 f) →
        ∃ t, exec (.syncBar c f) s = .next t ∧ s.others t c ∧ (t.chan c).seq.stall = .bar ∧ (t.chan c).seq.pc = q.pc ∧
          (t.chan c).link.bar = some (f.cnt, f.imm.extractLsb' 0 16, s.fc))) ∧
    (∀ u, q.stall = .time u → (s.chan c).issues = true → u.toNat ≤ s.now.toNat →
      exec (.syncTimeRelease c) s = .next (s.retire c id)) ∧
    (∀ cnt mask at_, (s.chan c).link.bar = some (cnt, mask, at_) → mask.getLsbD c.val = true →
      (∀ d : ChId, mask.getLsbD d.val = true → s.atBar d cnt mask = true) →
      (∀ d : ChId, mask.getLsbD d.val = true → ∀ n m u, (s.chan d).link.bar = some (n, m, u) → u + 24 ≤ s.fc) →
      ∃ t, exec (.barrierRelease c) s = .next t ∧
        ∀ d, t.chan d = if mask.getLsbD d.val then (s.chan d).leaveBar else s.chan d)

/-- R298, R299, R307, R313, R403, R406: what the SERVO and BUS instructions do; a set-point whose list is full sets SPOVF instead and
is not shown here. A field of a sample that the axis has not got is a free value. -/
def Obligations.ServoAndBusInstructions : Prop :=
  ∀ (s : State) (c : ChId) (f : FmtS) (r : RunCmd), s.guardOn c f.pg f.pn → (s.chan c).cmd.run = some r → f.i = false →
    let x := s.chan c
    let q := x.seq
    let a := axisOf f
    let e (gated : Bool) : SetPoint :=
      ⟨q.rs f.sa, (q.rs f.sb).extractLsb' 0 32, (q.rs f.sb).extractLsb' 32 32, gated, r.cmd.seq, 0⟩
    (f.sd = 0 → f.imm.toNat < 16 → x.axisOk a.val = true → s.ready c (wordS 0xB0 f) →
      (f.mod = 0 → (x.servo.axis a).stage.length < 8 → exec (.servoSet c f) s = .next (s.retireWith c (fun x =>
        x.modAxis a (fun y => { y with stage := y.stage ++ [e true] })))) ∧
      (f.mod = 1 → ((x.servo.axis a).pend.filter (fun p => decide (p.act < q.rs f.sa))).length < 8 →
        exec (.servoSet c f) s = .next (s.retireWith c (fun x => x.modAxis a (fun y =>
          { y with pend := y.pend.filter (fun p => decide (p.act < q.rs f.sa)) ++ [{ e false with el := s.fc }] }))))) ∧
    (f.sa = 0 → f.sb = 0 → f.imm.toNat < 16 → f.mod.toNat < 13 → x.axisOk a.val = true → s.ready c (wordS 0xB1 f) →
      ∃ t, exec (.servoRd c f) s = .next t ∧ s.stepped t c ∧ s.others t c ∧ (t.chan c).servo = x.servo ∧
        ∀ i, (t.chan c).seq.rs i = (q.ws f.sd ((x.servo.axis a).readField
          (Config.freeWord s.free ++ Config.freeWord (s.free + 1)) f.mod.toNat)).rs i) ∧
    (f.sd = 0 → f.sa = 0 → f.sb = 0 → f.imm.toNat < 16 → f.mod.toNat < 4 → s.ready c (wordS 0xB2 f) →
      exec (.servoLearn c f) s = .next (s.retireWith c (fun x => x.modAxis a (fun y => { y with rcNext := some f.mod.toNat })))) ∧
    (f.sd = 0 → f.sb = 0 → f.imm.toNat < 512 → okA f.sa = true → s.ready c (wordS 0xC0 f) → x.spad.err = [] →
      let p := (q.ra (aOf f.sa)).toNat
      let m := rdBytes x.spad.mem p 72
      let fm := field m 4 1
      p % 8 = 0 → p + 72 ≤ 0x2000000 → x.slotEn f.imm.toNat = true → (x.canMode = 1 ∨ x.canMode = 3) →
      field m 0 4 < 2 ^ 31 → fm < 64 → zeroBytes m 5 8 = true → ¬(bitOf (field m 0 4) 30 = true ∧ bitOf fm 4 = true) →
      (bitOf fm 5 = true → bitOf fm 4 = true) → (bitOf fm 4 = true → x.bit CAN_CTRL 2 = true) → x.can.off = false →
      x.canSlot f.imm.toNat = none →
      ∃ t, exec (.busSend c f) s = .next t ∧ s.stepped t c ∧ s.others t c ∧ s.began t c f.mod ∧
        ∃ msg, (t.chan c).canSlot f.imm.toNat = some ⟨f.imm.toNat, msg, none⟩ ∧ msg.rcd = m ∧
          msg.tok = some (f.mod, ⟨q.pc, wordS 0xC0 f⟩)) ∧
    (f.sa = 0 → f.sb = 0 → f.imm.toNat < 512 → s.ready c (wordS 0xC1 f) → x.slotEn f.imm.toNat = true → x.bit CAN_CTRL 4 = false →
      (f.mod = 15 ∨ q.rt f.mod ≠ 0xFFFF) →
      (x.canSlot f.imm.toNat = none → ∃ t, exec (.busCancel c f) s = .next t ∧ s.stepped t c ∧ s.others t c ∧
        (∀ i, (t.chan c).seq.rs i = (q.ws f.sd 0).rs i) ∧ (t.chan c).seq.rt f.mod = if f.mod = 15 then 0 else q.rt f.mod + 1) ∧
      (∀ old, x.canSlot f.imm.toNat = some ⟨f.imm.toNat, old, none⟩ → old.begun = false →
        ∃ t, exec (.busCancel c f) s = .next t ∧ s.stepped t c ∧ s.others t c ∧ (t.chan c).canSlot f.imm.toNat = none ∧
          (∀ i, (t.chan c).seq.rs i = (q.ws f.sd 1).rs i) ∧ (t.chan c).reg CAN_CANCEL = x.reg CAN_CANCEL + 1) ∧
      (∀ old, x.canSlot f.imm.toNat = some ⟨f.imm.toNat, old, none⟩ → old.begun = true →
        ∃ t, exec (.busCancel c f) s = .next t ∧ s.stepped t c ∧ s.others t c ∧
          (t.chan c).canSlot f.imm.toNat = some ⟨f.imm.toNat, old, none⟩ ∧
          (∀ i, (t.chan c).seq.rs i = (q.ws f.sd 0).rs i) ∧ (t.chan c).reg CAN_CANCEL = x.reg CAN_CANCEL) ∧
      (∀ old held, x.canSlot f.imm.toNat = some ⟨f.imm.toNat, old, some held⟩ → old.begun = true →
        ∃ t, exec (.busCancel c f) s = .next t ∧ s.stepped t c ∧ s.others t c ∧
          (t.chan c).canSlot f.imm.toNat = some ⟨f.imm.toNat, old, none⟩ ∧
          (∀ i, (t.chan c).seq.rs i = (q.ws f.sd 1).rs i) ∧ (t.chan c).reg CAN_CANCEL = x.reg CAN_CANCEL + 1))

/-- R30, R47, R49, R50, R64, R65, R342, R345, R354: what the SYS instructions do. That a write of a register which the window does
not show only steps on is the model's choice (log entry 16). -/
def Obligations.SystemInstructions : Prop :=
  ∀ (s : State) (c : ChId) (f : FmtS) (r : RunCmd), s.guardOn c f.pg f.pn → (s.chan c).cmd.run = some r → f.i = false →
    let x := s.chan c
    let q := x.seq
    let o := f.imm.toNat
    (f.sa = 0 → f.sb = 0 → f.imm = 0 → f.mod = 0 →
      (s.ready c (wordS 0xD0 f) → exec (.sysTime c f) s = .next (s.retire c (fun q => q.ws f.sd s.now))) ∧
      (s.ready c (wordS 0xD1 f) → exec (.sysEpoch c f) s = .next (s.retire c (fun q => q.ws f.sd ((x.reg ALM_EPOCH).zeroExtend 64))))) ∧
    (f.sd = 0 → f.sb = 0 → f.imm = 0 → f.mod = 0 →
      (s.ready c (wordS 0xD2 f) → exec (.sysSeed c f) s = .next (s.retire c (fun q => { q with key := q.rs f.sa }))) ∧
      (s.ready c (wordS 0xD4 f) → ∃ t, exec (.sysSig c f) s = .next t ∧ s.stepped t c ∧ s.others t c ∧
        (t.chan c).reg CH_SIG = (q.rs f.sa).extractLsb' 0 32 ∧ (t.chan c).cmd.sigUnread = true ∧
        (x.cmd.sigUnread = true → (t.chan c).bit CH_STATUS 8 = true))) ∧
    (f.mod = 0 → f.sa = 0 → f.sb = 0 → 0x10000 ≤ o → o < 0x200000 → o % 4 = 0 → s.ready c (wordS 0xD3 f) →
      ∃ t, exec (.sysCsrRead c f) s = .next t ∧ s.stepped t c ∧
        ∀ i, (t.chan c).seq.rs i = (q.ws f.sd ((s.chRead c (.csr c) o).1.zeroExtend 64)).rs i) ∧
    (f.mod = 1 → f.sd = 0 → f.sa = 0 → 0x10000 ≤ o → o < 0x200000 → o % 4 = 0 → s.ready c (wordS 0xD3 f) →
      (csrBad o true = false → s.csrHidden c o = false →
        exec (.sysCsrWrite c f) s = .next ((s.chWrite c (.csr c) o ((q.rs f.sb).extractLsb' 0 32)).modChan c
          (fun x => x.modSeq (fun p => p.step q.pc)))) ∧
      (s.csrHidden c o = true → exec (.sysCsrWrite c f) s = .next (s.retire c id))) ∧
    (f.sd = 0 → f.sa = 0 → f.sb = 0 → f.mod = 0 →
      (s.ready c (wordS 0xD6 f) → exec (.sysMark c f) s = .next (s.retireWith c (fun x =>
        x.modRun (fun r => { r with mark := f.imm, markAc := r.acs })))) ∧
      (f.imm = 0 → s.ready c (wordS 0xD7 f) → x.bit FRZ_STAT 0 = false → exec (.sysFreeze c f) s = .next (s.retire c id)) ∧
      (f.imm = 0 → s.ready c (wordS 0xD5 f) → r.cmd.hail = false →
        ∃ t, exec (.sysTrap c f) s = .next t ∧ s.others t c ∧ (t.chan c).reg CH_EXC_CODE = 0xD50E ∧
          (t.chan c).reg CH_EXC_PC = q.pc.zeroExtend 32 ∧ (t.chan c).bit CH_STATUS 7 = true ∧
          (t.chan c).cmd.run = some { r with phase := .stopping, status := 2, code := 0xD50E }))

/-- R62, whole: writes that would pass the ring's bounds are ignored and set an error bit (CH_STATUS bits 4 and 5); the others
set the index. The port must be up, as for every host write (R445, R461). -/
def Obligations.DoorbellWrites : Prop :=
  ∀ (s : State) (c : ChId) (v : Word), s.hostUp = true →
    let x := s.chan c
    (∃ t, exec (.chCmdTailWrite c v) s = .next t ∧ s.others t c ∧
      if x.cmdSize < (v - x.reg CH_CMD_HEAD).toNat then
        (t.chan c).reg CH_CMD_TAIL = x.reg CH_CMD_TAIL ∧ (t.chan c).bit CH_STATUS 4 = true
      else t = s.modChan c (fun x => x.setReg CH_CMD_TAIL v)) ∧
    (∃ t, exec (.chCplConsWrite c v) s = .next t ∧ s.others t c ∧
      if (x.reg CH_CPL_PROD - x.reg CH_CPL_CONS).toNat < (v - x.reg CH_CPL_CONS).toNat then
        (t.chan c).reg CH_CPL_CONS = x.reg CH_CPL_CONS ∧ (t.chan c).bit CH_STATUS 5 = true
      else t = s.modChan c (fun x => x.setReg CH_CPL_CONS v))

/-- R50, R55, R56, R63, R427, R431, R432, R446: the way of a record into the channel. -/
def Obligations.RecordsAreAccepted : Prop :=
  ∀ (s : State) (c : ChId),
    let x := s.chan c
    let b (k : Nat) : List Byte := rdBytes s.hostMem ((x.reg64 CH_CMD_BASE).toNat + 64 * (k % x.cmdSize)) 64
    (x.fenced = false → x.bit CH_CTRL 0 = true → x.reg CH_CMD_HEAD ≠ x.reg CH_CMD_TAIL → x.cmd.table.length < 8 → x.cmd.fetch = none →
      x.cmd.arrived = none → exec (.recordFetch c) s = .next (s.modChan c (fun x => x.modCmd (fun d =>
        { d with fetch := some (x.reg CH_CMD_HEAD).toNat, again := false })))) ∧
    (∀ k, x.cmd.fetch = some k → x.fenced = false → x.bit CH_CTRL 0 = true →
      ∃ t, exec (.recordArrival c) s = .next t ∧ s.others t c ∧ (t.chan c).cmd.fetch = none ∧
        (t.chan c).reg CH_CMD_HEAD = x.reg CH_CMD_HEAD ∧
        (rcdCrcOk (b k) = false → (t.chan c).bit CH_CTRL 0 = false ∧ (t.chan c).bit CH_STATUS 3 = true ∧ (t.chan c).cmd.arrived = x.cmd.arrived) ∧
        (rcdCrcOk (b k) = true → ((cmdOf (b k)).seq = 0 ∨ (cmdOf (b k)).seq ≠ x.reg64 CH_SEQ_NEXT) →
          (t.chan c).bit CH_CTRL 0 = false ∧ (t.chan c).bit CH_STATUS 2 = true ∧ (t.chan c).cmd.arrived = x.cmd.arrived) ∧
        (rcdCrcOk (b k) = true → (cmdOf (b k)).seq ≠ 0 → (cmdOf (b k)).seq = x.reg64 CH_SEQ_NEXT →
          (t.chan c).cmd.arrived = some (cmdOf (b k), b k) ∧ (t.chan c).regs = x.regs)) ∧
    (∀ m d, x.cmd.arrived = some (m, d) → d.length = 64 → x.fenced = false → x.bit CH_CTRL 0 = true → freeSlot x.cmd.table < 8 →
      x.dram.err = [] → x.dram.hold = 0 →
      ∃ t, exec (.journalWriteDone c) s = .next t ∧ s.others t c ∧ (t.chan c).cmd.arrived = none ∧
        (t.chan c).cmd.accepted = x.cmd.accepted ++ [m] ∧ (t.chan c).cmd.table = x.cmd.table ++ [⟨m.seq, freeSlot x.cmd.table, .accepted⟩] ∧
        (t.chan c).reg64 CH_CMD_ACK = m.seq ∧ (t.chan c).reg64 CH_SEQ_NEXT = m.seq + 1 ∧
        (t.chan c).reg CH_CMD_HEAD = x.reg CH_CMD_HEAD + 1 ∧
        rdBytes (t.chan c).dram.mem ((x.reg64 CH_JRNL_BASE).toNat + 64 * freeSlot x.cmd.table) 64 = d ∧
        rdBytes t.hostMem (x.reg64 CH_WB_ADDR).toNat 8 = leBytes 8 m.seq.toNat) ∧
    (∀ k, x.cmd.fetch = some k → x.fenced = true → ∃ t, exec (.pcieCompletionTimeout c) s = .next t ∧ s.others t c ∧
      (t.chan c).cmd.fetch = none ∧ (t.chan c).regs = x.regs) ∧
    (∀ k, x.cmd.fetch = some k → x.fenced = false →
      (x.cmd.again = false → exec (.pcieCompletionTimeout c) s =
        .next (s.modChan c (fun x => x.modCmd (fun d => { d with again := true })))) ∧
      (x.cmd.again = true → ∃ t, exec (.pcieCompletionTimeout c) s = .next t ∧ (t.chan c).cmd.fetch = none ∧
        (t.chan c).bit CH_CTRL 0 = false ∧ (t.chan c).bit CH_STATUS 3 = true)) ∧
    (∀ v : Word, s.hostUp = true → ∃ t, exec (.fetchEnable c v) s = .next t ∧ s.others t c ∧ (t.chan c).reg CH_CTRL = (v ||| 1) &&& 7) ∧
    (s.hostUp = true → s.live c = true → ∃ t, exec (.chSigRead c) s = .next t ∧ s.others t c ∧ (t.chan c).cmd.sigUnread = false ∧
      t.answer = some ⟨.ok, leBytes 4 (x.reg CH_SIG).toNat⟩)

/-- R34, R52, R54, R57, R326, R338: the start of a command of the host ring. -/
def Obligations.CommandsStart : Prop :=
  ∀ (s : State) (c : ChId) (m : Cmd) (rest : List Cmd),
    let x := s.chan c
    (x.cmd.accepted = m :: rest → x.alm.running = false → s.seqFree c = true → x.cmd.side = none → x.rcdCode m = 0 →
      ∃ t, exec (.commandStart c) s = .next t ∧ s.others t c ∧ (t.chan c).cmd.accepted = rest ∧
        (s.expired m = true → (t.chan c).cmd.run = none ∧ (t.chan c).cmd.side = none ∧
          ∃ r, (t.chan c).cmd.done = x.cmd.done ++ [r] ∧ r.cmd = m ∧ r.status = 0x01 ∧ r.code = 0 ∧ r.phase = .finished) ∧
        (s.expired m = false → m.kind ≠ 1 → m.kind ≠ 6 → (m.kind = 4 → m.argLen.toNat ≤ 3) →
          (t.chan c).cmd.run = none ∧ (t.chan c).cmd.side = some { cmd := m, limit := m.budget.toNat, frame := x.reg ALM_FRAME }) ∧
        (s.expired m = false → m.kind = 1 → x.startCheck (m.prog.toNat % 0x8000) none 0 m.budget.toNat true = 0 →
          (∃ r, (t.chan c).cmd.run = some r ∧ r.cmd = m ∧ r.phase = .started ∧ r.src = .ring ∧ r.limit = m.budget.toNat) ∧
          (t.chan c).seq.rs 1 = m.arg ∧ (t.chan c).seq.rs 2 = m.argLen.zeroExtend 64 ∧ (t.chan c).seq.rs 3 = m.seq ∧
          (t.chan c).seq.rs 4 = m.deadline ∧ (t.chan c).seq.rs 5 = (x.reg ALM_EPOCH).zeroExtend 64 ∧
          (∀ i : BitVec 5, 5 < i.toNat → (t.chan c).seq.rs i = 0) ∧ (∀ i, (t.chan c).seq.ra i = 0) ∧
          (∀ i : BitVec 3, i ≠ 0 → (t.chan c).seq.rp i = 0) ∧ (∀ i, (t.chan c).seq.rv i = Vector.replicate 128 0) ∧
          (∀ i, (t.chan c).seq.rt i = 0) ∧ (t.chan c).seq.calls = [] ∧
          (t.chan c).seq.reps = [] ∧ (t.chan c).seq.key = x.seq.key ∧ (t.chan c).seq.pc = m.prog.extractLsb' 0 15)) ∧
    (∀ r, x.cmd.run = some r → r.phase = .started → r.cmd.kind = 1 → x.fenced = false →
      ∃ t, exec (.kindRun c) s = .next t ∧ s.others t c ∧
        ∃ r', (t.chan c).cmd.run = some r' ∧ r'.cmd = r.cmd ∧ r'.phase = .running ∧ r'.acs = 0 ∧ r'.start = s.now ∧
          r'.epoch = x.reg ALM_EPOCH)

/-- R52, R339 to R341: the kinds that need no sequencer, where their checks pass. They read DRAM after what waits before them in its queue
(R96, log entry 29). -/
def Obligations.KindsWithoutSequencer : Prop :=
  ∀ (s : State) (c : ChId) (m : Cmd),
    let x := s.chan c
    let finished (t : State) : Prop := s.others t c ∧ (t.chan c).cmd.side = none ∧
      ∃ r, (t.chan c).cmd.done = x.cmd.done ++ [r] ∧ r.cmd = m ∧ r.phase = .finished ∧ r.status = 0 ∧ r.code = 0
    let bankOk : Prop := x.alm.loaded.get x.alm.inactive = true ∧ x.strands (x.alm.bank x.alm.inactive) = false
    (∃ r, x.cmd.side = some r ∧ r.cmd = m ∧ r.phase = .started) → x.fenced = false → x.aside = [] →
    (m.kind = 2 → x.progBusy (m.arg.toNat % 0x8000) (m.argLen.toNat / 8) = false → x.dram.err = [] → x.dram.hold = 0 →
      x.halted = false →
      ∃ t, exec (.kindLoadProg c) s = .next t ∧ finished t ∧
        ∀ i, i < m.argLen.toNat / 8 → sget 0 (t.chan c).pm.words (m.arg.toNat % 0x8000 + i) =
          BitVec.ofNat 64 (leNat (rdBytes x.dramTurn.dram.mem (m.prog.toNat + 8 * i) 8)) ∧
          sget 0 (t.chan c).pm.err (m.arg.toNat % 0x8000 + i) = 0 ∧ (t.chan c).pm.loaded (m.arg.toNat % 0x8000 + i) = true) ∧
    (m.kind = 3 → x.dram.err = [] → x.dram.hold = 0 → x.halted = false → x.alm.armed = none →
      let img := wrBytes [] 0 ((rdBytes x.dramTurn.dram.mem m.prog.toNat m.argLen.toNat).take 0x11000)
      x.loadCode img m.argLen.toNat = 0 →
      ∃ t, exec (.kindLoadAlm c) s = .next t ∧ finished t ∧ (t.chan c).alm.bank x.alm.inactive = img ∧
        (t.chan c).alm.loaded.get x.alm.inactive = true) ∧
    (m.kind = 4 →
      (m.argLen = 0 → x.alm.running = true → x.alm.armed = none → bankOk →
        ∃ t, exec (.switchNext c) s = .next t ∧ finished t ∧ (t.chan c).alm.armed = some 0) ∧
      (m.argLen = 1 → x.alm.armed = none → s.now.toNat < m.arg.toNat → bankOk →
        ∃ t, exec (.switchTimed c) s = .next t ∧ finished t ∧ (t.chan c).alm.armed = some 1 ∧ (t.chan c).reg64 ALM_SWTIME = m.arg) ∧
      (m.argLen = 2 → x.alm.running = true → x.alm.armed = none →
        ∃ t, exec (.switchStop c) s = .next t ∧ finished t ∧ (t.chan c).alm.armed = some 2) ∧
      (m.argLen = 3 → x.alm.armed ≠ none →
        ∃ t, exec (.switchDisarm c) s = .next t ∧ finished t ∧ (t.chan c).alm.armed = none)) ∧
    (m.kind = 5 → ∃ t, exec (.kindMark c) s = .next t ∧ finished t ∧ (t.chan c).spad = x.spad ∧ (t.chan c).pm = x.pm)

/-- R54, R58 to R60, R66, R121, R433, R434, R439: the end of a command. END of a stopped command is the time of its drain, log entry 55; a
missed Hail run keeps the instant of its miss. The record is read back where the write-back area lies elsewhere and no
interrupt is asked for. -/
def Obligations.CommandsEnd : Prop :=
  ∀ (s : State) (c : ChId) (r : RunCmd),
    let x := s.chan c
    (x.cmd.run = some r → r.phase = .running → r.limit ≠ 0 → r.limit ≤ r.acs → x.halted = false → x.fenced = false → r.cmd.hail = false →
      ∃ t, exec (.budgetStop c) s = .next t ∧ s.others t c ∧ getField ((t.chan c).reg CH_EXC_CODE) 7 0 = 0x0D ∧
        (t.chan c).reg CH_EXC_PC = x.seq.pc.zeroExtend 32 ∧
        ∃ r', (t.chan c).cmd.run = some r' ∧ r'.phase = .stopping ∧ r'.status = 0x02 ∧ getField r'.code 7 0 = 0x0D) ∧
    (x.cmd.run = some r → r.phase = .stopping → x.frontRests = true → r.retried = false → r.thaw = none → r.status ≠ 0 →
      let endOf := if r.hailRun = true ∧ r.status = 0x01 then r.endT else s.now
      ∃ t, exec (.commandStopDrain c) s = .next t ∧ s.others t c ∧
        ((∃ k, r.src = .standing k) → (t.chan c).cmd.run = some { r with phase := .finished, endT := endOf }) ∧
        ((∀ k, r.src ≠ .standing k) → (t.chan c).cmd.run = none ∧ ∃ r', (t.chan c).cmd.done = x.cmd.done ++ [r'] ∧ r'.cmd = r.cmd ∧
          r'.phase = .finished ∧ r'.status = r.status ∧ r'.code = r.code ∧ r'.endT = endOf) ∧ (t.chan c).seq.quiet = true ∧
        (t.chan c).front.queue = [] ∧ (t.chan c).dma.queue = [] ∧ (t.chan c).attn.queue = [] ∧ (t.chan c).scan.queue = [] ∧
        (t.chan c).link.xfers = [] ∧ ∀ k : Fin 2, ((t.chan c).arr k).queue = []) ∧
    (r.phase = .finished → x.fenced = false → x.cplFull = false → x.cmd.table.any (fun e => e.seq == r.cmd.seq) = true →
      x.commitSeq = some r.cmd.seq.toNat → r.cmd.flags.getLsbD 1 = false →
      (x.cmd.run = none → x.cmd.done = [r] → ∃ t, exec (.commandCommit c) s = .next t ∧ s.others t c ∧ (t.chan c).cmd.done = [] ∧
        (t.chan c).cmd.table = x.cmd.table.filter (fun e => e.seq != r.cmd.seq) ∧ (t.chan c).reg CH_CPL_PROD = x.reg CH_CPL_PROD + 1 ∧
        let a := (x.reg64 CH_CPL_BASE).toNat + 32 * ((x.reg CH_CPL_PROD).toNat % x.cplSize)
        let w := (x.reg64 CH_WB_ADDR).toNat
        (a + 32 ≤ w ∨ w + 16 ≤ a → rdBytes t.hostMem a 32 = cplRcd r.cmd.seq (if r.status = 0x04 then s.now else r.start)
          (if r.status = 0x04 then s.now else r.endT) r.epoch r.status (x.verdict r) r.code)) ∧
      (x.cmd.run = some r → x.cmd.done = [] → r.src = .ring → r.thaw = none → x.restore.all (fun e => e.1 == MA_CHK_TOL) = true → ∃ t, exec (.commandCommit c) s = .next t ∧ s.others t c ∧
        (t.chan c).cmd.run = none ∧ (t.chan c).cmd.table = x.cmd.table.filter (fun e => e.seq != r.cmd.seq) ∧
        (t.chan c).reg CH_CPL_PROD = x.reg CH_CPL_PROD + 1)) ∧
    (r.phase = .finished → x.fenced = false → x.cplFull = false → x.cmd.table.any (fun e => e.seq == r.cmd.seq) = false →
      x.cmd.run = none → x.cmd.done = [r] → ∃ t, exec (.commandCommit c) s = .next t ∧ t.hostMem = s.hostMem ∧
        (t.chan c).reg CH_CPL_PROD = x.reg CH_CPL_PROD ∧ t.reg (SAFE_DUP c.val) = s.reg (SAFE_DUP c.val) + 1)

/-- R11, R12, R13, R37, R450, R451: accesses of registers by address. The masks are those of the register table; what the host has
written on this fc, `hostFirst`, a SYS.CSR write does not change. -/
def Obligations.RegisterAccesses : Prop :=
  ∀ (s : State) (c : ChId) (v : Word),
    let x := s.chan c
    (∀ (p : Path) (a : BitVec 26) (o : Nat), s.reaches p a.toNat c o →
      (pairOf (winRow o) = some false →
        (∀ be, ∃ t, exec (.pairLowRead p ⟨a, be⟩) s = .next t ∧ s.others t c ∧ (t.chan c).regs = x.regs ∧
          sget 0 ((t.chan c).latches p) o = heldWord (s.chView c (o + 4)) ∧
          (p = .host → t.answer = some ⟨.ok, enabledBytes ⟨a, be⟩ (s.chView c o)⟩)) ∧
        exec (.pairLowWrite p a v) s =
          .next (s.modChan c (fun x => x.setStages p (sset 0 (x.stages p) o (heldWord v))))) ∧
      (pairOf (winRow o) = some true →
        (o ≠ SEQ_PM_DATA + 4 → ∀ be, ∃ t, exec (.pairHighRead p ⟨a, be⟩) s = .next t ∧ s.others t c ∧ (t.chan c).regs = x.regs ∧
          sget 0 ((t.chan c).latches p) (o - 4) = 0 ∧
          (p = .host → t.answer =
            some ⟨.ok, enabledBytes ⟨a, be⟩ ((heldOf (sget 0 (x.latches p) (o - 4))).getD (s.chView c o))⟩)) ∧
        (∀ r, pinOff o = none → pinOff (o - 4) = none → chRow (o - 4) = some r → r.ro = false →
          s.chAccepts c p (o - 4) = true → o - 4 ≠ BARO_BASE →
          ∃ t, exec (.pairHighWrite p a v) s = .next t ∧ s.others t c ∧ sget 0 ((t.chan c).stages p) (o - 4) = 0 ∧
            (t.chan c).reg64 (o - 4) = if s.hostFirst c p (o - 4) then x.reg64 (o - 4) else
              (v ++ (heldOf (sget 0 (x.stages p) (o - 4))).getD (s.chView c (o - 4))) &&& BitVec.ofNat 64 r.rw)) ∧
      (pairOf (winRow o) = none → o ≠ CH_SIG → ∀ be, ∃ t, exec (.pairLowRead p ⟨a, be⟩) s = .next t ∧ (∀ d, t.chan d = s.chan d) ∧
        (p = .host → t.answer = some ⟨.ok, enabledBytes ⟨a, be⟩ (s.chView c o)⟩)) ∧
      (∀ r, pairOf (winRow o) = none → pinOff o = none → chRow o = some r → r.ro = false → r.wo = false →
        s.chAccepts c p o = true → (∀ u : State, (u.chAct c p o v).isNone = true) →
        ∃ t, exec (.registerWrite p a v) s = .next t ∧ s.others t c ∧ (∀ k, k ≠ o → (t.chan c).reg k = x.reg k) ∧
          ∀ k, k < 32 → (t.chan c).bit o k =
            if s.hostFirst c p o = true ∧ r.rw ≠ 0 then x.bit o k && !(v.getLsbD k && (r.part o r.w1c).getLsbD k)
            else writtenBit r o (x.reg o) v k)) ∧
    (∀ (a : BitVec 26) (r : RegRow), a.toNat % 4 = 0 → s.hostUp = true → windowOf a.toNat = .common → glRow a.toNat = some r →
      r.pair = false → r.ro = false → r.wo = false → (s.glAct .host a.toNat v).isNone = true →
      ∃ t, exec (.registerWrite .host a v) s = .next t ∧ (∀ d, t.chan d = s.chan d) ∧
        (∀ k, k ≠ a.toNat → t.reg k = s.reg k) ∧ ∀ k, k < 32 → t.bit a.toNat k = writtenBit r a.toNat (s.reg a.toNat) v k) ∧
    (∃ t, exec (.seqPmAddrWrite c v) s = .next t ∧ s.others t c ∧
      (if x.idle = true then (t.chan c).reg SEQ_PM_ADDR = v &&& 0x7FFF ∧
          (t.chan c).reg64 SEQ_PM_DATA = sget 0 x.pm.words (v.toNat % 0x8000)
        else t.chan c = x)) ∧
    (s.hostUp = true → s.live c = true → x.idle = true →
      ∃ t, exec (.seqPmDataHighRead c) s = .next t ∧ s.others t c ∧
        (t.chan c).reg SEQ_PM_ADDR = (x.reg SEQ_PM_ADDR + 1) &&& 0x7FFF ∧
        (t.chan c).reg64 SEQ_PM_DATA = sget 0 x.pm.words (((x.reg SEQ_PM_ADDR).toNat + 1) % 0x8000) ∧
        t.answer = some ⟨.ok, leBytes 4 ((heldOf (sget 0 x.latch SEQ_PM_DATA)).getD (x.reg (SEQ_PM_DATA + 4))).toNat⟩)

/-- R93, R96, R447, R449, R450, R452, R500: the host port's requests beside registers. That a write of any word of a steering entry sets
REVOKED by the channel the entry then names is log entry 21, the bit of the AER status log entry 22, a write's place in the DRAM queue
during a refresh log entry 29. A register that a broadcast writes is one whose write
only stores; memories without error marks are read and written here. -/
def Obligations.HostPortRequests : Prop :=
  ∀ s : State, s.hostUp = true →
    (∀ (g : Option (Fin 8)) (o : BitVec 21) (v : Word), o.toNat % 4 = 0 →
      (s.members g = [] →
        (∃ t, exec (.broadcastWrite g o v) s = .next t ∧ (∀ d, t.chan d = s.chan d) ∧ t.bit GLB_HOSTERR 3 = true) ∧
        (∃ t, exec (.broadcastRead g o) s = .next t ∧ (∀ d, t.chan d = s.chan d) ∧ t.bit GLB_HOSTERR 3 = true ∧
          t.answer = some ⟨.ok, [0xFF, 0xFF, 0xFF, 0xFF]⟩)) ∧
      (∀ r, s.members g ≠ [] → pairOf (winRow o.toNat) = none → pinOff o.toNat = none → chRow o.toNat = some r → r.ro = false →
        r.wo = false → (∀ (u : State) (c : ChId), u.chAccepts c .host o.toNat = true ∧ (u.chAct c .host o.toNat v).isNone = true) →
        ∃ t, exec (.broadcastWrite g o v) s = .next t ∧ ∀ d, t.chan d =
          (if d ∈ s.members g then { (s.chan d).setReg o.toNat (r.write o.toNat ((s.chan d).reg o.toNat) v) with
              hostWr := o.toNat :: (s.chan d).hostWr } else s.chan d)) ∧
      (∀ c rest, s.members g = c :: rest → pairOf (winRow o.toNat) = none → o.toNat ≠ CH_SIG → o.toNat ≠ SEQ_PM_DATA + 4 →
        ∃ t, exec (.broadcastRead g o) s = .next t ∧ (∀ d, t.chan d = s.chan d) ∧
          t.answer = some ⟨.ok, leBytes 4 (s.chView c o.toNat).toNat⟩ ∧
          ∀ d : ChId, t.bit GLB_BCAST_DIFF d.val = true ↔ d ∈ s.members g ∧ s.chView d o.toNat ≠ s.chView c o.toNat)) ∧
    (∀ (a : BitVec 26) (v : Word) (rd : Bool),
      (∃ t, exec (.bar0PartialWrite a v) s = .next t ∧ (∀ d, t.chan d = s.chan d) ∧ t.bit GLB_HOSTERR 0 = true) ∧
      (∃ t, exec (.bar0OversizeAccess a rd) s = .next t ∧ (∀ d, t.chan d = s.chan d) ∧ t.bit GLB_HOSTERR 1 = true ∧
        (rd = true → t.answer = some ⟨.abort, []⟩))) ∧
    (∃ t, exec .poisonedTlpWrite s = .next t ∧ (∀ d, t.chan d = s.chan d) ∧ t.bit GLB_HOSTERR 4 = true ∧
      t.sup.aer = s.sup.aer ||| 0x1000) ∧
    (∀ (e : Fin 64) (w : Fin 4) (v : Word), ∃ t, exec (.steeringEntryWrite e w v) s = .next t ∧ (∀ d, t.chan d = s.chan d) ∧
      (∀ o, o ≠ STEER e.val w.val → o ≠ STEER e.val 1 → t.reg o = s.reg o) ∧
      (w = 0 → t.reg (STEER e.val 0) = v) ∧ (w = 1 → t.reg (STEER e.val 1) &&& 0x9F = v &&& 0x9F) ∧
      (t.bit (STEER e.val 1) 6 = true ↔ s.bit GLB_CHLIVE (getField (t.reg (STEER e.val 1)) 3 0) = false)) ∧
    (∀ (c : ChId), let x := s.chan c
      (∀ (a : BitVec 25) (n : Nat) (bs : List Byte), a.toNat + n ≤ 0x2000000 → a.toNat + bs.length ≤ 0x2000000 → x.spad.err = [] →
        (s.apOpen c = true →
          (∃ t, exec (.bar2Read c a n) s = .next t ∧ (∀ d, t.chan d = s.chan d) ∧
            t.answer = some ⟨.ok, rdBytes x.spad.mem a.toNat n⟩) ∧
          (∃ t, exec (.bar2Write c a bs) s = .next t ∧ s.others t c ∧ rdBytes (t.chan c).spad.mem a.toNat bs.length = bs ∧
            ∀ b, (b < a.toNat ∨ a.toNat + bs.length ≤ b) → rd8 (t.chan c).spad.mem b = rd8 x.spad.mem b)) ∧
        (s.apOpen c = false →
          exec (.bar2Read c a n) s = .next (s.reply .ok (List.replicate n 0xFF)) ∧ exec (.bar2Write c a bs) s = .next s)) ∧
      (∀ (a : BitVec 33) (n : Nat) (bs : List Byte) (d : Nat), s.bar4Addr c a.toNat = some d →
        (s.apOpen c = true → x.dram.err = [] → x.dram.hold = 0 →
          (d + n ≤ x.dramTop → d < x.dramTop → d < 0x200000000 → ∃ t, exec (.bar4Read c a n) s = .next t ∧ s.others t c ∧
            (t.chan c).dram.mem = x.dramTurn.dram.mem ∧ t.answer = some ⟨.ok, rdBytes x.dramTurn.dram.mem d n⟩) ∧
          (d + bs.length ≤ x.dramTop → d < x.dramTop → d < 0x200000000 → ∃ t, exec (.bar4Write c a bs) s = .next t ∧ s.others t c ∧
            rdBytes (t.chan c).dram.mem d bs.length = bs ∧
            ∀ b, (b < d ∨ d + bs.length ≤ b) → rd8 (t.chan c).dram.mem b = rd8 x.dramTurn.dram.mem b)) ∧
        (s.apOpen c = true → x.dram.hold ≠ 0 → d + bs.length ≤ x.dramTop → d < x.dramTop → d < 0x200000000 →
          exec (.bar4Write c a bs) s = .next (s.modChan c (fun x =>
            { x with dram := { x.dram with queue := x.dram.queue ++ writeReqs (bs.length + 1) d bs } }))) ∧
        (s.apOpen c = true →
          (x.dramTop ≤ d →
            (∃ t, exec (.bar4Read c a n) s = .next t ∧ (∀ e, t.chan e = s.chan e) ∧ t.bit GLB_HOSTERR 2 = true ∧
              t.answer = some ⟨.ok, List.replicate n 0xFF⟩) ∧
            (∃ t, exec (.bar4Write c a bs) s = .next t ∧ (∀ e, t.chan e = s.chan e) ∧ t.bit GLB_HOSTERR 2 = true))) ∧
        (s.apOpen c = false →
          exec (.bar4Read c a n) s = .next (s.reply .ok (List.replicate n 0xFF)) ∧ exec (.bar4Write c a bs) s = .next s)))

/-- R74 to R76, R96, R499, R500: what the memory events do. That the accumulators' Drizzle works whatever SPAD_SCRUB.EN is, and that a
write can wait in the DRAM queue, is log entry 29. -/
def Obligations.MemoryEvents : Prop :=
  ∀ (s : State) (c : ChId), s.parked c = false →
    let x := s.chan c
    (∀ b : Fin 32, exec (.partialWriteMerge c b) s = .next (s.modChan c (fun x =>
      { x with spad := { x.spad with merge := x.spad.merge.filter (fun m => m.bank != b.val) } }))) ∧
    (x.bit SPAD_SCRUB 31 = false → exec (.drizzleWriteback c) s = .next (s.setChan c x)) ∧
    (∀ w r, x.bit SPAD_SCRUB 31 = true → x.spad.drizzle = w :: r →
      ∃ t, exec (.drizzleWriteback c) s = .next t ∧ s.others t c ∧ (t.chan c).spad.drizzle = r ∧ (t.chan c).spad.mem = x.spad.mem ∧
        (sget 0 x.spad.err w ≠ 2 → sget 0 (t.chan c).spad.err w = 0 ∧ (∀ j, j ≠ w → sget 0 (t.chan c).spad.err j = sget 0 x.spad.err j) ∧
          (t.chan c).raised = x.raised) ∧
        (sget 0 x.spad.err w = 2 → (t.chan c).spad.err = x.spad.err ∧ (t.chan c).raised = x.raised ++ [0x04] ∧
          (t.chan c).reg SPAD_UE_ADDR = BitVec.ofNat 32 (16 * w))) ∧
    (x.bit SPAD_SCRUB 31 = true → getField (x.reg SPAD_SCRUB) 15 0 ≠ 0 →
      (x.spad.err = [] → ∃ t, exec (.drizzleSweepVisit c) s = .next t ∧ s.others t c ∧ (t.chan c).spad.mem = x.spad.mem ∧
        (t.chan c).spad.sweepRow = x.spad.sweepRow + 1 ∧
        (t.chan c).reg SPAD_SWEEPS = x.reg SPAD_SWEEPS + (if x.spad.sweepRow = 8191 then 1 else 0)) ∧
      (∀ w, x.spad.err = [(w, 1)] → w / 256 = x.spad.sweepRow.toNat → x.spad.drizzle = [] →
        ∃ t, exec (.drizzleSweepVisit c) s = .next t ∧ (t.chan c).spad.drizzle = [w] ∧
          (t.chan c).reg SPAD_CE_ADDR = BitVec.ofNat 32 (16 * w))) ∧
    (∀ (k : Fin 2) (e : Nat) (r : List Nat), (x.acc.get k).drizzle = e :: r →
      ∃ t, exec (.accDrizzleRewrite c k) s = .next t ∧ s.others t c ∧ ((t.chan c).acc.get k).drizzle = r ∧
        ((t.chan c).acc.get k).mem = (x.acc.get k).mem ∧
        ∀ m, m ∈ ((t.chan c).acc.get k).err ↔ m ∈ (x.acc.get k).err ∧ ¬(m.1 / 128 = e ∧ m.2 = 1)) ∧
    (∀ q r, x.dram.queue = q :: r → x.dram.hold = 0 → x.dram.err = [] →
      ∃ t, exec (.dramRequestServe c) s = .next t ∧ s.others t c ∧ (t.chan c).dram.queue = r ∧
        (q.data = none → (t.chan c).dram.mem = x.dram.mem ∧
          (t.chan c).front.ret = x.front.ret ++ [⟨q.stream, q.half, rdBytes x.dram.mem q.addr 64, false⟩]) ∧
        (∀ bs, q.data = some bs → (t.chan c).front.ret = x.front.ret ∧ rdBytes (t.chan c).dram.mem q.addr bs.length = bs ∧
          ∀ b, (b < q.addr ∨ q.addr + bs.length ≤ b) → rd8 (t.chan c).dram.mem b = rd8 x.dram.mem b)) ∧
    (0 < x.dram.hold → exec (.dramRequestServe c) s = .next (s.setChan c x)) ∧
    (∀ rank1 hot : Bool, x.bit DRAM_TRAIN 0 = true → (rank1 = true → 2 ≤ getField (x.reg DRAM_CFG) 1 0) →
      let due := if rank1 then x.dram.due1 else x.dram.due0
      (s.fc < due → exec (.dramRefresh c rank1 hot) s = .next (s.setChan c x)) ∧
      (due ≤ s.fc → ∃ t, exec (.dramRefresh c rank1 hot) s = .next t ∧ s.others t c ∧ (t.chan c).dram.dirty = [] ∧
        (t.chan c).dram.mem = x.dram.mem ∧ (t.chan c).dram.wbuf = x.dram.wbuf ∧
        (rank1 = true → (t.chan c).dram.hold = 252 ∧ (t.chan c).dram.due1 = x.dram.due1 + x.dram.interval ∧ (t.chan c).regs = x.regs) ∧
        (rank1 = false → (t.chan c).dram.interval = x.dram.next ∧ (t.chan c).dram.due0 = x.dram.due0 + x.dram.next ∧
          (t.chan c).dram.due1 = x.dram.due0 + x.dram.next / 2 ∧
          (if (x.dram.refreshes + 1) % 256 = 0 then
            (t.chan c).dram.hold = 284 ∧ (t.chan c).dram.next = (if hot then 1755 else 3510) ∧ (t.chan c).bit DRAM_TRAIN 2 = hot
          else (t.chan c).dram.hold = 252 ∧ (t.chan c).dram.next = x.dram.next ∧ (t.chan c).regs = x.regs))))

/-- R99 to R107: what the Front's events do. That a step needs two places in flight and in the DRAM queue is log entry 31. Ring bytes are written here where no codeword is marked and the step does not wrap. -/
def Obligations.FrontEvents : Prop :=
  ∀ (s : State) (c : ChId),
    let x := s.chan c
    (∀ i r, x.front.queue = i :: r → x.fenced = false → x.freezing = false → (x.fstream i.stream).busy = false →
      (i.cancel = false → (∀ n : Fin 16, (x.front.streams.get n).busy = true → (x.front.streams.get n).ring ≠ i.ring) →
        ∃ t, exec (.frontStreamTake c) s = .next t ∧ s.others t c ∧ (t.chan c).front.queue = r ∧
          (t.chan c).fstream i.stream =
            { busy := true, tk := i.tk, ring := i.ring, src := i.src, rem := i.rem, strided := i.strided, rowLen := i.rowLen,
              rowLeft := i.rowLen, pitch := i.pitch, claim := (x.ring i.ring).head, rest := s.fc, org := i.org }) ∧
      (i.cancel = true → (x.fstream i.stream).cancelling = false → s.room c i.tk →
        ∃ t, exec (.frontCancelPoint c) s = .next t ∧ s.others t c ∧ (t.chan c).front.queue = r ∧ s.token t c i.tk ∧
          (t.chan c).reg (FRONT_WASTE i.stream.toNat) = 0)) ∧
    (∀ i r, x.front.queue = i :: r → i.cancel = true → (x.fstream i.stream).busy = true → (x.fstream i.stream).cancelling = false →
      ∃ t, exec (.frontCancelPoint c) s = .next t ∧ s.others t c ∧ (t.chan c).front.queue = r ∧
        let f := x.fstream i.stream
        let d := x.ring f.ring
        (t.chan c).fstream i.stream = { f with cancelling := true, ctk := some i.tk, abort := false, waste := (f.claim - d.head).toNat,
                                               claim := d.head, half := [] } ∧
        (t.chan c).reg (FRONT_AHEAD i.stream.toNat) = BitVec.ofNat 32 d.fill) ∧
    (∀ n : BitVec 4, let f := x.fstream n
      (f.busy = true → f.cancelling = false → f.strided = false → 128 ≤ f.rem → 0 < credits (x.ring f.ring) f → x.front.infl ≤ 46 →
        x.dram.queue.length ≤ 62 → x.fenced = false → x.freezing = false →
        (∀ m, m ≠ n → x.requests m = true → f.rest < (x.fstream m).rest ∨ (f.rest = (x.fstream m).rest ∧ n.toNat < m.toNat)) →
        ∃ t, exec (.frontStepIssue c n) s = .next t ∧ s.others t c ∧
          (t.chan c).fstream n = { f with claim := f.claim + 128, rem := f.rem - 128, infl := f.infl + 2, rest := s.fc + 1, src := f.src + 128,
                                          rowLeft := f.rowLeft - 128 } ∧
          (t.chan c).dram.queue = x.dram.queue ++ [⟨n, false, f.src, none⟩, ⟨n, true, f.src + 64, none⟩]) ∧
      (credits (x.ring f.ring) f = 0 → exec (.frontStepIssue c n) s = .next (s.setChan c x)) ∧
      (f.cancelling = true → f.infl = 0 → f.ctk = none → s.room c f.tk →
        ∃ t, exec (.frontCancelComplete c n) s = .next t ∧ s.others t c ∧ (t.chan c).fstream n =
            { f with busy := false, cancelling := false, ctk := none, waste := 0 } ∧ s.token t c f.tk ∧
          (t.chan c).bit (FRONT_STAT n.toNat) 2 = true ∧ (t.chan c).reg (FRONT_WASTE n.toNat) = BitVec.ofNat 32 f.waste) ∧
      (∀ k, f.cancelling = true → f.infl = 0 → f.ctk = some k → k ≠ f.tk → s.room c f.tk → s.room c k →
        ∃ t, exec (.frontCancelComplete c n) s = .next t ∧ s.token t c f.tk ∧ s.token t c k)) ∧
    (∀ b r, x.front.ret = b :: r → let f := x.fstream b.stream; let d := x.ring f.ring
      (b.bad = true → ∃ t, exec (.frontBurstReturn c) s = .next t ∧ s.others t c ∧ (t.chan c).front.ret = r ∧
        (t.chan c).spad = x.spad ∧ (t.chan c).rings = x.rings ∧ (t.chan c).front.queue = [] ∧
        ∀ n : Fin 16, (x.front.streams.get n).busy = true → (x.front.streams.get n).cancelling = false →
          ((t.chan c).front.streams.get n).cancelling = true ∧ (t.chan c).bit (FRONT_STAT n.val) 3 = true) ∧
      (b.bad = false → (f.cancelling = true ∨ f.busy = false) →
        ∃ t, exec (.frontBurstReturn c) s = .next t ∧ s.others t c ∧ (t.chan c).front.ret = r ∧ (t.chan c).spad = x.spad ∧
          (t.chan c).rings = x.rings ∧ (t.chan c).fstream b.stream = { f with infl := f.infl - 1 }) ∧
      (f.cancelling = false → f.busy = true →
        (b.bad = false → b.half = false → ∃ t, exec (.frontBurstReturn c) s = .next t ∧ s.others t c ∧
          (t.chan c).fstream b.stream = { f with infl := f.infl - 1, half := b.data } ∧ (t.chan c).spad = x.spad) ∧
        (b.bad = false → b.half = true → b.data.length = 64 → f.half.length = 64 → x.spad.err = [] →
          d.head.toNat % d.size.toNat + 128 ≤ d.size.toNat →
          ∃ t, exec (.frontBurstReturn c) s = .next t ∧ s.others t c ∧
            rdBytes (t.chan c).spad.mem (d.base.toNat + d.head.toNat % d.size.toNat) 128 = f.half ++ b.data ∧
            ((t.chan c).ring f.ring).head = d.head + 128 ∧
            (f.rem = 0 → d.head + 128 = f.claim → s.room c f.tk →
              s.token t c f.tk ∧ ((t.chan c).fstream b.stream).busy = false ∧ ((t.chan c).ring f.ring).prod = bindSub d.prod) ∧
            (¬(f.rem = 0 ∧ d.head + 128 = f.claim) → ((t.chan c).fstream b.stream).busy = true))))

/-- R110 to R112, R121 to R123, R500: what the DMA engine's events do; transfers without marked words. That a transfer which a marked word
has stopped goes no further, when a kept PTU_WPIN entry goes, and that a drop takes presented operations with it is log entry 31. Bytes a drop leaves undefined are
free. -/
def Obligations.DmaEvents : Prop :=
  ∀ (s : State) (c : ChId),
    let x := s.chan c
    (∀ k d r, x.dma.queue = (k, d) :: r →
      ((x.dctx k).shadow = none → ∃ t, exec (.dmaContextLoad c) s = .next t ∧ s.others t c ∧ (t.chan c).dma.queue = r ∧
        (t.chan c).dctx k = { x.dctx k with shadow := some d, last := if d.att then (x.dctx k).last else some d, undef := none } ∧
        ∀ j, j ≠ k → (t.chan c).dctx j = x.dctx j) ∧
      ((x.dctx k).shadow ≠ none → exec (.dmaContextLoad c) s = .next (s.setChan c x))) ∧
    (x.engineWork = true → x.bit DMA_CTRL 0 = true →
      (∀ k d, (x.dctx k).active = some d → (∀ j e, j ≠ k → (x.dctx j).active = some e → d.no < e.no) → x.dma.running = none →
        x.dmaAhead d.no = false →
        (x.dma.gap ≤ s.fc → ∃ t, exec (.dmaTransferStart c) s = .next t ∧ s.others t c ∧ (t.chan c).dma = { x.dma with running := some k } ∧
          (t.chan c).ptu.lost = x.ptu.lost.filter (fun p => p.1 != k.toNat)) ∧
        (s.fc < x.dma.gap → exec (.dmaTransferStart c) s = .next (s.setChan c x))) ∧
      (∀ k d, x.dma.running = some k → (x.dctx k).active = some d →
        (x.dma.stuck = true → exec (.dmaTransferComplete c) s = .next s) ∧
        (d.onDram = true → 0 < x.dram.hold → exec (.dmaTransferComplete c) s = .next s) ∧
        (x.dma.stuck = false → (x.dctx k).done = 0 → d.att = false → d.plist = false → d.mod.toNat < 4 → (d.onDram = true → x.dram.hold = 0) →
          x.spad.err = [] → x.dram.err = [] → s.room c d.tk →
          let w := if d.onDram then x.dramTurn else x
          let n := d.len.toNat
          let a := d.src.toNat
          let b := d.dst.toNat
          (d.srcDram = d.dstDram → a + n ≤ b ∨ b + n ≤ a) →
          ∃ t, exec (.dmaTransferComplete c) s = .next t ∧ s.others t c ∧ s.token t c d.tk ∧ (t.chan c).dma.running = none ∧
            (t.chan c).dma.gap = s.fc + 4 ∧ ((t.chan c).dctx k).active = none ∧ ((t.chan c).dctx k).shadow = (x.dctx k).shadow ∧
            rdBytes (if d.dstDram then (t.chan c).dram.mem else (t.chan c).spad.mem) b n =
              rdBytes (if d.srcDram then w.dram.mem else x.spad.mem) a n ∧
            (∀ e, (d.dstDram = true ∨ e < b ∨ b + n ≤ e) → rd8 (t.chan c).spad.mem e = rd8 x.spad.mem e) ∧
            (∀ e, (d.dstDram = false ∨ e < b ∨ b + n ≤ e) → rd8 (t.chan c).dram.mem e = rd8 w.dram.mem e)))) ∧
    exec (.dmaCtrlEnWrite c true) s = .next (s.modChan c (fun x => x.setReg DMA_CTRL 1)) ∧
    (∃ t, exec (.dmaCtrlEnWrite c false) s = .next t ∧ s.others t c ∧ (t.chan c).bit DMA_CTRL 0 = false ∧
      (x.dmaHeld ≠ [] → (t.chan c).dma.queue = [] ∧ (t.chan c).dma.running = none ∧ (t.chan c).bit DMA_STATUS 1 = true ∧ (t.chan c).ptu.walk = [] ∧
        ∀ k, ((t.chan c).dctx k).active = none ∧ ((t.chan c).dctx k).shadow = none)) ∧
    exec (.dmaDiscardSettled c) s = .next (s.modChan c (fun x => { x with dma := { x.dma with discarding := false } }))

/-- R34, R76, R127 to R139, R143 to R147, R161: the events of an array, on memories without error marks. `colOut` is the sum over the
rows of R124, `accAdd` the accumulator addition of R134, `drainElem` the conversion of R136. -/
def Obligations.ArrayEvents : Prop :=
  ∀ (s : State) (c : ChId) (k : Fin 2) (f : ArrFault),
    let x := s.chan c
    let a := x.arr k
    let m := (x.accOf k).mem
    let acc (t : State) : Sparse Word := ((t.chan c).accOf k).mem
    (∀ w r (fault : Bool), a.wins = w :: r → ∃ t, exec (.windowVerdict c k fault) s = .next t ∧ s.others t c ∧ acc t = m ∧
      ((t.chan c).arr k).wins = r ∧
      (w.rel x.chkU = .skip → (t.chan c).raised = x.raised ∧ (t.chan c).reg (MA_CHK_SKIP k.val) = satAdd32 (x.reg (MA_CHK_SKIP k.val)) 1) ∧
      (w.rel x.chkU = .fail ∨ (w.rel x.chkU = .pass ∧ fault = true) →
        (t.chan c).raised = x.raised ++ [0x02] ∧ (t.chan c).bit (MA_STAT k.val) 15 = true) ∧
      (w.rel x.chkU = .pass → fault = false → t = s.setChan c (x.setArr k { a with wins := r }))) ∧
    (x.arrGo = true → x.spad.err = [] → (x.accOf k).err = [] →
    (∀ i r, a.queue = i :: r → a.slot = none → arrHasRec i.opc = true → i.opc ≠ 0x56 → i.rcd = [] →
      let b := rdBytes x.spad.mem i.desc 64
      recRing i b = none → lowest (recCauses i b) = none →
      exec (.drainSlotEnter c k) s = .next (s.setChan c (x.setArr k { a with queue := { i with rcd := b } :: r }))) ∧
    (∀ d, a.queue = [] → a.slot = some d → d.outs = none → x.tileEarlier k d.ins.no false = false → x.accEarlier k d.ins.no = false →
      x.convEarlier k d.ins.no = false → x.touchesSlot k d.ins = false →
      ∃ t, exec (.drainSlotEnter c k) s = .next t ∧ s.others t c ∧ acc t = m ∧
        ((t.chan c).arr k).slot = some { d with outs := some (x.drainBytesOf k d.ins d.shifts d.biases) }) ∧
    (x.arrReady k →
    (∀ i r, a.run = none → a.queue = i :: r →
      (arrOwn i.opc = false ∨ x.arrWaits k i = true → exec (.arrayInstrStart c k f) s = .next (s.setChan c x)) ∧
      (x.arrWaits k i = false → x.touchesSlot k i = false →
      (i.opc = 0x59 → i.data.length = 128 → ∃ t, exec (.arrayInstrStart c k f) s = .next t ∧ s.others t c ∧
        ((t.chan c).arr k).queue = r ∧ ((t.chan c).arr k).run = none ∧
        ∀ n, sget 0 (acc t) n = if h : 128 * (i.count - 1) ≤ n ∧ n - 128 * (i.count - 1) < i.data.length
          then i.data[n - 128 * (i.count - 1)]'h.2 else sget 0 m n) ∧
      (i.opc = 0x58 → ∃ t, exec (.arrayInstrStart c k f) s = .next t ∧ s.others t c ∧ acc t = m ∧
        ((t.chan c).arr k).queue = r ∧ ((t.chan c).arr k).run = none ∧
        (i.stale = true → (t.chan c).seq = x.seq) ∧
        (i.stale = false →
          (∀ j : Fin 128, ((t.chan c).seq.rv (i.mod.extractLsb' 0 4)).get j = sget 0 m (128 * (i.count - 1) + j.val)) ∧
          (t.chan c).seq.vpend.getLsbD (i.mod.extractLsb' 0 4).toNat = false)))) ∧
    (∀ i, a.run = some i → let b := i.rcd
      (i.opc = 0x57 → ∃ t, exec (.arrayInstrStart c k f) s = .next t ∧ s.others t c ∧ ((t.chan c).arr k).run = none ∧
        ∀ n, sget 0 (acc t) n =
          if 128 * field b 0 2 ≤ n ∧ n < 128 * field b 0 2 + 128 * i.count then 0 else sget 0 m n) ∧
      (i.opc = 0x50 → i.i = 0 → bitOf (field b 8 1) 6 = false →
        let mode := field b 8 1 % 8
        let cbn := bitsOf (field b 8 1) 4 3
        let wide := bitOf (field b 8 1) 5
        let rb := rowBytes mode cbn wide
        ∃ t, exec (.arrayInstrStart c k f) s = .next t ∧ s.others t c ∧ acc t = m ∧
          let z := (t.chan c).arr k
          z.run = none ∧ z.loaded = true ∧ z.mode = mode ∧ z.rows = field b 9 1 + 1 ∧ z.cols = field b 10 1 + 1 ∧
          ∀ r j, r < field b 9 1 + 1 → j < 128 → sget 0 z.w (128 * r + j) =
            if j < field b 10 1 + 1 then
              codeAt mode cbn wide (rdBytes x.spad.mem (field b 0 4 + r * (if field b 4 4 = 0 then rb else field b 4 4)) rb) j
            else 0) ∧
      (0x51 ≤ i.opc.toNat → i.opc.toNat ≤ 0x55 → i.i = 0 → i.count = 1 → a.mismatch i = false → bitOf (field b 10 1) 0 = false →
        let v := rdBytes x.spad.mem (field b 0 4) (vecBytes a.mode)
        ∃ t, exec (.arrayInstrStart c k f) s = .next t ∧ s.others t c ∧ (t.chan c).spad.mem = x.spad.mem ∧
          (∀ j, j < a.cols → j < 128 → sget 0 (acc t) (128 * field b 8 2 + j) =
            if i.mod.getLsbD 3 then a.colOut (i.mod.getLsbD 2) v j
            else (accAdd (floatMode a.mode) (sget 0 m (128 * field b 8 2 + j)) (a.colOut (i.mod.getLsbD 2) v j)).1) ∧
          ∀ n, (n < 128 * field b 8 2 ∨ 128 * field b 8 2 + a.cols ≤ n) → sget 0 (acc t) n = sget 0 m n)) ∧
    (∀ i r, a.queue = i :: r → i.opc = 0x56 → a.slot = none →
      let b := i.rcd
      let o := field b 10 1
      let cols := field b 20 1 + 1
      let base := if i.unit = 3 ∧ k = 1 then 128 else 0
      let shifts := if bitOf o 6 then rdBytes x.spad.mem (field b 12 4 + base) cols else List.replicate cols (byteAt b 11)
      let biases := if bitOf o 4 then wordsOf (rdBytes x.spad.mem (field b 16 4 + 4 * base) (4 * cols)) cols else []
      (∀ h ∈ shifts, -32 ≤ h.toInt ∧ h.toInt ≤ 31) →
      ∃ t, exec (.drainSlotEnter c k) s = .next t ∧
        (x.touchesSlot k i = false → s.others t c ∧ acc t = m ∧ ((t.chan c).arr k).queue = r ∧
          ((x.tileEarlier k i.no false || x.accEarlier k i.no || x.convEarlier k i.no) = true →
            ((t.chan c).arr k).slot = some ⟨i, shifts, biases, none⟩) ∧
          (x.tileEarlier k i.no false = false → x.accEarlier k i.no = false → x.convEarlier k i.no = false →
            ((t.chan c).arr k).slot = some ⟨i, shifts, biases, some (x.drainBytesOf k i shifts biases)⟩))) ∧
    (∀ d outs, a.slot = some d → x.drainOuts d = some outs → bitOf (field d.ins.rcd 10 1) 3 = false →
      (∀ j ∈ unitArrs d.ins.unit, ∀ w ∈ (x.arr j).wins, d.ins.no < w.no) → s.room c d.ins.tk →
      let p := if field d.ins.rcd 4 4 = 0 then drainBytes d.ins d.ins.rcd else field d.ins.rcd 4 4
      (∀ o ∈ outs, o.length ≤ p) →
      ∃ t, exec (.drainComplete c k) s = .next t ∧ s.others t c ∧ acc t = m ∧ s.token t c d.ins.tk ∧
        (∀ j ∈ unitArrs d.ins.unit, ((t.chan c).arr j).slot = none) ∧
        (∀ n (h : n < outs.length),
          rdBytes (t.chan c).spad.mem (field d.ins.rcd 0 4 + n * p) outs[n].length = outs[n]) ∧
        ∀ e, (e < field d.ins.rcd 0 4 ∨ field d.ins.rcd 0 4 + outs.length * p ≤ e) → rd8 (t.chan c).spad.mem e = rd8 x.spad.mem e)))

/-- R77, R175, R176, R179 to R181, R186, R190, R198, R203: the work and the end of a pass. `colOut` is the sum over the rows of R124, `accAdd` the
accumulator addition of R134, `poolOut` the pooling of R198 and R199; passes of other shapes are `runWin`, `wRun` and `runPool`. -/
def Obligations.ConvPassEvents : Prop :=
  ∀ (s : State) (c : ChId) (k a : Fin 2) (f : ArrFault) (i : DIns),
    let x := s.chan c
    let run (z : Channel) (f : Fin 2 × ArrFault) : ConvRes := match i.opc.toNat with
      | 0x61 => Channel.wRun f (((wM i.rcd + 2) * (wM i.rcd + 2)) * ceilDiv (cIC i.rcd) 128 + 2) z i
      | 0x63 => z.runPool i
      | _ => z.runWin i f
    x.win.queue = [] → x.engineWork = true → x.win.slots.get k = some i →
    (x.convWaits i = true ∨ (x.rowsReady i.rcd i.count).1 = false → exec (.convPassComplete c k a f) s = .next s) ∧
    (x.convWaits i = false → (x.rowsReady i.rcd i.count).1 = true → s.room c i.tk →
      (∀ y, run x (a, f) = .go y → y.win = x.win → y.seq = x.seq →
        ∃ t, exec (.convPassComplete c k a f) s = .next t ∧ s.others t c ∧ (t.chan c).spad = y.spad ∧ (t.chan c).acc = y.acc ∧
          (t.chan c).arrs = y.arrs ∧ (t.chan c).win.slots.get k = none ∧ s.token t c i.tk) ∧
      (∀ (h : Fin 4) (y : Channel), (x.halo h.val).waiting = true → x.win.slots.get (1 - k) = none →
        let z := x.setHalo h.val { x.halo h.val with waiting := false }
        run z (0, .none) = .go y → y.win = z.win → y.seq = x.seq →
        ∃ t, exec (.haloRowStallEnd c h) s = .next t ∧ s.others t c ∧ ((t.chan c).halo h.val).waiting = false ∧
          (t.chan c).spad = y.spad ∧ (t.chan c).win.slots.get k = none ∧ s.token t c i.tk)) ∧
    (x.convWaits i = false → (x.rowsReady i.rcd i.count).1 = true → cLayout i.rcd = 0 → cE2 i.rcd = 2 → cIRing i.rcd = false → x.spad.err = [] →
      let b := i.rcd
      let byteOf (p : Nat × Nat) (u ch : Nat) : Byte :=
        let w := tapAt b p.1 p.2 u
        if cIC b ≤ ch then 0
        else rd8 x.spad.mem (field b 0 4 + (w.1.toNat - cRow0 b) * field b 4 4 + w.2.toNat * cIC b + ch)
      let held (p : Nat × Nat) (u : Nat) : Prop := inPad b (tapAt b p.1 p.2 u) = false →
        cRow0 b ≤ (tapAt b p.1 p.2 u).1.toNat ∧ (tapAt b p.1 p.2 u).1.toNat < cRow0 b + cRows b
      (∀ (q : Fin 2) (tl : ConvTile) (p : Nat × Nat), (i.opc = 0x60 ∨ i.opc = 0x62) → unitArrs i.unit = [q] → f = .none →
        cTiles b (i.opc == 0x62) = [tl] → cPixels b i.count = [p] → i.n = 0 → i.i = 0 → i.vecs = 0 → i.mod.getLsbD 0 = false →
        field b 36 4 = 0 → cWRing b = false → (cMode b = 0 ∨ cMode b = 3) → cCols b ≤ 128 → (x.accOf q).err = [] →
        (∀ u ∈ tl.taps, held p u) → (∃ u ∈ tl.taps, inPad b (tapAt b p.1 p.2 u) = false) →
        let rcd := rdBytes x.spad.mem (field b 40 4) (recBytes b (i.opc == 0x62) tl)
        let rb := rowBytes (cMode b) (cCbn b) (cWide b)
        let vec := packCodes (cMode b) ((tl.taps.map (fun u => (List.range tl.nch).map (fun k =>
          if inPad b (tapAt b p.1 p.2 u) then 0 else (byteOf p u (tl.c0 + k)).toNat))).flatten)
        ∃ t, exec (.convPassComplete c k a f) s = .next t ∧ s.others t c ∧ (t.chan c).spad = x.spad ∧
          let z := (t.chan c).arr q
          z.mode = cMode b ∧ z.rows = tl.rows ∧ z.cols = cCols b ∧
          (∀ r j, r < tl.rows → j < 128 → sget 0 z.w (128 * r + j) =
            if cCols b ≤ j then 0
            else if i.opc = 0x62 then
              (if r / cGIN b = j / cGOUT b then codeAtBit b rcd ((j * cGIN b + r % cGIN b) * weightBits b) else 0)
            else codeAt (cMode b) (cCbn b) (cWide b) ((rcd.drop (rb * r)).take rb) j) ∧
          (∀ j, j < cCols b → sget 0 ((t.chan c).accOf q).mem (128 * cEntry b + j) =
            (accAdd (floatMode (cMode b)) 0 (z.colOut (cAfmt b == 3) vec j)).1) ∧
          ∀ e, (e < 128 * cEntry b ∨ 128 * cEntry b + cCols b ≤ e) →
            sget 0 ((t.chan c).accOf q).mem e = sget 0 (x.accOf q).mem e) ∧
      (∀ p : Nat × Nat, i.opc = 0x63 → cPixels b i.count = [p] → i.count = 1 → cOW b = 1 → i.i = 0 → cPMode b % 4 ≠ 2 →
        bitOf (cPMode b) 3 = false → (∀ u, u < cKH b * cKW b → held p u) → s.room c i.tk →
        let lanes := min 128 (cIC b - cC0 b)
        ∃ t, exec (.convPassComplete c k a f) s = .next t ∧ s.others t c ∧ s.token t c i.tk ∧ (t.chan c).acc = x.acc ∧
          (∀ ch, ch < lanes → rd8 (t.chan c).spad.mem (field b 64 4 + ch) = BitVec.ofNat 8 (poolOut b
            ((List.range (cKH b * cKW b)).map (fun u =>
              if inPad b (tapAt b p.1 p.2 u) then none else some (byteOf p u (cC0 b + ch)).toNat)))) ∧
          ∀ e, (e < field b 64 4 ∨ field b 64 4 + lanes ≤ e) → rd8 (t.chan c).spad.mem e = rd8 x.spad.mem e)) ∧
    (∀ h : Fin 4, x.haloStalls h = true ∨ (x.halo h.val).waiting = false → exec (.haloRowStallEnd c h) s = .next s)

/-- R18, R19, R202, R365, R368 to R370: the events of blocks of the ring stop; the transfer is the sender's first. That a loss on
another device reaches the sender as a report, with 0x08 raised there, is log entry 32. -/
def Obligations.RingStopEvents : Prop :=
  ∀ (s : State) (c src : ChId) (v : Xfer) (rest : List Xfer),
    let x := s.chan src
    let receive : Instr := if v.halo then .haloPushReceive c src (BitVec.ofNat 3 s.ownDev) else .ringBlockReceive c src (BitVec.ofNat 3 s.ownDev)
    let complete : Instr := if v.halo then .haloPushComplete src .landed else .moveRingComplete src .landed
    let ok : Bool := if v.halo then ((s.chan c).halo v.slot).takes src.val v.dev v.row 0 v.len else (s.chan c).slotOpen v.slot src.val v.dev
    let r : BitVec 6 := if v.halo then ((s.chan c).halo v.slot).ring else ((s.chan c).reg (LINK_OPEN v.slot)).extractLsb' 0 6
    let d := (s.chan c).ring r
    (x.link.xfers = v :: rest → v.dev = s.ownDev → v.ch = c → v.slot < 8 →
    (v.fate = .waiting → s.passes c = false → s.dropStop src v = none →
      (ok = true → exec receive s = .next (s.modChan src (fun x => x.setXfer 0 { v with fate := .accepted }))) ∧
      (ok = false → ∃ t, exec receive s = .next t ∧ (t.chan src).link.xfers = rest ∧
        (v.halo = true → (t.chan c).bit (HALO_STAT v.slot) 1 = true) ∧ (v.halo = false → (t.chan c).bit LINK_STAT 3 = true))) ∧
    (x.engineGo = true → s.nextTransit src c = none → v.fate = .accepted → v.pos < v.len → s.dropStop src v = none → v.ring = none → x.spad.err = [] →
      (s.chan c).spad.err = [] → 128 ≤ d.free → d.head.toNat % d.size.toNat + 128 ≤ d.size.toNat →
      (∃ t, exec (.ringStepReceive c src false) s = .next t ∧ ((t.chan c).ring r).head = d.head + 128 ∧
        (t.chan src).link.xfers = { v with pos := v.pos + 128 } :: rest ∧
        rdBytes (t.chan c).spad.mem (d.base.toNat + d.head.toNat % d.size.toNat) 128 = rdBytes x.spad.mem (v.src + v.pos) 128) ∧
      (∃ t, exec (.ringStepReceive c src true) s = .next t ∧ ((t.chan c).ring r).head = d.head + 128 ∧
        (t.chan c).raised = (s.chan c).raised ++ [0x08] ∧ (t.chan c).reg LINK_CRCERR = (s.chan c).reg LINK_CRCERR + 1)) ∧
    (x.engineGo = true → s.nextTransit src c = none → v.fate = .waiting → s.dropStop src v = some c → src ≠ c →
      ∃ t, exec (.ringStepReceive c src false) s = .next t ∧ (t.chan src).link.xfers = { v with fate := .dropped, buf := [] } :: rest ∧
        (t.chan c).reg LINK_DROP = (s.chan c).reg LINK_DROP + 1 ∧ (t.chan src).reg LINK_DROP = x.reg LINK_DROP + 1) ∧
    (x.engineGo = true → v.fate = .accepted → v.len ≤ v.pos → s.room src v.tk →
      ∃ t, exec complete s = .next t ∧ s.others t src ∧ (t.chan src).link.xfers = rest ∧ s.token t src v.tk)) ∧
    (x.engineGo = true → x.link.xfers = v :: rest → v.dev ≠ s.ownDev → v.fate = .waiting → v.len ≤ v.pos → s.room src v.tk →
      let far (rep : Report) : Instr := if v.halo then .haloPushComplete src rep else .moveRingComplete src rep
      (∀ rep, rep = .landed ∨ rep = .dropped ∨ rep = .lost →
        ∃ t, exec (far rep) s = .next t ∧ s.others t src ∧ (t.chan src).link.xfers = rest ∧ s.token t src v.tk ∧
          (t.chan src).reg LINK_DROP = x.reg LINK_DROP + (if rep = .landed then 0 else 1) ∧
          (t.chan src).raised = x.raised ++ (if rep = .lost then [0x08] else []))) ∧
    (∀ n p, s.nextTransit src c = some (n, p) → p.to_ = c → p.pkt.ddev.toNat = s.ownDev → src ≠ c →
      ∃ t, exec (.ringStepReceive c src false) s = .next t ∧ (t.chan c).link.inbox = (s.chan c).link.inbox ++ [p.pkt] ∧
        (t.chan src).link.transit = x.link.transit.eraseIdx n) ∧
    exec (.ringCreditReturn c true) s = .next (s.modChan c (fun x => { x with link := { x.link with credR := s.fc } })) ∧
    exec (.ringCreditReturn c false) s = .next (s.modChan c (fun x => { x with link := { x.link with credL := s.fc } })) ∧
    (∀ right : Bool, s.segWaits c right = true → (if right then (s.chan c).link.credR else (s.chan c).link.credL) + 9000 ≤ s.fc →
      ∃ t, exec (.ringSegmentDead c right) s = .next t ∧ s.others t c ∧ (t.chan c).bit LINK_STAT (if right then 1 else 0) = true) ∧
    (∀ (k : Fin 8) (w : Word), ((s.chan c).reg (LINK_OPEN k.val)).getLsbD 13 = false →
      let q : BitVec 6 := w.extractLsb' 0 6
      ∃ t, exec (.linkOpenWrite c k w) s = .next t ∧ s.others t c ∧
        (w.getLsbD 13 = false → (t.chan c).reg (LINK_OPEN k.val) = w &&& 0x3FFF ∧ (t.chan c).rings = (s.chan c).rings) ∧
        (w.getLsbD 13 = true → ((s.chan c).ring q).valid = true → ((s.chan c).ring q).prod = none →
          (t.chan c).reg (LINK_OPEN k.val) = w &&& 0x3FFF ∧ ((t.chan c).ring q).prod = some (.link, 1)) ∧
        (w.getLsbD 13 = true → (((s.chan c).ring q).valid = false ∨ ((s.chan c).ring q).prod ≠ none) →
          (t.chan c).reg (LINK_OPEN k.val) = (s.chan c).reg (LINK_OPEN k.val) ∧ (t.chan c).bit LINK_STAT 2 = true))

/-- R368, R377, R378: what the events of a collective do; the block is the sender's first and the collective the member's only one. -/
def Obligations.CollectiveEvents : Prop :=
  ∀ (s : State) (c src : ChId) (i : Coll),
    let x := s.chan c
    let dev : BitVec 3 := BitVec.ofNat 3 s.ownDev
    x.link.colls = [i] → i.started = true → x.engineGo = true → x.spad.err = [] →
    (∀ (b : OutBlk) (rest : List OutBlk), (s.chan src).link.outbox = b :: rest → b.to_ = c → s.passes c = false → s.deadStop b.right src c = none → b.tag = i.tag →
      i.got.contains b.rank = false →
      (b.crc = i.crc → b.rs = i.rs → b.data.length = i.b → b.rank < i.members.length →
        (∃ t, exec (.collectiveBlockReceive c src dev false) s = .next t ∧ (t.chan src).link.outbox = rest ∧
          (∃ j, (t.chan c).link.colls = [j] ∧ j.got = i.got ++ [b.rank] ∧ (i.rs = true → j.vals = i.vals ++ [b.data])) ∧
          (i.rs = true → (t.chan c).spad = x.spad) ∧
          (i.rs = false → i.arrival = false → rdBytes (t.chan c).spad.mem (i.dst + b.rank * i.b) i.b = b.data ∧
            ∀ e, (e < i.dst + b.rank * i.b ∨ i.dst + b.rank * i.b + i.b ≤ e) → rd8 (t.chan c).spad.mem e = rd8 x.spad.mem e)) ∧
        (∃ t, exec (.collectiveBlockReceive c src dev true) s = .next t ∧ (t.chan src).link.outbox = rest ∧
          (t.chan c).raised = x.raised ++ [0x08] ∧ (t.chan c).reg LINK_CRCERR = x.reg LINK_CRCERR + 1)) ∧
      (b.crc ≠ i.crc → ∃ t, exec (.collectiveBlockReceive c src dev false) s = .next t ∧ (t.chan src).link.outbox = rest ∧
        (t.chan c).bit LINK_STAT 4 = true ∧ (t.chan c).spad = x.spad ∧ (t.chan c).link.colls = [i])) ∧
    (i.got.length = i.members.length → s.room c i.tk →
      ∃ t, exec (.collectiveComplete c i.tag .landed) s = .next t ∧ s.others t c ∧ (t.chan c).link.colls = [] ∧ s.token t c i.tk ∧
        (i.rs = false → (t.chan c).spad = x.spad) ∧
        (i.rs = true → i.arrival = true →
          (t.chan c).spad.mem = (x.spadWrite i.dst (redSum i.op i.b i.vals)).spad.mem)) ∧
    (i.members.any (fun e => getField e 6 4 != s.ownDev) = true →
      exec (.collectiveComplete c i.tag .refused) s = .next (s.except c .ring i.org true) ∧
      exec (.collectiveComplete c i.tag .dropped) s = .next (s.setChan c (x.inc LINK_DROP 1)) ∧
      exec (.collectiveComplete c i.tag .lost) s = .next (s.setChan c ((x.inc LINK_DROP 1).raise 0x08)))

/-- R206, R212 to R225, R228, R229, R232, R236, R241, R500: the events of the PTU and the attention unit, on memories without error marks. That an
operation first lets the DRAM queue take its turn is log entry 29. The append is of one token and one head, and the outputs are those of
an ATTN.PAGE that has one query vector left, its maximum and sum being `m` and `l`. -/
def Obligations.PageEvents : Prop :=
  ∀ (s : State) (c : ChId),
    let x := s.chan c
    (∀ en : Bool, exec (.ptuCtrlEnWrite c en) s = .next (s.modChan c (fun x => x.setReg PTU_CTRL (if en then 1 else 0)))) ∧
    (x.bit PTU_CTRL 0 = false ∨ 0 < x.dram.hold → exec (.ptuOperation c) s = .next (s.modChan c Channel.dramTurn)) ∧
    (0 < x.dram.hold → exec (.cowCopyComplete c) s = .next (s.setChan c x)) ∧
    (∀ (i : DIns) (r : List DIns), x.bit PTU_CTRL 0 = true → x.engineGo = true → x.ptu.walk = [] → x.ptu.releases = [] → x.attn.queue = [] →
      x.dram.hold = 0 → x.dram.queue = [] →
      x.ptu.queue = i :: r → i.rcd ≠ [] → i.i < i.n → x.ptu.skipIns = [] → x.ptu.discard = 0 →
      let e := leNat (rdBytes x.spad.mem (field i.rcd 0 4 + 4 * i.i) 4)
      let h := entHandle e
      let d := x.pdesc h
      let good : Prop := x.spad.err = [] ∧ x.dram.err = [] ∧ e < 2 ^ 29 ∧ h < getField (x.reg PTU_NDESC) 21 0 ∧
        x.dramOk (pdPpn d * 4096) 4096 = true ∧ pdAlloc d = true ∧ pdGen d = entGen e ∧ getField d 63 60 = 0
      let goesOn (t : State) : Prop := s.others t c ∧ (t.chan c).ptu.queue = { i with i := i.i + 1, fc := max s.fc (i.fc + 1) } :: r ∧
        (t.chan c).reg64 PTU_OPS = x.reg64 PTU_OPS + 1 ∧ (t.chan c).reg PTU_CMD_OPS = x.reg PTU_CMD_OPS + 1
      (i.opc = 0x73 → i.mod = 0 → good → pdPin d < 255 →
        ∃ t, exec (.ptuOperation c) s = .next t ∧ goesOn t ∧ (t.chan c).pdesc h = setField d 44 37 (pdPin d + 1)) ∧
      (i.opc = 0x72 → i.mod = 0 → good → pdRef d < 65535 →
        ∃ t, exec (.ptuOperation c) s = .next t ∧ goesOn t ∧
          (t.chan c).pdesc h = setBit (setField d 36 21 (pdRef d + 1)) 57 true) ∧
      (∀ er, x.ptuApply i i.rcd i.i = .error er →
        exec (.ptuOperation c) s =
          .next (s.engineStop c (er.1, { er.2 with ptu := { er.2.ptu with queue := i.stopped :: r } }) 2 i.org))) ∧
    (∀ (o : WalkOp) (e : Nat), x.bit PTU_CTRL 0 = true → x.engineGo = false → x.ptu.walk = [o] → x.ptu.releases = [] → x.dram.hold = 0 → x.dram.queue = [] →
      o.kind = .pin e → x.dram.err = [] →
      let h := entHandle e
      let d := x.pdesc h
      h < getField (x.reg PTU_NDESC) 21 0 → x.dramOk (pdPpn d * 4096) 4096 = true → pdAlloc d = true → pdGen d = entGen e →
      getField d 63 60 = 0 → pdPin d < 255 →
      ∃ t, exec (.ptuOperation c) s = .next t ∧ s.others t c ∧ (t.chan c).ptu.walk = [] ∧
        (t.chan c).pdesc h = setField d 44 37 (pdPin d + 1) ∧ ((t.chan c).dctx o.ctx).walk = .ready e) ∧
    (∀ k, x.bit PTU_CTRL 0 = true → x.engineGo = false → x.ptu.walk = [] → x.ptu.releases = [k] → x.dram.hold = 0 → x.dram.queue = [] →
      exec (.ptuOperation c) s = .next (s.setChan c (({ x with ptu := { x.ptu with releases := [] } }).ptuRelease k))) ∧
    (∀ k r, x.ptu.copies = k :: r → x.dram.err = [] → x.dram.hold = 0 → x.dram.queue = [] →
      let p := pdPpn (x.pdesc k.p) * 4096
      let q := pdPpn (x.pdesc k.q) * 4096
      let sh := (x.reg64 PTU_SHIFT_BASE).toNat + 128 * k.q
      (sh + 128 ≤ q ∨ q + 4096 ≤ sh) →
      ∃ t, exec (.cowCopyComplete c) s = .next t ∧ s.others t c ∧ (t.chan c).ptu.copies = r ∧
        (t.chan c).ptu.releases = x.ptu.releases ++ [{ k with fc := s.fc }] ∧
        rdBytes (t.chan c).dram.mem q 4096 = rdBytes x.dram.mem p 4096) ∧
    (∀ (a : Fin 2) (f : ArrFault) (i : DIns) (r : List DIns), x.ptu.queue = i :: r → i.rcd ≠ [] → i.n ≤ i.i → x.engineGo = true → i.opc ≠ 0x74 → s.room c i.tk →
      ∃ t, exec (.attnInstrComplete c true a f) s = .next t ∧ s.others t c ∧ (t.chan c).ptu.queue = headAt s.fc r ∧ s.token t c i.tk) ∧
    (∀ (a : Fin 2) (f : ArrFault) (i : DIns) (r : List DIns) (y : Channel), x.attn.queue = i :: r → x.engineWork = true →
      (i.opc = 0x71 → x.dram.hold = 0) →
      (if i.opc == 0x76 then x.runTable i else if i.opc == 0x71 then x.dramTurn.runAppend i s.fc else x.runPage i (a, f)) = .go y →
      exec (.attnInstrComplete c false a f) s =
        .next ((s.setChan c { y with attn := { y.attn with queue := headAt s.fc r } }).tokenIn c i.tk i.org)) ∧
    (∀ (a : Fin 2) (f : ArrFault) (i : DIns) (r : List DIns), x.attn.queue = i :: r → x.engineWork = true → x.spad.err = [] → s.room c i.tk →
      let ends (t : State) : Prop := exec (.attnInstrComplete c false a f) s = .next t ∧ s.others t c ∧ s.token t c i.tk ∧
        (t.chan c).attn.queue = headAt s.fc r
      (i.opc = 0x76 → let b := rdBytes x.spad.mem i.desc 64
        let src := field b 0 4
        let off := field b 4 4
        let n := i.count
        zeroBytes b 8 64 = true → src % 16 = 0 → src < 0x2000000 →
        (i.mod.toNat % 4 = 0 → src + 16 * n ≤ 0x2000000 → off % 16 = 0 → off + 16 * n ≤ 65536 → ∃ t, ends t ∧
          rdBytes (t.chan c).attn.bitmap off (16 * n) = rdBytes x.spad.mem src (16 * n) ∧ (t.chan c).attn.bias = x.attn.bias ∧
          (t.chan c).attn.lens = x.attn.lens ∧ ∀ e, (e < off ∨ off + 16 * n ≤ e) → rd8 (t.chan c).attn.bitmap e = rd8 x.attn.bitmap e) ∧
        (i.mod.toNat % 4 = 1 → src + 4 * n ≤ 0x2000000 → off + n ≤ 256 → ∃ t, ends t ∧ (t.chan c).attn.bitmap = x.attn.bitmap ∧
          (t.chan c).attn.lens = x.attn.lens ∧
          (∀ j, j < n → sget 0 (t.chan c).attn.bias (256 * (i.mod.toNat / 4) + off + j) =
            BitVec.ofNat 32 (field (rdBytes x.spad.mem src (4 * n)) (4 * j) 4)) ∧
          ∀ e, (e < 256 * (i.mod.toNat / 4) + off ∨ 256 * (i.mod.toNat / 4) + off + n ≤ e) →
            sget 0 (t.chan c).attn.bias e = sget 0 x.attn.bias e) ∧
        (i.mod.toNat % 4 = 2 → src + 16 * n ≤ 0x2000000 → off + n ≤ 1024 → ∃ t, ends t ∧ (t.chan c).attn.bitmap = x.attn.bitmap ∧
          (t.chan c).attn.bias = x.attn.bias ∧
          rdBytes (t.chan c).attn.lens (16 * off) (16 * n) = rdBytes x.spad.mem src (16 * n) ∧
          ∀ e, (e < 16 * off ∨ 16 * off + 16 * n ≤ e) → rd8 (t.chan c).attn.lens e = rd8 x.attn.lens e)) ∧
      (∀ (k : BitVec 3) (d : DmaSet), i.opc = 0x71 → x.dram.hold = 0 → x.dram.queue = [] → x.dram.err = [] → i.rcd ≠ [] → i.n ≤ i.i →
        x.ptu.copies.any (fun y => y.src == 1) = false → x.ptu.releases.any (fun y => y.src == 1) = false →
        x.dmaActive = some (k, d) → d.att = true → d.no = i.no → i.count = 1 →
        let b := i.rcd
        let q := field b 8 2
        let geom := x.seqField q 17 1
        let tag := bitsOf geom 5 2
        let n := pageT (geomD geom) tag
        let de := geomD geom * pageE2 tag / 2
        let pos := field b 12 4
        let h := entHandle (x.dle (x.seqField q 0 8 + 4 * (pos / n)) 4)
        let page := pdPpn (x.pdesc h) * 4096
        let sh := (x.reg64 PTU_SHIFT_BASE).toNat + 128 * h
        let len := x.seqAt q + 12
        x.seqField q 16 1 = 1 → x.seqField q 12 4 ≤ pos → pos + 1 < 2 ^ 32 → pos % n * de + de ≤ 2048 → pos % n < 64 →
        (page + 4096 ≤ sh ∨ sh + 128 ≤ page) → (page + 4096 ≤ len ∨ len + 4 ≤ page) → (sh + 128 ≤ len ∨ len + 4 ≤ sh) →
        ∃ t, ends t ∧ let m := (t.chan c).dram.mem
          rdBytes m (page + pos % n * de) de = rdBytes x.spad.mem (field b 0 4) de ∧
          rdBytes m (page + 2048 + pos % n * de) de = rdBytes x.spad.mem (field b 0 4 + de) de ∧
          rd8 m (sh + pos % n) = rd8 x.spad.mem (field b 4 4) ∧ rd8 m (sh + 64 + pos % n) = rd8 x.spad.mem (field b 4 4 + 1) ∧
          (t.chan c).seqField q 12 4 = pos + 1) ∧
      (∀ (p : PageRun) (j : ApJob) (m l : Word), i.opc = 0x70 → i.rcd ≠ [] → x.attn.page = some p → p.pages = none → p.rows = [(m, l)] →
        (x.apJobs i)[p.job]? = some j → (x.apJobs i).length = p.job + 1 → j.n = 1 → x.apLk j ≤ 128 * p.blk →
        (p.wjob ≠ p.job ∨ p.looked = true) → x.winsOf 1 i.no = false → (x.accOf 1).err = [] →
        (∀ (n : Fin 8) (d : DmaSet), ((x.dma.ctx.get n).active = some d ∨ (x.dma.ctx.get n).shadow = some d) → d.no ≠ i.no) →
        let b := i.rcd
        apD b ≤ 128 → bitOf (field b 18 1) 5 = false →
        let o := field b 8 4 + j.base * (4 * apD b)
        ∃ t, ends t ∧ (t.chan c).attn.page = none ∧
          (m = 0xFF800000 → rdBytes (t.chan c).spad.mem o (4 * apD b) = List.replicate (4 * apD b) 0 ∧
            (t.chan c).reg ATT_EMPTY = x.reg ATT_EMPTY + 1) ∧
          (m ≠ 0xFF800000 → ∀ e, e < apD b → rdBytes (t.chan c).spad.mem (o + 4 * e) 4 =
            leBytes 4 (fmul (sget 0 (x.accOf 1).mem (128 * field b 26 2 + e))
              (BitVec.ofNat 32 (rcpValue (getField (x.reg NUM_LIB) 15 0) (f32 l)).w)).toNat) ∧
          ∀ e, (e < o ∨ o + 4 * apD b ≤ e) → rd8 (t.chan c).spad.mem e = rd8 x.spad.mem e))

/-- R245, R246, R248, R250, R251, R255, R257, R258, R260, R261: the events of the SCAN datapath. That an instruction on DRAM comes after what waits
in the DRAM queue is log entry 29, and that one which a ring holds rests with its partial work log entry 28. The results are those of
one row of an unprotected slot: of a step in MODE A with its bytes in the scratchpad, of a renormalisation and of an initial state. -/
def Obligations.ScanEvents : Prop :=
  ∀ (s : State) (c : ChId) (i : DIns) (f : ScanFault),
    let x := s.chan c
    (x.scan.queue = [i] → i.rcd ≠ [] → i.binds.bad = false → x.engineWork = true → x.mustFence i = false → x.scanWaits i = false →
      (i.opc = 0x82 ∨ (x.slot (field i.rcd 0 1)).state ≠ 3) →
      (let z := if scanOnDram i then x.dramTurn else x
       let q := if i.opc == 0x80 then z.runStep i f else if i.opc == 0x81 then z.runNorm i
          else if i.opc == 0x83 then z.runInit i else z.runSlot i
       (scanOnDram i = true → x.dram.hold = 0) →
       (∀ y, q = .part y → exec (.scanInstrComplete c f) s = .next (s.setChan c y)) ∧
       (∀ y, q = .go y → exec (.scanInstrComplete c f) s =
          .next ((s.setChan c { y with scan := { y.scan with queue := [] } }).tokenIn c i.tk i.org))) ∧
      (i.opc = 0x82 → s.room c i.tk →
        let b := i.rcd
        let n := field b 0 1
        let k : Fin 2 := if field b 2 1 == 0 then 0 else 1
        let e := field b 6 2 * (if field b 1 1 % 4 = 1 then 2 else 1) * (if bitOf (field b 1 1) 2 then 2 else 1)
        (i.mod = 0 → n < 32 → (x.slot n).state ≠ 1 → field b 4 2 + e ≤ 4096 → x.slotOwns k (field b 4 2) e = false →
          ∃ t, exec (.scanInstrComplete c f) s = .next t ∧ s.others t c ∧ s.token t c i.tk ∧ (t.chan c).scan.queue = [] ∧
            let u := (t.chan c).slot n
            u.state = 1 ∧ u.array = k ∧ u.base = field b 4 2 ∧ u.rows = field b 6 2 ∧ u.mode = field b 1 1 % 4 ∧
            u.gen = (x.slot n).nextGen ∧ u.steps = 0 ∧
            ∀ j, sget 0 (((t.chan c).acc.get k).mem) j =
              if 128 * field b 4 2 ≤ j ∧ j < 128 * field b 4 2 + 128 * e then 0 else sget 0 ((x.acc.get k).mem) j) ∧
        (i.mod = 1 → n < 32 → (x.slot n).gen = BitVec.ofNat 16 (field b 16 2) → (x.slot n).ckpt = false →
          ∃ t, exec (.scanInstrComplete c f) s = .next t ∧ s.others t c ∧ s.token t c i.tk ∧ ((t.chan c).slot n).state = 0 ∧
            (t.chan c).acc = x.acc))) ∧
    (x.scan.queue = [i] → i.rcd ≠ [] → i.binds.bad = false → x.engineWork = true → x.mustFence i = false → x.scanWaits i = false →
      x.spad.err = [] → (∀ k : Fin 2, (x.accOf k).err = []) → s.room c i.tk → f = .none →
      let b := i.rcd
      let n := field b 0 1
      let u := x.slot n
      let sat (v : Int) : Int := max (-2147483648) (min 2147483647 v)
      let old (e : Nat) : Word := sget 0 (x.acc.get u.array).mem e
      let ends (t : State) : Prop := exec (.scanInstrComplete c f) s = .next t ∧ s.others t c ∧ s.token t c i.tk ∧ (t.chan c).scan.queue = []
      let only (t : State) (row : Nat) (g : Nat → Word) : Prop := ∀ e, sget 0 ((t.chan c).acc.get u.array).mem e =
        if 128 * (u.base + row) ≤ e ∧ e < 128 * (u.base + row) + 128 then g (e - 128 * (u.base + row)) else old e
      n < 32 → u.state = 1 → u.ckpt = false → u.side = false →
      (let r := stepRec b
       let au := u.base * 128
       i.opc = 0x80 → u.mode = 0 → u.rows = 1 → i.count = 1 → i.n = 0 → i.i = 0 → i.row = 0 → i.ibuf = [] → i.dbuf = [] → i.obuf = [] →
       r.add = true → (r.dmode = 0 ∨ r.dmode = 2) → r.omode = 1 → r.rsrc = 0 → r.esrc = 0 → r.csrc = 0 → r.flags = 0 → r.normk = 0 →
       lowest (x.chunkCauses i r) = none →
       let g (j : Nat) : Int :=
         let d := if r.dmode = 0 then 0x40000000 else BitVec.ofNat 32 (field (rdBytes x.spad.mem r.dsrc 512) (4 * j) 4)
         let v := BitVec.ofNat 32 (field (rdBytes x.spad.mem r.isrc 512) (4 * j) 4)
         sat (sat (alignInt (d.toInt * (old (au + j)).toInt) (-30)) + sat (alignInt v.toInt (u.point 0)))
       ∃ t, ends t ∧ only t 0 (fun j => BitVec.ofInt 32 (g j)) ∧ ((t.chan c).slot n).steps = u.steps + 1 ∧
         (∀ j, j < 128 → rdBytes (t.chan c).spad.mem (r.odst + j * ofmtSize r.ofmt) (ofmtSize r.ofmt) =
           leBytes (ofmtSize r.ofmt) (convertTgt (ofmtTgt r.ofmt) .rne (((FV.ofInt (g j)).scale (-(u.point 0))).scale (-r.osh))).w) ∧
         ∀ e, (e < r.odst ∨ r.odst + 128 * ofmtSize r.ofmt ≤ e) → rd8 (t.chan c).spad.mem e = rd8 x.spad.mem e) ∧
      (let row := field b 6 2
       i.opc = 0x81 → u.mode = 0 → i.count = 1 → row < u.rows →
       let m := (List.range 128).foldl (fun a j => max a (old (128 * (u.base + row) + j)).toInt.natAbs) 0
       let fits (p : Int) : Prop := if u.point row ≤ p then m * 2 ^ (p - u.point row).toNat < 2 ^ (31 - field b 4 1)
         else m < 2 ^ (31 - field b 4 1) * 2 ^ (u.point row - p).toNat
       (m = 0 → ∃ t, ends t ∧ (t.chan c).acc = x.acc ∧ (t.chan c).slot n = u) ∧
       (∀ p : Int, m ≠ 0 → -64 ≤ p → p ≤ 63 → fits p → (∀ q : Int, p < q → q ≤ 63 → ¬fits q) →
         ∃ t, ends t ∧ ((t.chan c).slot n).point row = p ∧ (t.chan c).reg SCAN_NORMS = x.reg SCAN_NORMS + 1 ∧
           only t row (fun j => BitVec.ofInt 32 (alignInt (old (128 * (u.base + row) + j)).toInt (p - u.point row))))) ∧
      (let row := field b 4 2
       let src := field b 8 4
       let pts := field b 12 4
       i.opc = 0x83 → u.mode ≠ 1 → i.count = 1 → row < u.rows → src + 512 ≤ 0x2000000 → pts + 1 ≤ 0x2000000 →
       (pts ≠ 0 → -64 ≤ (rd8 x.spad.mem pts).toInt ∧ (rd8 x.spad.mem pts).toInt ≤ 63) →
       ∃ t, ends t ∧ only t row (fun j => BitVec.ofNat 32 (field (rdBytes x.spad.mem src 512) (4 * j) 4)) ∧
         (u.mode = 0 → ((t.chan c).slot n).point row = if pts = 0 then u.point row else (rd8 x.spad.mem pts).toInt))) ∧
    (∀ (r : StepRec) (code : Nat) (ins dec csh : List Byte) (esh : Int) (emit : Bool), r.add = true → code ≠ 2 →
      (∀ k : Fin 2, (x.accOf k).err = []) →
      let q := x.stepRow r i code ins dec esh csh emit (.mismatch i.vecs)
      q.1.raised = x.raised ++ [0x0A] ∧ q.1.bit SCAN_STAT 8 = true) ∧
    (x.scan.fence = [i] → let u := x.slot (field i.rcd 0 1 % 32)
      (u.state = 1 → u.gen = scanGen i.rcd → ∃ t, exec (.scanFenceRelease c) s = .next t ∧ s.others t c ∧ (t.chan c).scan.fence = [] ∧
        (t.chan c).scan.queue = { i with no := x.issued, freed := true } :: x.scan.queue ∧ (t.chan c).issued = x.issued + 1) ∧
      (u.state ≠ 1 ∨ u.gen ≠ scanGen i.rcd → ∃ t, exec (.scanFenceRelease c) s = .next t ∧ (t.chan c).scan.fence = [i] ∧
        (t.chan c).scan.queue = x.scan.queue))

/-- R264 to R271, R291, R293: the events of a raw stream. A row is the one of `rawRow` (R268, R269), shown for a stream without a
pyramid. That OFMT applies with PATH = 1 alone, and that a stream which is disabled keeps its frame number, is log entry 51. -/
def Obligations.CameraEvents : Prop :=
  ∀ (s : State) (c : ChId) (k : Fin 2), s.parked c = false →
    let x := s.chan c
    let f := x.intake.raw.get k
    let raw (t : State) : Raw := (t.chan c).intake.raw.get k
    (x.csiRuns k = true → f.active = false →
      (∀ err : BitVec 2, err.toNat < 2 → ∃ t, exec (.csiFrameStart c k err) s = .next t ∧ s.others t c ∧
        raw t = { active := true, stamp := s.now, cam := f.num, num := f.num + 1 } ∧
        (t.chan c).reg IN_CSI_ECC = x.reg IN_CSI_ECC + (if err = 1 then 1 else 0)) ∧
      (∃ t, exec (.csiFrameStart c k 2) s = .next t ∧ raw t = f ∧ (t.chan c).bit IN_STAT 1 = true)) ∧
    (∀ data : List Byte, x.csiRuns k = true → f.active = true → f.ended = false → f.lines.length < x.inH k →
      (∀ err : BitVec 2, err.toNat < 2 → data.length = lineBytes (x.inDt k) (x.inW k) →
        ∃ t, exec (.csiImageLine c k data err) s = .next t ∧ s.others t c ∧ raw t = { f with lines := f.lines ++ [(data, false)], crc := crcRun data f.crc } ∧
          (t.chan c).reg IN_CSI_ECC = x.reg IN_CSI_ECC + (if err = 1 then 1 else 0)) ∧
      (∃ t, exec (.csiImageLine c k data 2) s = .next t ∧ (raw t).lines = f.lines ∧ (raw t).flags.getLsbD 0 = true ∧ (t.chan c).bit IN_STAT 1 = true) ∧
      (∃ t, exec (.csiImageLine c k data 3) s = .next t ∧ (raw t).lines.length = f.lines.length + 1 ∧ (raw t).flags.getLsbD 0 = true ∧
        (t.chan c).bit IN_STAT 2 = true)) ∧
    (∀ data : List Byte, x.bit IN_CTRL 0 = true → x.csiRuns k = false →
      exec (.csiImageLine c k data 0) s = .next (s.modChan c (fun x => x.inc IN_CSI_DISC 1))) ∧
    (x.bit IN_CTRL 0 = true →
      exec (.csiDiscardedPacket c 0) s = .next (s.modChan c (fun x => x.inc IN_CSI_DISC 1)) ∧
      ∃ t, exec (.csiDiscardedPacket c 2) s = .next t ∧ (t.chan c).reg IN_CSI_DISC = x.reg IN_CSI_DISC ∧ (t.chan c).bit IN_STAT 1 = true) ∧
    (x.csiRuns k = true → f.active = true → f.ended = false →
      (∃ t, exec (.csiFrameEnd c k 2) s = .next t ∧ (raw t).ended = false ∧ (raw t).flags.getLsbD 0 = true ∧ (t.chan c).bit IN_STAT 1 = true) ∧
      (∃ t, exec (.csiFrameEnd c k 0) s = .next t ∧ s.others t c ∧ (raw t).ended = true ∧ (raw t).lines.length = max f.lines.length (x.inH k) ∧
        (f.lines.length < x.inH k → (raw t).flags.getLsbD 0 = true)) ∧
      (∀ data : List Byte, x.inCfg k 20 20 = 1 →
        let e := x.reg (IN_S_EMB k.val)
        ∃ t, exec (.csiEmbeddedLine c k data 0) s = .next t ∧ s.others t c ∧ (raw t).cam = BitVec.ofNat 32 (field data (getField e 15 0) 4) ∧
          (x.inCfg k 21 21 = 1 → (raw t).flags =
            if BitVec.ofNat 32 (field data (getField e 31 16) 4) = f.crc ^^^ 0xFFFFFFFF then f.flags else f.flags ||| 5))) ∧
    (∀ sync : Bool, ∃ t, exec (.csiLaneSync c sync) s = .next t ∧ s.others t c ∧
      (t.chan c).bit IN_STAT 0 = (sync && x.bit IN_CTRL 0)) ∧
    (f.active = true → x.inRuns k 0 = true → f.overrun = false → x.spad.err = [] →
      (let g := x.ring (x.inGuard k)
       x.inH k ≤ (f.outs.getD 0 []).length → 32 ≤ g.free → g.head.toNat % g.size.toNat + 32 ≤ g.size.toNat →
        ∃ t, exec (.intakeRowOutput c k) s = .next t ∧ s.others t c ∧ (raw t).active = false ∧
          (t.chan c).reg (IN_S_FRAMES k.val) = x.reg (IN_S_FRAMES k.val) + 1 ∧ ((t.chan c).ring (x.inGuard k)).head = g.head + 32 ∧
          rdBytes (t.chan c).spad.mem (g.addr g.head) 32 =
            guardRcd 0 0xFF k.val c.val f.flags f.cam (crc32 f.bytes.flatten) f.stamp f.cam (damageWord f.dmg)) ∧
      (let n := (f.outs.getD 0 []).length
       let bs := outBytes (x.inElem k).2 (x.inCfg k 15 15 == 1 && x.inCfg k 14 14 == 1) (x.rawRow k f.lines (f.outs.getD 0 []).getLast? n)
       let d := x.ring (x.inRing k 0)
       f.ended = true → n + 1 < x.inH k → x.inLevels k = 1 → bs.length ≤ d.free → d.head.toNat % d.size.toNat + bs.length ≤ d.size.toNat →
        ∃ t, exec (.intakeRowOutput c k) s = .next t ∧ s.others t c ∧ ((raw t).outs.getD 0 []).length = n + 1 ∧
          ((t.chan c).ring (x.inRing k 0)).head = d.head + BitVec.ofNat 32 bs.length ∧
          rdBytes (t.chan c).spad.mem (d.addr d.head) bs.length = bs)) ∧
    (∃ t, exec (.inStreamEnWrite c k true) s = .next t ∧ s.others t c ∧
      (x.inCfg k 0 0 = 0 → x.inConfigOk k = true → (t.chan c).bit (IN_S_CFG k.val) 0 = true ∧ (t.chan c).reg IN_STAT = x.reg IN_STAT) ∧
      (x.inCfg k 0 0 = 0 → x.inConfigOk k = false → (t.chan c).bit (IN_S_CFG k.val) 0 = false ∧ (t.chan c).bit IN_STAT 5 = true)) ∧
    (x.inCfg k 0 0 = 1 → ∃ t, exec (.inStreamEnWrite c k false) s = .next t ∧ s.others t c ∧ (t.chan c).bit (IN_S_CFG k.val) 0 = false ∧
      raw t = { num := f.num })

/-- R276 to R285, R291, R424, R500: the events of compressed streams. That a posted counter which no slot awaits goes to the stream's next
slot, and that a frame with a wrong FCRC which decodes undamaged becomes the reference, is log entry 51; one batch is outstanding where the clause says so, and no codeword or burst
is marked. The pixels of a decode are those of `jDecode`. -/
def Obligations.BatchEvents : Prop :=
  ∀ (s : State) (c : ChId), s.parked c = false →
    let x := s.chan c
    let r : BitVec 6 := (x.reg IN_BRING).extractLsb' 0 6
    let d := x.ring r
    let bs := rdBytes x.spad.mem (d.addr d.tail) 128
    let n := x.intake.resolved
    let idle : Prop := ∀ k : Fin 2, (x.intake.comp.get k).host = []
    let early : Prop := ∀ b ∈ x.intake.batches, s.now < b.deadline
    (x.fenced = false → x.bit IN_BRING 6 = true → 128 ≤ d.fill → x.intake.batches.length < 8 → x.spad.err = [] →
      d.tail.toNat % d.size.toNat + 128 ≤ d.size.toNat →
      (x.batchOk bs = true → idle → early → ∃ t, exec (.batchSubmit c) s = .next t ∧ s.others t c ∧ ((t.chan c).ring r).tail = d.tail + 128 ∧
        ∃ b, (t.chan c).intake.batches = x.intake.batches ++ [b] ∧ b.bid = BitVec.ofNat 32 (field bs 0 4) ∧
          b.deadline = BitVec.ofNat 64 (field bs 8 8) ∧ b.odst = field bs 16 4 ∧ b.opitch = field bs 20 4 ∧ b.gdst = field bs 24 4 ∧
          b.slots.length = field bs 4 1) ∧
      (x.batchOk bs = false → ∃ t, exec (.batchSubmit c) s = .next t ∧ s.others t c ∧ ((t.chan c).ring r).tail = d.tail + 128 ∧
        (t.chan c).intake.batches = x.intake.batches ∧ (t.chan c).bit IN_STAT 4 = true)) ∧
    (∀ (k : Fin 2) (v : Word), x.inRuns k 1 = true → x.inCfg k 19 19 = 1 → (x.intake.comp.get k).host = [] → early →
      ((x.intake.comp.get k).postOrd v = none → ∃ t, exec (.inHostpostWrite c k v) s = .next t ∧ s.others t c ∧
        (t.chan c).intake.comp.get k = x.intake.comp.get k ∧ (t.chan c).intake.resolved = n) ∧
      ((x.intake.comp.get k).postOrd v ≠ none → (∀ e ∈ x.unresolved, e.2.2.stream ≠ k) →
        ∃ t, exec (.inHostpostWrite c k v) s = .next t ∧ s.others t c ∧
          (t.chan c).intake.comp.get k = { x.intake.comp.get k with host := [v] }) ∧
      (∀ e o, x.unresolved.find? (fun e => e.2.2.stream == k) = some e → (x.intake.comp.get k).postOrd v = some o →
        o.any (fun d => decide (e.2.2.ord < d)) = false → x.bufRead k 0 = false → x.bufRead k 1 = false →
        ∃ t, exec (.inHostpostWrite c k v) s = .next t ∧ s.others t c ∧ (t.chan c).intake.resolved = n ++ [(e.1, e.2.1)] ∧
          ((t.chan c).intake.comp.get k).host = [] ∧ ((t.chan c).intake.comp.get k).ref = some (x.workBuf k, v))) ∧
    (∀ e rest f, early → x.bit IN_CTRL 3 = true → x.intake.decode = none → x.fenced = false → x.unresolved = e :: rest → x.slotFrame e.2.2 = some f →
      f.isOpen = false → f.gone = false → x.inCfg e.2.2.stream 19 19 = 0 → x.inRuns e.2.2.stream 1 = true →
      x.bufRead e.2.2.stream (x.workBuf e.2.2.stream) = false →
      exec (.jpegDecodeStart c) s = .next (s.setChan c { x with intake := { x.intake with decode := some (e.1, e.2.1, s.fc) } })) ∧
    (∀ bid k t0 v, x.intake.decode = some (bid, k, t0) → x.bslot bid k = some v →
      (∀ f, x.slotFrame v = some f → x.fenced = false → x.dram.err = [] → x.dram.hold = 0 → early →
        ((x.reg (IN_S_DECMAX v.stream.val)).toNat = 0 ∨ s.fc < t0 + (x.reg (IN_S_DECMAX v.stream.val)).toNat) → x.bufRead v.stream (1 - x.workBuf v.stream) = false →
        let z := x.dramTurn
        let q := jDecode (s.reg (GLB_ID + 4)).toNat (x.inW v.stream) (x.inH v.stream) (z.frameBytes s.free v.stream f)
          ((x.streamRef v.stream).map (fun r => rdBytes z.dram.mem (x.fbuf v.stream r.1) (3 * x.inW v.stream * x.inH v.stream)))
        ∃ t, exec (.jpegDecodeComplete c) s = .next t ∧ s.others t c ∧ (t.chan c).intake.decode = none ∧
          (t.chan c).intake.resolved = n ++ [(bid, k)] ∧
          rdBytes (t.chan c).dram.mem (x.fbuf v.stream (x.workBuf v.stream)) q.2.length = q.2 ∧
          ((t.chan c).intake.comp.get v.stream).ref =
            (if q.1 = none then some (x.workBuf v.stream, f.frame) else (x.intake.comp.get v.stream).ref)) ∧
      ((x.reg (IN_S_DECMAX v.stream.val)).toNat ≠ 0 → t0 + (x.reg (IN_S_DECMAX v.stream.val)).toNat ≤ s.fc → x.fenced = false → x.dram.hold = 0 → early →
        ∀ i ∈ [Instr.jpegDecodeAbandon c, .jpegDecodeComplete c], ∃ t, exec i s = .next t ∧ s.others t c ∧ (t.chan c).intake.decode = none ∧
          (t.chan c).intake.resolved = n ++ [(bid, k)] ∧
          ∃ u w, (t.chan c).bslot bid k = some u ∧ u.res = some w ∧ w.flags.getLsbD 1 = true)) ∧
    (∀ b, x.fenced = false → x.intake.batches = [b] → b.deadline ≤ s.now →
      ∃ t, exec (.batchDeadline c) s = .next t ∧ s.others t c ∧ (t.chan c).unresolved = [] ∧ (t.chan c).intake.batches.length = 1) ∧
    (0 < x.dram.hold → exec (.jpegDecodeComplete c) s = .next s ∧ exec (.slotAssemblyComplete c) s = .next s) ∧
    (x.fenced = true → ∀ i ∈ [Instr.jpegDecodeComplete c, .jpegDecodeAbandon c, .batchDeadline c], exec i s = .next s) ∧
    (∀ b v w rest, x.intake.batches = [b] → b.slots = [v] → v.res = some w → n = (b.bid, 0) :: rest → x.fenced = false → x.bit IN_CTRL 3 = true →
      x.spad.err = [] → x.dram.hold = 0 → idle →
      ∃ t, exec (.slotAssemblyComplete c) s = .next t ∧ s.others t c ∧ (t.chan c).intake.resolved = rest ∧ (t.chan c).intake.batches = [] ∧
        (t.chan c).intake.past.head? = some (b.bid, if w.flags &&& 3 ≠ 0 then 1 else 0) ∧
        rdBytes (t.chan c).spad.mem b.gdst 4 = leBytes 4 b.bid.toNat)

/-- R294, R296, R299, R302, R305, R307, R309 to R312, R316 to R319, R321: the events of the servo engine. The output's bounds are
OUTMIN and OUTMAX of the axis record. That SERVO_LT_ERR takes the lowest code where several conditions of R302 hold, and that the safe
state takes no sample and no record, is log entry 36. -/
def Obligations.ServoEvents : Prop :=
  ∀ (s : State) (c : ChId),
    let x := s.chan c
    let v := x.servo
    let m := v.bank
    (s.parked c = true →
      exec (.servoTickStart c) s = .next s ∧ (∀ cmp ecc sof, exec (.servoEvalStart c cmp ecc sof) s = .next s) ∧
      (∀ n, exec (.servoHandoff c n) s = .next s)) ∧
    (s.parked c = false →
    (∀ en : Bool, ∃ t, exec (.servoCtrlEnWrite c en) s = .next t ∧ s.others t c ∧ (t.chan c).bit SERVO_CTRL 0 = en ∧
      (t.chan c).servo.axes = v.axes ∧ (t.chan c).servo.banks = v.banks ∧
      (en = false → x.bit SERVO_CTRL 0 = true → (t.chan c).servo.next = none ∧ (t.chan c).servo.phase = .idle) ∧
      (en = true → x.bit SERVO_CTRL 0 = false → v.periodNs ≠ 0 → s.gridNow ≤ nsOf (x.reg64 SERVO_T0) →
        (t.chan c).servo.next = some (nsOf (x.reg64 SERVO_T0), 0))) ∧
    (∀ τ n, x.bit SERVO_CTRL 0 = true → v.next = some (τ, n) → τ ≤ s.nowNs →
      ∃ t, exec (.servoTickStart c) s = .next t ∧ s.others t c ∧ (t.chan c).reg SERVO_TICK = n ∧
        (t.chan c).servo.phase = .started ∧ (t.chan c).servo.fc0 = s.fc ∧
        (∀ a : Fin 16, (t.chan c).servo.axis a = { ((v.axis a).pop (shortOf τ) s.fc).rcStep with fin := false }) ∧
        (v.armed = false → (t.chan c).servo.active = v.active ∧
          (v.periodNs ≠ 0 → (t.chan c).servo.next = some (τ + v.periodNs, n + 1))) ∧
        (v.armed = true → x.reg64 SERVO_SWTIME ≤ shortOf τ →
          (t.chan c).servo.active ≠ v.active ∧ (t.chan c).servo.armed = false ∧ (t.chan c).bit SERVO_STAT 6 = true)) ∧
    (∀ (cmp ecc : BitVec 16) (sof : Bool), v.phase = .started → v.fc0 + bTeval m ≤ s.fc →
      (bWaits m = true → sof = true → x.bit SERVO_STAT 1 = false →
        exec (.servoEvalStart c cmp ecc sof) s = .next (s.modChan c (fun x => x.modServo (fun v => { v with phase := .waiting cmp ecc })))) ∧
      (x.bit SERVO_STAT 1 = true →
        exec (.servoEvalStart c cmp ecc sof) s = .next (s.modChan c (fun x => x.modServo (fun v => { v with phase := .evaluated })))) ∧
      (∀ a : Fin 16, (bWaits m = false ∨ sof = false) → x.bit SERVO_STAT 1 = false → x.bit SERVO_RING 6 = false → liveAxes m = [a] →
        v.fc0 + bTeval m + v.cost m + 24 ≤ v.fc0 + bTout m →
        (v.arrived = [] → x.drv.state ≠ .up → ∃ t, exec (.servoEvalStart c cmp ecc sof) s = .next t ∧ s.others t c ∧
          (t.chan c).reg DRV_NOSMP = x.reg DRV_NOSMP + 1 ∧ ((t.chan c).servo.axis a).held = true ∧
          ((t.chan c).servo.axis a).out = (v.axis a).out) ∧
        (∀ fr st f0, v.arrived = [(fr, st, f0)] → f0 < v.fc0 + bTeval m → x.drv.state = .up → bitOf (field fr 10 1) 0 = false → a.val < field fr 12 1 →
          bitOf (field ((fr.drop (16 + 32 * a.val)).take 32) 24 2) 0 = true →
          (cmp.getLsbD a.val = false → ecc.getLsbD a.val = false →
            (∃ i, i < 4 ∧ loopEn m a.val i = true ∧ loopNosel m a.val i = false) →
            bInt m (axAt a.val + 8) ≤ bInt m (axAt a.val + 12) →
            ∃ t, exec (.servoEvalStart c cmp ecc sof) s = .next t ∧ s.others t c ∧ (t.chan c).servo.phase = .evaluated ∧
              let y := (t.chan c).servo.axis a
              y.fin = true ∧ y.held = false ∧ y.stale = false ∧ bInt m (axAt a.val + 8) ≤ y.out.toInt ∧ y.out.toInt ≤ bInt m (axAt a.val + 12) ∧
              y.smp = some ⟨(fr.drop (16 + 32 * a.val)).take 32, st, x.reg SERVO_TICK, v.started⟩) ∧
          (cmp.getLsbD a.val = true → ∃ t, exec (.servoEvalStart c cmp ecc sof) s = .next t ∧ s.others t c ∧
            ((t.chan c).servo.axis a).held = true ∧ ((t.chan c).servo.axis a).out = (v.axis a).out ∧
            (t.chan c).reg SERVO_CMPCNT = satAdd32 (x.reg SERVO_CMPCNT) 1 ∧ (t.chan c).bit SERVO_STAT 3 = true ∧
            (t.chan c).raised = x.raised ++ [0x0C])))) ∧
    (∀ (cmp ecc : BitVec 16) (a : Fin 16) (len : BitVec 16) (frame : List Byte), v.phase = .waiting cmp ecc → x.bit SERVO_STAT 1 = false →
      x.bit SERVO_RING 6 = false → liveAxes m = [a] → cmp.getLsbD a.val = false → ecc.getLsbD a.val = false → x.drv.state = .up →
      x.drvLoops = false → v.arrived = [] → s.fc + v.cost m + 24 < v.fc0 + bTout m →
      let body := frame.take (frame.length - 4)
      len.toNat = 20 + 32 * bNax m → frame.length = len.toNat → field frame 12 1 = bNax m →
      field frame (frame.length - 4) 4 = (crc32 body).toNat → bitOf (field body 10 1) 0 = false → a.val < bNax m →
      bitOf (field ((body.drop (16 + 32 * a.val)).take 32) 24 2) 0 = true →
      ∃ t, exec (.drvSampleFrame c 2 len frame 0) s = .next t ∧ s.others t c ∧ (t.chan c).servo.phase = .evaluated ∧
        ((t.chan c).servo.axis a).fin = true ∧ ((t.chan c).servo.axis a).held = false ∧
        ((t.chan c).servo.axis a).smp = some ⟨(body.drop (16 + 32 * a.val)).take 32, s.now, x.reg SERVO_TICK, v.started⟩) ∧
    (∀ sof : Nat, v.phase = .evaluated → bNax m ≠ 0 → bNax m ≤ 16 → v.fc0 + bTout m ≤ s.fc + 24 → x.drv.state = .up →
      ∃ t, exec (.servoHandoff c sof) s = .next t ∧ s.others t c ∧ (t.chan c).servo.phase = .handed ∧
        let fr := (t.chan c).drv.frame
        fr.length = 20 + 16 * bNax m ∧ fr.take 4 = leBytes 4 (x.reg SERVO_TICK).toNat ∧ (t.chan c).drv.first = false ∧ (t.chan c).drv.sts = x.stsBlock ∧
        (t.chan c).reg DRV_TXFR = x.reg DRV_TXFR + 1 ∧
        (x.bit SERVO_STAT 1 = false → ∀ a ∈ liveAxes m, (v.axis a).fin = false → (t.chan c).bit SERVO_MISS a.val = true) ∧
        (x.bit SERVO_STAT 1 = true → bitOf (field fr 10 1) 0 = true ∧ ∀ a, a < bNax m →
          (fr.drop (16 + 16 * a)).take 16 = List.replicate 8 0 ++ [8] ++ List.replicate 7 0)) ∧
    (∀ a : Fin 16, (v.axis a).rc = 3 → ∃ t, exec (.learnClearDone c a) s = .next t ∧ s.others t c ∧
      ((t.chan c).servo.axis a).rc = 1 ∧ ∀ k, sget 0 (t.chan c).servo.learn k =
        if a.val * 4096 ≤ k ∧ k < a.val * 4096 + 4096 then 0 else sget 0 v.learn k)) ∧
    (v.armed = false → ∃ t, exec (.servoSwctlArm c) s = .next t ∧ s.others t c ∧
      (v.armCode v.otherBank = 0 → (t.chan c).servo.armed = true ∧ (t.chan c).reg SERVO_LT_ERR = x.reg SERVO_LT_ERR) ∧
      (v.armCode v.otherBank ≠ 0 → (t.chan c).servo = v ∧
        (t.chan c).reg SERVO_LT_ERR = BitVec.ofNat 32 (v.armCode v.otherBank) ∧ (t.chan c).bit SERVO_STAT 5 = true)) ∧
    exec (.servoSwctlDisarm c) s = .next (s.modChan c (fun x => x.modServo (fun v => { v with armed := false })))

/-- R316, R317, R321, R322, R324, R325: the events of the drive link. That loopback turns TRN away, that TRN is heard with the drive's role
alone, that invalid blocks outside a frame count as block errors and that MEAS starts training anew without another 1 ms is log entry 37. -/
def Obligations.DriveLinkEvents : Prop :=
  ∀ (s : State) (c : ChId), s.parked c = false →
    let x := s.chan c
    let d := x.drv
    let ready : Prop := ∀ p q, x.servo.phase ≠ .waiting p q
    let drv (t : State) : Drv := (t.chan c).drv
    (∀ en : Bool, ∃ t, exec (.drvCfgEnWrite c en) s = .next t ∧ s.others t c ∧ (t.chan c).bit DRV_CFG 0 = en ∧
      (x.bit DRV_CFG 0 = en → drv t = d) ∧ (en = false → x.bit DRV_CFG 0 = true → drv t = { d with state := .down, lock := false }) ∧
      (en = true → x.bit DRV_CFG 0 = false → drv t = { d with state := if d.lock then .locked else .seek, since := s.nowFine, tries := 0 })) ∧
    (x.bit DRV_CFG 0 = true → exec (.drvBlockLock c) s = .next (s.modChan c (fun x => { x with
      drv := { d with lock := true, state := if d.state = .seek then .locked else d.state } }))) ∧
    (∀ bad : BitVec 5, d.lock = true → ready → ∃ t, exec (.drvLockLoss c bad) s = .next t ∧ s.others t c ∧ (drv t).lock = false ∧
      (t.chan c).reg DRV_BLKERR = x.reg DRV_BLKERR + BitVec.ofNat 32 bad.toNat ∧
      (d.state = .up → (t.chan c).bit DRV_STAT 4 = true ∧ (t.chan c).reg DRV_RETRAIN = x.reg DRV_RETRAIN + 1 ∧
        (drv t).state = if x.bit DRV_CFG 1 then .seek else .down)) ∧
    (∀ st role : Byte, (x.drvLoops = true ∨ role ≠ 0xD1 → exec (.drvTrnReceive c st role) s = .next (s.setChan c x)) ∧
      (x.drvLoops = false → d.state = .locked → 2 ≤ st → exec (.drvTrnReceive c st 0xD1) s =
        .next (s.modChan c (fun x => { x with drv := { d with state := .meas, token := d.token + 1, tries := 0 } }))) ∧
      (x.drvLoops = false → d.state = .ready → 3 ≤ st → exec (.drvTrnReceive c st 0xD1) s =
        .next (s.modChan c (fun x => { x with drv := { d with state := .up, first := true } })))) ∧
    (∀ (turn : BitVec 16) (ps : Nat), x.drvLoops = false → d.state = .meas → ∃ t, exec (.drvEchoReceive c d.token turn ps) s = .next t ∧ s.others t c ∧
      (t.chan c).reg DRV_RTT = BitVec.ofNat 32 (ps - turn.toNat * 10560) ∧ drv t = { d with state := .ready }) ∧
    (d.state = .meas → ∃ t, exec (.drvMeasTimeout c) s = .next t ∧ s.others t c ∧
      drv t = if d.tries < 4 then { d with tries := d.tries + 1 } else { d with state := if d.lock then .locked else .seek, tries := 0 }) ∧
    (d.state ≠ .down → d.state ≠ .up → d.since + 1000000 * 2 ^ 32 ≤ s.nowFine →
      ∃ t, exec (.drvTrainingTimeout c) s = .next t ∧ s.others t c ∧ (t.chan c).bit DRV_STAT 3 = true ∧
        (x.bit DRV_CFG 1 = false → (drv t).state = .down) ∧
        (x.bit DRV_CFG 1 = true → drv t = { d with state := if d.lock then .locked else .seek, since := s.nowFine, tries := 0 })) ∧
    (∀ (kind : Byte) (len : BitVec 16) (frame : List Byte), x.bit DRV_CFG 0 = true →
      exec (.drvSampleFrame c kind len frame 3) s = .next (s.modChan c (fun x => x.inc DRV_BLKERR 1))) ∧
    (d.state = .up → x.drvLoops = false →
      (∀ (sts : Byte) (errs : BitVec 16), exec (.drvStsReceive c sts errs) s =
        .next (s.modChan c (fun x => x.setReg DRV_FARSTS ((0 : Byte) ++ errs ++ sts)))) ∧
      ∀ (kind : Byte) (len : BitVec 16) (frame : List Byte), ready →
        let good : Prop := kind = 2 ∧ len.toNat = 20 + 32 * bNax x.servo.bank ∧ frame.length = len.toNat ∧
          field frame 12 1 = bNax x.servo.bank
        let body := frame.take (frame.length - 4)
        let crc : Prop := field frame (frame.length - 4) 4 = (crc32 body).toNat
        (good → crc → ∃ t, exec (.drvSampleFrame c kind len frame 0) s = .next t ∧ s.others t c ∧
          (t.chan c).reg DRV_RXFR = x.reg DRV_RXFR + 1 ∧ (t.chan c).servo.arrived = x.servo.arrived ++ [(body, s.now, s.fc)]) ∧
        (good → ¬ crc → exec (.drvSampleFrame c kind len frame 0) s = .next (s.modChan c (fun x => x.inc DRV_CRCERR 1))) ∧
        (¬ good → exec (.drvSampleFrame c kind len frame 0) s = .next (s.modChan c (fun x => x.inc DRV_LENERR 1))) ∧
        exec (.drvSampleFrame c kind len frame 1) s = .next (s.modChan c (fun x => x.inc DRV_LENERR 1)) ∧
        exec (.drvSampleFrame c kind len frame 4) s = .next (s.modChan c (fun x => (x.inc DRV_BLKERR 1).inc DRV_LENERR 1)) ∧
        exec (.drvSampleFrame c kind len frame 2) s = .next (s.modChan c (fun x => (x.inc DRV_BLKERR 1).inc DRV_LENERR 1)))

/-- R327, R332 to R334, R336, R341, R342: the events of the Almanac. `canOpen` is R332's conditions on OFFSET and gate, `cutFirst` that
a boundary event comes first on this fc (R356). -/
def Obligations.AlmanacEvents : Prop :=
  ∀ (s : State) (c : ChId), s.parked c = false →
    let x := s.chan c
    let m := x.bank
    let i := x.alm.ahead
    let alm (t : State) : Almanac := (t.chan c).alm
    (x.alm.running = true → x.cmd.run = none →
      (x.alm.armed = none → x.frame0 + bkFrame m ≤ s.nowNs → ∃ t, exec (.almFrameStart c) s = .next t ∧ s.others t c ∧
        (t.chan c).reg ALM_FRAME = x.reg ALM_FRAME + 1 ∧ (alm t).entry = 0 ∧ (alm t).isOpen = false ∧ (alm t).active = x.alm.active ∧
        (t.chan c).reg ALM_SKIP = x.reg ALM_SKIP + BitVec.ofNat 32 (bkNent m - i)) ∧
      (∀ j, s.protDue c = some j → ∃ t, exec (.protectedBoundaryCut c) s = .next t ∧ s.others t c ∧ (alm t).entry = j ∧
        (alm t).isOpen = false ∧ (t.chan c).reg ALM_SKIP = x.reg ALM_SKIP + BitVec.ofNat 32 (j - i))) ∧
    (∀ r j, x.alm.running = true → x.cmd.run = some r → r.phase = .running → r.hailRun = false → s.protDue c = some j →
      ∃ t, exec (.protectedBoundaryCut c) s = .next t ∧ s.others t c ∧ (alm t).entry = j ∧
        (t.chan c).reg ALM_CUT = x.reg ALM_CUT + 1 ∧ (t.chan c).bit ALM_STAT 4 = true ∧
        ∃ r', (t.chan c).cmd.run = some r' ∧ r'.cmd = r.cmd ∧ r'.phase = .stopping ∧ r'.status = 0x02 ∧ getField r'.code 7 0 = 0x0D ∧
          r'.flags = r.flags ||| 1) ∧
    (∀ k, x.alm.running = true → s.seqFree c = true → s.boundary c = some k →
      (x.alm.isOpen = false → s.cutFirst c i = false → x.canOpen i k = true →
        let e := bkEnt m i
        (e.typ = 1 → ∃ t, exec (.almEntryOpen c) s = .next t ∧ s.others t c ∧ (alm t).entry = i ∧ (alm t).isOpen = true ∧
          (t.chan c).cmd = x.cmd) ∧
        (e.typ ≠ 1 → e.src = false → x.headOf e.cls = none → ∃ t, exec (.almEntryOpen c) s = .next t ∧ s.others t c ∧
          (alm t).entry = i + 1 ∧ (alm t).isOpen = false ∧ (t.chan c).cmd = x.cmd ∧ (t.chan c).reg ALM_SKIP = x.reg ALM_SKIP + 1) ∧
        (∀ h, e.typ ≠ 1 → e.src = false → x.headOf e.cls = some h → h.kind = 1 → x.rcdCode h = 0 → s.expired h = false →
          x.startCheck (h.prog.toNat % 0x8000) (some (bkGrant m e.cls)) (x.charged e.cls) e.budget true = 0 →
          ∃ t, exec (.almEntryOpen c) s = .next t ∧ s.others t c ∧ (alm t).isOpen = true ∧ (t.chan c).cmd.accepted = x.cmd.accepted.tail ∧
            ∃ r, (t.chan c).cmd.run = some r ∧ r.cmd = h ∧ r.src = .entry ∧ r.limit = e.budget ∧ r.entry = i) ∧
        (e.typ ≠ 1 → e.src = true → x.startCheck (stProg m e.stand) (some (bkGrant m e.cls)) (x.charged e.cls) e.budget true = 0 →
          ∃ t, exec (.almEntryOpen c) s = .next t ∧ s.others t c ∧ (alm t).isOpen = true ∧ (t.chan c).cmd.accepted = x.cmd.accepted ∧
            (t.chan c).seq.rs 3 = runId i (x.reg ALM_FRAME) ∧
            ∃ r, (t.chan c).cmd.run = some r ∧ r.src = .standing e.stand ∧ r.limit = e.budget ∧ r.cmd.prog.toNat = stProg m e.stand)) ∧
      (∀ h, x.alm.isOpen = true → (bkEnt m x.alm.entry).typ = 1 → x.headOf (bkEnt m x.alm.entry).cls = some h →
        s.cutFirst c (bkNent m) = false → x.canOpen i k = false →
        (x.frame0 + 1000 * k) * pointMhz (s.point c) + 1000 * (bkEnt m x.alm.entry).budget ≤ x.horizon * pointMhz (s.point c) →
        h.kind = 1 → x.rcdCode h = 0 → s.expired h = false →
        x.startCheck (h.prog.toNat % 0x8000) (some (bkGrant m (bkEnt m x.alm.entry).cls)) (x.charged (bkEnt m x.alm.entry).cls)
          (bkEnt m x.alm.entry).budget true = 0 →
        ∃ t, exec (.almFillStart c) s = .next t ∧ s.others t c ∧ (alm t).isOpen = true ∧ (alm t).entry = x.alm.entry ∧
          ∃ r, (t.chan c).cmd.run = some r ∧ r.cmd = h ∧ r.limit = (bkEnt m x.alm.entry).budget)) ∧
    (x.fenced = false → x.cmd.run = none →
      (x.alm.armed = some 2 → x.alm.running = true → x.frame0 + bkFrame m ≤ s.nowNs → ∃ t, exec (.almSwitchApply c) s = .next t ∧
        s.others t c ∧ (alm t).running = false ∧ (alm t).armed = none ∧ (t.chan c).bit ALM_STAT 3 = true) ∧
      (x.alm.armed = some 1 → nsOf (x.reg64 ALM_SWTIME) ≤ s.nowNs → ∃ t, exec (.almSwitchApply c) s = .next t ∧ s.others t c ∧
        (alm t).running = true ∧ (alm t).active = x.alm.inactive ∧ (alm t).armed = none ∧ (alm t).entry = 0 ∧
        (t.chan c).reg ALM_EPOCH = bkEpoch (x.alm.bank x.alm.inactive) ∧ (t.chan c).reg ALM_FRAME = 0 ∧ (t.chan c).bit ALM_STAT 3 = true ∧
        (t.chan c).reg64 ALM_T0 = shortOf (nsOf (x.reg64 ALM_SWTIME)) ∧
        ∀ p, p < 8 → (t.chan c).reg (SPAD_RESV p) = bkResv (x.alm.bank x.alm.inactive) p)) ∧
    (∀ r j, x.cmd.run = some r → r.src = .standing j → r.phase = .finished → x.fenced = false → r.thaw = none → x.restore = [] →
      (∀ a, (x.servo.axis a).stage = []) →
      ∃ t, exec (.standingReportWrite c) s = .next t ∧ s.others t c ∧ (t.chan c).cmd.run = none ∧
        rdBytes t.hostMem r.rpt.toNat 32 = cplRcd r.cmd.seq r.start r.endT r.epoch r.status
          (if r.verdict = 0 then x.verdict r else r.verdict) r.code)

/-- R345 to R347, R350 to R352: the events of freezes and thaws, in memories without marks and outside a refresh, and, for the restore, with nothing in the
SCAN datapath. `thawCode` is the code R350 refuses a THAW with, 0 for none; when the header shows that the THAW is late, the rest of
the image is not read. That the context itself is kept in a snapshot beside the image and comes back from it, and the order of the
checks inside a pass of `thawCode`, are the model's (log entry 42), and so is that bursts waiting in the DRAM queue go first
(`dramTurn`, log entry 29). -/
def Obligations.FreezeEvents : Prop :=
  ∀ (s : State) (c : ChId),
    let x := s.chan c
    let stat (t : State) (k : Nat) : Bool := (t.chan c).bit FRZ_STAT k
    (∀ v : Word, x.bit FRZ_CTRL 0 = false →
      ((x.frz.isSome = true ∧ x.thawing = false) ∨ (x.reg FRZ_LIMIT).toNat < x.frzBytes true → ∃ t, exec (.frzReqWrite c v) s = .next t ∧ s.others t c ∧
        stat t 3 = true ∧ (t.chan c).bit FRZ_CTRL 0 = false ∧ (t.chan c).cmd = x.cmd ∧ (t.chan c).seq = x.seq) ∧
      (x.fenced = false → (x.frz = none ∨ x.thawing = true) → x.frzBytes true ≤ (x.reg FRZ_LIMIT).toNat → x.alm.running = false →
        (x.cmd.run = none → ∃ t, exec (.frzReqWrite c v) s = .next t ∧ s.others t c ∧ stat t 1 = true ∧ stat t 4 = true ∧
          (t.chan c).cmd.frzAt = s.now) ∧
        (x.cmd.run ≠ none → ∃ t, exec (.frzReqWrite c v) s = .next t ∧ s.others t c ∧ stat t 0 = true ∧ stat t 1 = stat s 1 ∧
          (t.chan c).cmd = x.cmd))) ∧
    (∀ r, x.cmd.run = some r →
      (stat s 0 = true → x.fenced = false → r.phase = .running → x.bit FRZ_CTRL 1 = false → x.halted = false → s.frzFits c = true →
        (r.noFrz = true → exec (.freezeTaken c) s = .next s) ∧
        (r.noFrz = false → ∃ t, exec (.freezeTaken c) s = .next t ∧ s.others t c ∧ stat t 0 = false ∧ stat t 1 = true ∧ stat t 4 = false ∧
          (t.chan c).issues = false ∧ (t.chan c).cmd.run = some r))) ∧
    (x.freezing = true → x.fenced = false → x.halted = false → x.settled = true → x.dma.running = none → x.dram.hold = 0 →
      x.dram.err = [] → x.spad.err = [] → (∀ k : Fin 2, (x.accOf k).err = []) →
      ∃ t, exec (.freezeImageComplete c) s = .next t ∧ s.others t c ∧ stat t 1 = false ∧ stat t 2 = true ∧
        (t.chan c).bit FRZ_CTRL 0 = false ∧ (t.chan c).cmd.run = none ∧ (t.chan c).cmd.table = x.cmd.table ∧
        (t.chan c).reg64 FRZ_SEQ = (match x.cmd.run with | some r => r.cmd.seq | none => 0) ∧
        rdBytes (t.chan c).dram.mem (x.reg64 FRZ_BASE).toNat 4 = leBytes 4 0x4B465A31 ∧
        ∃ f, (t.chan c).frz = some f ∧ f.run = x.cmd.run ∧ f.seq.s = x.seq.s ∧ f.seq.pc = x.seq.pc ∧ f.base = (x.reg64 FRZ_BASE).toNat) ∧
    (∀ r, x.cmd.run = some r → r.src = .ring → x.dram.hold = 0 → x.halted = false → (r.limit = 0 ∨ r.acs < r.limit) →
      (r.phase = .started → r.cmd.kind = 6 → x.fenced = false → x.dram.err = [] →
        let h := rdBytes x.dramTurn.dram.mem r.cmd.prog.toNat 768
        let img := rdBytes x.dramTurn.dram.mem r.cmd.prog.toNat
          (if x.dramOk r.cmd.prog.toNat (field h 24 4) && !s.thawLate c r h then field h 24 4 else 0)
        (s.thawCode c r h img = 0 → ∃ t, exec (.kindThaw c) s = .next t ∧ s.others t c ∧ (t.chan c).frz = x.frz ∧
          ∃ r', (t.chan c).cmd.run = some r' ∧ r' = { r with phase := .loading }) ∧
        (s.thawCode c r h img ≠ 0 → ∃ t, exec (.kindThaw c) s = .next t ∧ s.others t c ∧ (t.chan c).frz = x.frz ∧
          (t.chan c).cmd.run = none ∧ ∃ r', (t.chan c).cmd.done = x.cmd.done ++ [r'] ∧ r'.cmd = r.cmd ∧ r'.status = 0x03 ∧
            r'.code = BitVec.ofNat 16 (s.thawCode c r h img))) ∧
      (∀ f, r.phase = .loading → x.frz = some f → x.fenced = false → x.dram.err = [] → f.scanQ = [] → f.scanF = [] →
        (∀ q, f.run = some q → ∃ t, exec (.thawRestoreComplete c) s = .next t ∧ s.others t c ∧ (t.chan c).frz = none ∧
          (t.chan c).seq.s = f.seq.s ∧ (t.chan c).seq.a = f.seq.a ∧ (t.chan c).seq.v = f.seq.v ∧ (t.chan c).seq.pc = f.seq.pc ∧
          (t.chan c).arrs = f.arrs ∧ ∃ r', (t.chan c).cmd.run = some r' ∧ r'.cmd = q.cmd ∧ r'.phase = .running ∧ r'.thaw = some r.cmd) ∧
        (f.run = none → ∃ t, exec (.thawRestoreComplete c) s = .next t ∧ s.others t c ∧ (t.chan c).frz = none ∧
          (t.chan c).cmd.run = none ∧ ∃ r', (t.chan c).cmd.done = x.cmd.done ++ [r'] ∧ r'.cmd = r.cmd ∧ r'.status = 0)))

/-- R363 to R366, R371 to R376, R380, R385: the events of the cascade ports, LOOP clear; where the sender could go on, nothing waits to be sent. That a NAK of a packet resent 8 times takes the port DOWN, that of the packets
with another PSEQ in a row the first alone is a block error, and that LINK_DROP advances with the last packet of a block, are the
model's (log entry 32). -/
def Obligations.CascadeEvents : Prop :=
  ∀ (s : State) (c : ChId), ownsPort c = true →
    let x := s.chan c
    let d := x.cas
    let cas (t : State) : Cas := (t.chan c).cas
    let start : CasState := if d.lock then .locked else .seek
    (s.live c = true → ∀ en : Bool, ∃ t, exec (.casCtrlEnWrite c en) s = .next t ∧ (t.chan c).bit CAS_CTRL 0 = en ∧
      (en = true → x.bit CAS_CTRL 0 = false → cas t = { d with state := start, since := s.nowFine, tries := 0 }) ∧
      (en = false → x.bit CAS_CTRL 0 = true → (cas t).state = .down ∧ (cas t).lock = false)) ∧
    (x.bit CAS_CTRL 0 = true →
      exec (.casBlockLock c true) s = .next (s.modChan c (fun x => { x with
        cas := { d with lock := true, state := if d.state = .seek then .locked else d.state } })) ∧
      exec (.casBlockLock c false) s = .next (s.modChan c (fun x => { x with
        cas := { d with lock := false, state := if d.state = .down ∨ d.state = .up then d.state else .seek } }))) ∧
    (x.loops = false → ∀ (st : Byte) (pos : BitVec 3) (port : BitVec 2) (c0 c1 : Nat) (master : Bool),
      (d.state = .locked → 2 ≤ st → ∃ t, exec (.casTrnReceive c st pos port c0 c1 master) s = .next t ∧ s.others t c ∧
        (cas t).state = .meas ∧ (cas t).token = d.token + 1) ∧
      (d.state = .ready → 3 ≤ st → ∃ t, exec (.casTrnReceive c st pos port c0 c1 master) s = .next t ∧ s.others t c ∧
        (cas t).state = .up ∧ (cas t).txSeq = 0 ∧ (cas t).rxSeq = 0 ∧ (cas t).init0 = c0 % 65536 ∧ (cas t).init1 = c1 % 256 ∧
        (t.chan c).reg CAS_FAR = BitVec.ofNat 32 (pos.toNat + 8 * port.toNat + 32 * b2n master) ∧
        (t.chan c).bit CAS_STAT 5 = t.masterErr)) ∧
    (x.loops = false → d.state ≠ .down → d.state ≠ .seek →
      (∀ cls : Word, ∃ t, exec (.casClassReceive c cls) s = .next t ∧ s.others t c ∧ (cas t).state = d.state ∧
        (t.chan c).bit CAS_STAT 4 = (cls != s.reg (GLB_ID + 4))) ∧
      (∀ token : Word, ∃ t, exec (.casMeasReceive c token) s = .next t ∧ s.others t c ∧ (cas t).echo = token ∧ (cas t).state = d.state) ∧
      exec (.casAlignSend c) s = .next (s.modChan c (fun x => { x with cas := { d with aligns := d.aligns + 1 } }))) ∧
    (d.state = .meas →
      (∀ (turn : BitVec 16) (ps : Nat), let owd := ((2 * ps - 4125 * turn.toNat) * 9 + 39999) / 40000
        ∃ t, exec (.casEchoReceive c d.token turn ps) s = .next t ∧ s.others t c ∧ (cas t).state = .ready ∧
          (t.chan c).reg CAS_OWD = BitVec.ofNat 32 (min owd 1023) ∧
          (t.chan c).bit CAS_STAT 6 = decide (getField (x.reg CAS_LAT) 9 0 < owd + 8)) ∧
      (∃ t, exec (.casMeasTimeout c) s = .next t ∧ s.others t c ∧
        cas t = if d.tries < 4 then { d with tries := d.tries + 1 } else { d with state := start, tries := 0 })) ∧
    (d.state ≠ .down → d.state ≠ .up → d.since + 2000000 * 2 ^ 32 ≤ s.nowFine →
      ∃ t, exec (.casTrainingTimeout c) s = .next t ∧ s.others t c ∧ (t.chan c).bit CAS_STAT 3 = true ∧
        (cas t).state = if x.bit CAS_CTRL 1 then start else .down) ∧
    (x.loops = false → d.state ≠ .down → d.lock = true → ∀ p : Pkt,
      exec (.casPacketReceive c p 3) s = .next (s.setChan c (x.inc CAS_BLKERR 1))) ∧
    (x.loops = false → d.state = .up → d.lock = true →
      (d.txq = [] → ∀ (ack : BitVec 12) (c0 c1 : BitVec 16), ∃ t, exec (.casIdleReceive c ack c0 c1) s = .next t ∧ s.others t c ∧
        (cas t).ret0 = c0 ∧ (cas t).ret1 = c1 ∧ (cas t).beat = s.nowFine ∧
        (cas t).unacked = d.unacked.filter (fun e => ! decide ((ack - 1 - e.1.pseq).toNat < 2048))) ∧
      (d.txq = [] → ∀ q : BitVec 12, let un := d.unacked.filter (fun e => ! decide ((q - 1 - e.1.pseq).toNat < 2048))
        ∃ t, exec (.casNakReceive c q) s = .next t ∧
          ((∀ e ∈ un, e.2.1 < 8) → s.others t c ∧ (cas t).state = .up ∧
            (t.chan c).reg CAS_REPLAY = x.reg CAS_REPLAY + BitVec.ofNat 32 un.length ∧
            (cas t).unacked = un.map (fun e => ({ e.1 with
              txfc := BitVec.ofNat 16 s.linkFc, ack := d.rxSeq, cred0 := d.back0, cred1 := d.back1 }, e.2.1 + 1, e.2.2))) ∧
          ((∃ e ∈ un, 8 ≤ e.2.1) → (cas t).state ≠ .up ∧ (cas t).unacked = [] ∧ (t.chan c).raised = x.raised ++ [0x09] ∧
            (t.chan c).reg CAS_REPLAY = x.reg CAS_REPLAY ∧ (t.chan c).reg CAS_DOWNCNT = x.reg CAS_DOWNCNT + 1)) ∧
      (d.beat + 10000 * 2 ^ 32 ≤ s.nowFine → ∃ t, exec (.casDeadTimeout c) s = .next t ∧ (cas t).state ≠ .up ∧ (cas t).txq = [] ∧
        (t.chan c).bit CAS_STAT 2 = true ∧ (t.chan c).reg CAS_DOWNCNT = x.reg CAS_DOWNCNT + 1) ∧
      (∀ p : Pkt,
        (p.pseq = d.rxSeq → d.txq = [] → d.fits p = true → ∃ t, exec (.casPacketReceive c p 0) s = .next t ∧ s.others t c ∧
          (cas t).rxSeq = d.rxSeq + 1 ∧ (cas t).nak = none ∧
          let late := s.barred && ! s.fcAhead (x.casDue p) && (x.casDue p + 65536 - s.linkFc % 65536) % 65536 != 0
          (cas t).rxq = d.rxq ++ [(p, late)] ∧ (t.chan c).reg CAS_LATEPKT = x.reg CAS_LATEPKT + (if late then 1 else 0)) ∧
        (∀ err : BitVec 2, err = 1 ∨ err = 2 ∨ p.pseq ≠ d.rxSeq → err ≠ 3 → ∃ t, exec (.casPacketReceive c p err) s = .next t ∧
          s.others t c ∧ (cas t).nak = some d.rxSeq ∧ (cas t).rxSeq = d.rxSeq ∧ (cas t).rxq = d.rxq ∧ (cas t).beat = s.nowFine ∧
          (t.chan c).reg CAS_CRCERR = x.reg CAS_CRCERR + (if err = 1 then 1 else 0) ∧
          (t.chan c).reg CAS_BLKERR = x.reg CAS_BLKERR + (if err = 2 ∨ (err = 0 ∧ d.nak = none) then 1 else 0)))) ∧
    (∀ p late r, d.rxq = (p, late) :: r →
      (s.barred = true → late = false → s.fcAhead (x.casDue p) = true → exec (.casPacketDeliver c) s = .next s) ∧
      (s.barred = false ∨ late = true ∨ s.fcAhead (x.casDue p) = false → ∃ t, exec (.casPacketDeliver c) s = .next t ∧
        (cas t).rxq = r ∧
        (p.ddev.toNat = s.ownDev → p.common = false →
          (p.dch = c → (t.chan c).link.inbox = x.link.inbox ++ [p]) ∧
          (p.dch ≠ c → (t.chan c).link.transit = x.link.transit ++ [⟨p, p.dch⟩])) ∧
        (p.ddev.toNat = s.ownDev → p.common = true → p.typ = 6 → t.tc.adds = s.tc.adds ++ [p.data]) ∧
        (p.ddev.toNat ≠ s.ownDev → ∀ q, s.route c p.ddev.toNat = some q → q ≠ c →
          (t.chan c).link.transit = x.link.transit ++ [⟨p, q⟩]) ∧
        (p.ddev.toNat ≠ s.ownDev → s.route c p.ddev.toNat = none →
          (t.chan c).reg LINK_DROP = x.reg LINK_DROP + (if pktLast p then 1 else 0)))) ∧
    (∀ p r, s.tc.adds = p :: r →
      let fl := field p 24 1
      let add : Dword := BitVec.ofNat 64 (field p 8 8)
      let at_ := nsOf (BitVec.ofNat 64 (field p 0 8))
      ∃ t, exec .addendPacketReceive s = .next t ∧ t.tc.adds = r ∧
        (bitOf fl 2 = true → t.tc.barAdd = some add ∧ t.reg64 TIME_ADDEND = s.reg64 TIME_ADDEND) ∧
        (bitOf fl 2 = false → at_ < s.nowNs → t.bit TIME_STAT 5 = true ∧
          (bitOf fl 0 = true → t.reg64 TIME_ADDEND = add) ∧ (bitOf fl 1 = true → t.tc.step = s.tc.step + toSigned 64 (field p 16 8))) ∧
        (bitOf fl 2 = false → s.nowNs ≤ at_ → t.tc.timed = some ⟨at_, if bitOf fl 0 then some add else none,
          if bitOf fl 1 then some (toSigned 64 (field p 16 8)) else none, false⟩))

/-- R382 to R385, R389, R390, R495: the time base's commands and events, PPS_OUT, and the trigger outputs, which rest outside the
states 1 and 3 of GLB_STATE. `pinPath` says whether the path may
command the pin (R388, R389). -/
def Obligations.TimeEvents : Prop :=
  ∀ s : State,
    (s.hostUp = true →
    (∀ v : Dword,
      (s.slave = false → 4767413698 ≤ v.toNat → v.toNat ≤ 4776958070 → exec (.timeAddendWrite v) s = .next (s.setReg64 TIME_ADDEND v)) ∧
      (s.slave = false → v.toNat < 4767413698 ∨ 4776958070 < v.toNat → exec (.timeAddendWrite v) s = .next (s.orReg TIME_STAT 4)) ∧
      (s.slave = true → exec (.timeAddendWrite v) s = .next (s.orReg TIME_STAT 8))) ∧
    (s.slave = true → exec .timeCmdDisarm s = .next (s.orReg TIME_STAT 8)) ∧
    (s.slave = false → s.barred = false → s.tc.timed = none → exec .timeCmdSet s = .next { s with tc := { s.tc with set := some ((s.reg64 TIME_SET_SEC).extractLsb' 0 48, (s.reg TIME_SET_NS).extractLsb' 0 30) } }) ∧
    (s.slave = true ∨ s.tc.timed ≠ none ∨ s.barred = true → exec .timeCmdSet s = .next (s.orReg TIME_STAT 8)) ∧
    (∀ add step : Bool, add = true ∨ step = true →
      (s.slave = true ∨ s.tc.timed ≠ none → exec (.timeCmdArm add step) s = .next (s.orReg TIME_STAT 8)) ∧
      (s.slave = false → s.tc.timed = none → add = true → addOk (s.reg64 TIME_NEXT_ADD) = false →
        exec (.timeCmdArm add step) s = .next (s.orReg TIME_STAT 4)) ∧
      (s.slave = false → (add = true → addOk (s.reg64 TIME_NEXT_ADD) = true) → s.barred = true →
        nsOf (s.reg64 TIME_NEXT_AT) * 2 ^ 32 < s.nowFine + 10000 * 2 ^ 32 → exec (.timeCmdArm add step) s = .next (s.orReg TIME_STAT 8)) ∧
      (s.slave = false → s.tc.timed = none → (add = true → addOk (s.reg64 TIME_NEXT_ADD) = true) →
        (s.barred = true → s.nowFine + 10000 * 2 ^ 32 ≤ nsOf (s.reg64 TIME_NEXT_AT) * 2 ^ 32) →
        let c : Timed := ⟨nsOf (s.reg64 TIME_NEXT_AT), if add then some (s.reg64 TIME_NEXT_ADD) else none,
          if step then some (s.reg64 TIME_NEXT_STEP).toInt else none, false⟩
        ∃ t, exec (.timeCmdArm add step) s = .next t ∧ t.regs = s.regs ∧ t.tc = { s.tc with timed := some c })) ∧
    (s.slave = false → exec .timeCmdDisarm s = .next { s with tc := { s.tc with timed := none } })) ∧
    (∀ at_ add step, s.tc.timed = some ⟨at_, add, step, false⟩ → at_ ≤ s.nowNs →
      ∃ t, exec .timedChangeApply s = .next t ∧ t.time = s.time ∧ t.tc.timed = none ∧
        t.reg64 TIME_ADDEND = add.getD (s.reg64 TIME_ADDEND) ∧ t.tc.step = s.tc.step + step.getD 0 ∧
        (step ≠ none → t.bit TIME_STAT 4 = true)) ∧
    (s.hostUp = true → ∃ t, exec (.timeNsRead .host) s = .next t ∧ t.chans = s.chans ∧ t.reg TIME_FRAC = s.time.frac ∧
      t.reg64 TIME_SEC = s.time.sec.zeroExtend 64 ∧ t.answer = some ⟨.ok, leBytes 4 s.time.ns.toNat⟩) ∧
    (s.outputsOn = false → exec .ppsOutStart s = .next s ∧ ∀ k : Fin 8, exec (.trgPulseStart k) s = .next s) ∧
    (s.outputsOn = true → s.bit TIME_CTRL 0 = true → s.time.sec ≠ s.tc.last.sec → exec .ppsOutStart s =
      .next { s with tc := { s.tc with pps := some (s.nowFine + (s.reg PPS_WIDTH).toNat * 1000 * 2 ^ 32) } }) ∧
    (∀ e, s.tc.pps = some e → e ≤ s.nowFine → exec .ppsOutEnd s = .next { s with tc := { s.tc with pps := none } }) ∧
    (∀ (k : Fin 8) (p : Path),
      let g := s.trigger k
      let start := nsOf (s.reg64 (TRG_START k.val))
      let per := (s.reg (TRG_PERIOD k.val)).toNat
      let w := (s.reg (TRG_WIDTH k.val)).toNat
      let good : Prop := 5 ≤ w ∧ w ≤ 1000000000 ∧ (per = 0 ∨ w + 5 ≤ per) ∧ s.nowFine ≤ start * 2 ^ 32
      ((p = .host → s.hostUp = true) → pinPath (s.reg (TRG_CFG k.val)) 1 5 p = true →
        (good → exec (.trgArm k p) s = .next (s.setTrigger k { g with next := some ⟨start, per, w, (s.reg (TRG_COUNT k.val)).toNat, 0, s.bit (TRG_CFG k.val) 0⟩ })) ∧
        (¬ good → ∃ t, exec (.trgArm k p) s = .next t ∧ t.trg = s.trg ∧ t.bit (TRG_STAT k.val) 2 = true) ∧
        exec (.trgCancel k p) s = .next (s.setTrigger k { g with run := none, next := none })) ∧
      ((p = .host → s.hostUp = true) → pinPath (s.reg (TRG_CFG k.val)) 1 5 p = false → exec (.trgArm k p) s = .next s ∧ exec (.trgCancel k p) s = .next s) ∧
      (∀ c m, s.outputsOn = true → (g.next = none ∧ g.run = some c) ∨ (g.run = none ∧ g.next = some c ∧ c.start ≤ s.nowNs) → c.due s.nowNs none = some m →
        (g.pulse = none → ∃ t e, exec (.trgPulseStart k) s = .next t ∧ (t.trigger k).pulse = some e ∧ (t.trigger k).next = none ∧
          (g.next ≠ none → (t.trigger k).pol = some c.pol) ∧
          (s.crossing (c.start + m * c.period) = true → e = (c.start + m * c.period + c.width) * 2 ^ 32) ∧
          t.reg (TRG_PULSES k.val) = s.reg (TRG_PULSES k.val) + 1 ∧
          t.reg (TRG_SKIP k.val) = s.reg (TRG_SKIP k.val) + BitVec.ofNat 32 (m - c.k)) ∧
        (g.pulse ≠ none → ∃ t, exec (.trgPulseStart k) s = .next t ∧ (t.trigger k).pulse = g.pulse ∧
          t.reg (TRG_SKIP k.val) = s.reg (TRG_SKIP k.val) + BitVec.ofNat 32 (m + 1 - c.k))) ∧
      (∀ e, g.pulse = some e → e ≤ s.nowFine → exec (.trgPulseEnd k) s = .next (s.setTrigger k { g with
        pulse := none, pol := match g.run with | some c => some c.pol | none => g.pol })))

/-- R387, whole, and who may pop (R388), a host whose request the port takes (R461). `pinPath` says whether the path owns the pin (R388); TCAP_T, TCAP_FRAC and TCAP_E are read as the common block shows
them. -/
def Obligations.CaptureFifos : Prop :=
  ∀ (s : State) (pin : Fin 17) (p : Path) (rising : Bool),
    let held := s.fifo pin
    let owns : Prop := pinPath (s.reg (TCAP_CFG pin.val)) 2 6 p = true
    let takes : Prop := (s.reg (TCAP_CFG pin.val)).getLsbD (if rising then 0 else 1) = true
    (∀ e r, held = e :: r → s.glView (TCAP_T pin.val) = e.t.extractLsb' 0 32 ∧ s.glView (TCAP_T pin.val + 4) = e.t.extractLsb' 32 32 ∧
      s.glView (TCAP_FRAC pin.val) = e.frac ∧ (s.glView (TCAP_E pin.val)).getLsbD 0 = e.rising ∧ (s.glView (TCAP_E pin.val)).getLsbD 1 = true) ∧
    ((p = .host → s.hostUp = true) → owns → ∃ t, exec (.tcapPop pin p) s = .next t ∧ t.fifo pin = held.tail ∧ t.regs = s.regs ∧ (held = [] → t = s) ∧
      (takes → ∃ u e, exec (.tcapEdge pin rising) t = .next u ∧
        (held.length ≤ 8 → u.fifo pin = held.tail ++ [e] ∧ e.rising = rising))) ∧
    ((p = .host → s.hostUp = true) → ¬ owns → exec (.tcapPop pin p) s = .next s) ∧
    (¬ takes → exec (.tcapEdge pin rising) s = .next s) ∧
    (takes → held.length < 8 → ∃ t e, exec (.tcapEdge pin rising) s = .next t ∧ t.fifo pin = held ++ [e] ∧ e.rising = rising ∧
      t.bit (TCAP_STAT pin.val) 4 = s.bit (TCAP_STAT pin.val) 4) ∧
    (takes → 8 ≤ held.length → ∃ t, exec (.tcapEdge pin rising) s = .next t ∧ t.fifo pin = held ∧ t.bit (TCAP_STAT pin.val) 4 = true ∧
      t.reg (TCAP_DROP pin.val) = s.reg (TCAP_DROP pin.val) + 1)

/-- R364, R366: the steps of the start barrier. That the barrier ends a refresh hold (`dram.hold`) is the model's (log entry 29). -/
def Obligations.BarrierEvents : Prop :=
  ∀ s : State,
    (s.hostUp = true → ∀ v : Word, ∃ t, exec (.glbSyncArmWrite v) s = .next t ∧ t.reg GLB_SYNC_ARM = v ∧
      (s.master = true → t.tc = { s.tc with armAt := some s.fc }) ∧ (s.master = false → t = s.setReg GLB_SYNC_ARM v)) ∧
    (s.hostUp = true → ∀ f, s.tc.armAt = some f →
      (s.master = true → getField (s.reg GLB_STATE) 1 0 = 1 → f + 18000 ≤ s.fc → s.masterErr = false →
        exec .glbSyncGoWrite s = .next { s with tc := { s.tc with syncOut := true } }) ∧
      (s.fc < f + 18000 → exec .glbSyncGoWrite s = .next s)) ∧
    (s.tc.syncAt = none → getField (s.reg GLB_SYNC_ARM) 15 0 ≠ 0 →
      exec .syncInSample s = .next { s with tc := { s.tc with syncAt := some s.fc, applied := false } }) ∧
    (getField (s.reg GLB_SYNC_ARM) 15 0 = 0 → s.tc.syncOut = false → exec .syncInSample s = .next s) ∧
    (∀ e, s.tc.syncAt = some e →
      (s.tc.applied = false → e + 144 ≤ s.fc → ∃ t, exec .barrierApply s = .next t ∧ t.time = timeOf (s.reg64 GLB_SYNC_TIME) ∧
        t.linkFc = 0 ∧ t.barred = true ∧ t.tc.applied = true ∧
        (s.master = true → t.reg64 TIME_ADDEND = s.reg64 TIME_ADDEND) ∧
        (s.master = false → ∀ a, s.tc.barAdd = some a → t.reg64 TIME_ADDEND = a) ∧
        (s.master = false → s.tc.barAdd = none → t.reg64 TIME_ADDEND = s.reg64 TIME_ADDEND ∧ t.bit TIME_STAT 5 = true) ∧
        ∀ c : ChId, let b : Fin 2 := if (s.reg GLB_SYNC_ARM).getLsbD (16 + c.val) then 1 else 0
          (t.chan c).dram.hold = 0 ∧ ((s.reg GLB_SYNC_ARM).getLsbD c.val = true → (s.chan c).alm.loaded.get b = true →
            (s.chan c).fenced = false → (t.chan c).alm.running = true ∧ (t.chan c).alm.active = b ∧ (t.chan c).alm.entry = 0 ∧
            (t.chan c).reg64 ALM_T0 = s.reg64 GLB_SYNC_TIME ∧ (t.chan c).reg ALM_FRAME = 0)) ∧
      (s.tc.applied = true → e + 216 ≤ s.fc → ∃ t, exec .syncOutRelease s = .next t ∧ t.reg GLB_SYNC_ARM = 0 ∧ t.tc.syncOut = false ∧
        t.tc.syncAt = none ∧ t.chans = s.chans))

/-- R272, R391 to R397, R411: the events of the network ports and of the supervisor's PTP servo. Frames for the host are here no UDP and
no PTP, with the ring's interrupt off. That the servo's step is the negative of the offset, 20 µs ahead, its trim 10 µs ahead, that each
Follow_Up clears RESTEP and that a part that becomes grandmaster arms its calibrated addend, are the model's (log entry 33). -/
def Obligations.NetworkEvents : Prop :=
  ∀ (s : State) (port : Fin 2),
    let p := port.val
    (s.hostUp = true → ∀ v : Word, exec (.ethTxtailWrite port v) s = .next (s.setReg (ETH_TXTAIL p) v) ∧
      exec (.ethRxtailWrite port v) s = .next (s.setReg (ETH_RXTAIL p) v) ∧
      exec (.tsqHeadWrite v) s = .next (if (v - s.reg TSQ_HEAD).toNat ≤ (s.reg TSQ_TAIL - s.reg TSQ_HEAD).toNat then s.setReg TSQ_HEAD v else s)) ∧
    (∀ (d : Dword) (frac : Word), s.bit (ETH_CTRL p) 0 = true → s.bit (ETH_CTRL p) 4 = false → s.reg (ETH_TXHEAD p) ≠ s.reg (ETH_TXTAIL p) →
      let e := (s.reg64 (ETH_TXBASE p)).toNat + 16 * ((s.reg (ETH_TXHEAD p)).toNat % 2 ^ getField (s.reg (ETH_TXSIZE p)) 4 0)
      let len := rdLe s.hostMem (e + 8) 2
      let good : Prop := 60 ≤ len ∧ len ≤ 9212
      let ts := bitOf (rdLe s.hostMem (e + 12) 1) 0
      let held := (s.reg TSQ_TAIL - s.reg TSQ_HEAD).toNat
      ∃ t, exec (.ethFrameTransmitted port d frac) s = .next t ∧ t.chans = s.chans ∧ t.reg (ETH_TXHEAD p) = s.reg (ETH_TXHEAD p) + 1 ∧
        (good → t.reg (ETH_TXFR p) = s.reg (ETH_TXFR p) + 1) ∧
        (¬ good → t.reg (ETH_TXERR p) = s.reg (ETH_TXERR p) + 1 ∧ t.reg TSQ_TAIL = s.reg TSQ_TAIL) ∧
        (good → ts = false → t.reg TSQ_TAIL = s.reg TSQ_TAIL) ∧
        (good → ts = true → held < 16 → t.reg TSQ_TAIL = s.reg TSQ_TAIL + 1 ∧
          let at_ := fineOf d frac + psFine (s.reg (ETH_TXLAT p))
          let o := TSQ_ENTRY ((s.reg TSQ_TAIL).toNat % 16)
          t.reg o = BitVec.ofNat 32 (rdLe s.hostMem (e + 10) 2 + 65536 * p) ∧ t.reg (o + 4) = BitVec.ofNat 32 at_ ∧
            t.reg64 (o + 8) = shortOf (at_ / 2 ^ 32)) ∧
        (good → ts = true → 16 ≤ held → t.reg TSQ_TAIL = s.reg TSQ_TAIL ∧ t.bit TSQ_STAT 0 = true ∧ t.reg TSQ_DROP = s.reg TSQ_DROP + 1)) ∧
    (∀ (d : Dword) (frac : Word), s.bit (ETH_CTRL p) 0 = true → s.bit (ETH_CTRL p) 4 = true → s.reg (ETH_TXHEAD p) ≠ s.reg (ETH_TXTAIL p) →
      let e := (s.reg64 (ETH_TXBASE p)).toNat + 16 * ((s.reg (ETH_TXHEAD p)).toNat % 2 ^ getField (s.reg (ETH_TXSIZE p)) 4 0)
      let len := rdLe s.hostMem (e + 8) 2
      let f := rdBytes s.hostMem (rdLe s.hostMem e 8) len
      60 ≤ len → len ≤ 9212 → bitOf (rdLe s.hostMem (e + 12) 1) 0 = false → exec (.ethFrameTransmitted port d frac) s =
        .next ((((s.inc (ETH_TXHEAD p) 1).cause (38 + 2 * p)).inc (ETH_TXFR p) 1).ethReceive port (f ++ leBytes 4 (crc32 f).toNat) false d frac)) ∧
    (s.bit (ETH_CTRL p) 4 = true → ∀ (f : List Byte) (bad : Bool) (d : Dword) (frac : Word),
      exec (.ethFrameReceive port f bad d frac) s = .next s) ∧
    (s.bit (ETH_CTRL p) 4 = false → ∀ (f : List Byte) (bad : Bool) (d : Dword) (frac : Word),
      let rx := exec (.ethFrameReceive port f bad d frac) s
      let body := f.take (f.length - 4)
      let sound : Prop := s.bit (ETH_CTRL p) 0 = true ∧ bad = false ∧ 64 ≤ f.length ∧ f.length ≤ 9216
      let mine : Bool := s.bit (ETH_CTRL p) 3 || (f.headD 0).getLsbD 0 || beField f 0 6 == getField (s.reg64 (ETH_MAC p)) 47 0
      (s.bit (ETH_CTRL p) 0 = false → rx = .next s) ∧
      (s.bit (ETH_CTRL p) 0 = true → bad = true ∨ f.length < 64 ∨ 9216 < f.length → rx = .next (s.inc (ETH_RXERR p) 1)) ∧
      (sound → beField f 12 2 = 0x8808 → rx = .next (s.inc (ETH_MACCTL p) 1)) ∧
      (sound → beField f 12 2 ≠ 0x8808 → mine = false → rx = .next s) ∧
      (sound → beField f 12 2 ≠ 0x8808 → mine = true →
        ((ethType body).2.1 = 0x88F7 → getField (s.reg PTP_CTRL) 1 0 = 1 → s.barred = false → ∃ t, rx = .next t ∧
          t = { s.inc (ETH_RXFR p) 1 with ptp := { s.ptp with heard := t.ptp.heard }, tc := { s.tc with timed := t.tc.timed } } ∧ ∀ q, q ≠ port → t.ptp.heard.get q = s.ptp.heard.get q) ∧
        (∀ ver dport pay k, udpOf body = some (ver, dport, pay, true) → (ethType body).2.1 ≠ 0x88F7 → dport ≠ 319 → dport ≠ 320 →
          (List.range 64).find? (fun k => s.steers p (ethType body).2.2 ver dport k) = some k →
          let w := s.reg (STEER k 1)
          (w.getLsbD 6 = true → rx = .next ((s.inc (ETH_RXFR p) 1).inc (ETH_UNSTEER p) 1)) ∧
          (w.getLsbD 6 = false → ∃ t, rx = .next t ∧ t.reg (ETH_STEERED p) = s.reg (ETH_STEERED p) + 1 ∧
            let c : ChId := Fin.ofNat 16 (getField w 3 0)
            s.others t c ∧ (s.parked c = true → t.chan c = s.chan c) ∧ (s.parked c = false → (s.chan c).fenced = false → t.chan c = (s.chan c).fragment (Fin.ofNat 2 (getField w 4 4)) pay
              (shortOf ((fineOf d frac - psFine (s.reg (ETH_RXLAT p))) / 2 ^ 32))))) ∧
        ((ethType body).2.1 ≠ 0x88F7 → udpOf body = none → s.bit GLB_IRQ_EN (5 + 2 * p) = false →
          let h := s.reg (ETH_RXHEAD p)
          let e := (s.reg64 (ETH_RXBASE p)).toNat + 32 * (h.toNat % 2 ^ getField (s.reg (ETH_RXSIZE p)) 4 0)
          let b := rdLe s.hostMem e 8
          (h ≠ s.reg (ETH_RXTAIL p) → f.length ≤ rdLe s.hostMem (e + 8) 4 → b + f.length ≤ e + 16 ∨ e + 32 ≤ b →
            ∃ t, rx = .next t ∧ t.chans = s.chans ∧ t.reg (ETH_RXHEAD p) = h + 1 ∧ t.reg (ETH_RXFR p) = s.reg (ETH_RXFR p) + 1 ∧
              rdBytes t.hostMem b f.length = f ∧ rdLe t.hostMem (e + 28) 2 = f.length) ∧
          (h = s.reg (ETH_RXTAIL p) ∨ rdLe s.hostMem (e + 8) 4 < f.length →
            rx = .next ((s.inc (ETH_RXFR p) 1).inc (ETH_RXDROP p) 1))))) ∧
    (∀ off : Dword,
      let a := off.toInt.natAbs
      let thr := (s.reg PTP_STEPTHR).toNat
      (s.ptpSlave ≠ some port → exec (.ptpFollowUp port off) s = .next s) ∧
      (s.ptpSlave = some port → ∃ t, exec (.ptpFollowUp port off) s = .next t ∧ t.reg64 PTP_OFFSET = off ∧ t.bit PTP_CTRL 2 = false ∧
        (s.bit PTP_STAT 0 = true → thr < a → t.bit PTP_STAT 0 = false ∧ t.bit PTP_STAT 1 = true ∧ t.tc.timed = s.tc.timed ∧ t.ptp.hold = true) ∧
        (s.slave = true → t.tc.timed = s.tc.timed) ∧
        (s.slave = false → s.tc.timed = none →
          (s.bit PTP_STAT 0 = false → s.ptp.hold = false → thr < a → t.tc.timed = some ⟨s.gridNow + 20000, none, some (- off.toInt), true⟩) ∧
          (s.bit PTP_STAT 0 = true ∨ s.ptp.hold = false → a ≤ thr → 4767413698 ≤ s.tc.calAdd → s.tc.calAdd ≤ 4776958070 →
            ∃ add : Dword, t.tc.timed = some ⟨s.gridNow + 10000, some add, none, true⟩ ∧ addOk add = true ∧
              (s.bit PTP_STAT 0 = true → s.tc.calAdd - s.tc.calAdd * 500 / 1000000 ≤ add.toNat ∧ add.toNat ≤ s.tc.calAdd + s.tc.calAdd * 500 / 1000000))) ∧
        (s.bit PTP_STAT 0 = false → s.ptp.hold = false → a < 100 → 15 ≤ s.ptp.good → t.bit PTP_STAT 0 = true))) ∧
    (s.hostUp = true → ∃ t, exec .ptpRestepWrite s = .next t ∧ t.bit PTP_CTRL 2 = true ∧ t.ptp.hold = false ∧ t.ptp.good = s.ptp.good) ∧
    (s.barred = false → s.bit (ETH_STAT p) 0 = true → s.ptpSlave = some port → s.ptp.heard.get (1 - port) = none →
      getField (s.reg PTP_CTRL) 1 0 = 1 → s.tc.timed = none → ∀ block fec : Bool, ∃ t, exec (.ethLinkChange port false block fec) s = .next t ∧
      t.ptpSlave = none ∧ t.tc.timed = some ⟨s.gridNow + 10000, some (BitVec.ofNat 64 s.tc.calAdd), none, true⟩) ∧
    (s.barred = false → ∀ link block fec : Bool, ∃ t, exec (.ethLinkChange port link block fec) s = .next t ∧ t.chans = s.chans ∧
      t.bit (ETH_STAT p) 0 = link ∧ t.bit (ETH_STAT p) 1 = block ∧ t.bit (ETH_STAT p) 2 = fec ∧
      t.bit (ETH_STAT p) 3 = (s.bit (ETH_STAT p) 3 || (s.bit (ETH_STAT p) 0 && ! link)) ∧
      (s.bit (ETH_STAT p) 0 = true → link = false → t.ptp.heard.get port = none))

/-- R398 to R402, R404, R405, R407 to R409: the events of a bus controller, without echoes and on DRAM without marks, outside a refresh. That a MODE write
cuts the frame in progress and keeps its message, that REC stands at 127, which errors leave the transmit error count as it is and what
becomes of the slots a forward step passes are the model's (log entry 38). -/
def Obligations.CanEvents : Prop :=
  ∀ (s : State) (c : ChId), s.parked c = false →
    let x := s.chan c
    let b := x.can
    let can (t : State) : Can := (t.chan c).can
    (∀ mode : BitVec 2,
      (x.canMode = 0 → mode ≠ 0 → x.canTiming = false → ∃ t, exec (.canModeWrite c mode) s = .next t ∧ s.others t c ∧
        (t.chan c).canMode = 0 ∧ (t.chan c).bit CAN_STAT 3 = true) ∧
      (x.canMode ≠ 0 ∨ mode = 0 ∨ x.canTiming = true → ∃ t, exec (.canModeWrite c mode) s = .next t ∧ s.others t c ∧
        (t.chan c).canMode = mode.toNat ∧ (can t).off = (b.off && x.bit CAN_CTRL 3) ∧ (can t).slots = b.slots ∧
        (mode ≠ 1 → mode ≠ 3 → (can t).frame = none))) ∧
    (∀ n, x.canMode ≠ 0 → b.opened = none → x.slotAt s.nowNs = some n → s.crossing (nsOf (x.reg64 CAN_T0) + n * x.colNs) = true →
      let k := match x.slotAt (nsOf s.tc.last.short) with | some k => k + 1 | none => 0
      (n ≤ k → ∃ t, exec (.canSlotOpen c) s = .next t ∧ s.others t c ∧ (can t).opened = some n ∧
        (t.chan c).canSlot (n % 512) = (x.canSlot (n % 512)).map (fun e => { e with cur := { e.cur with wait := false } })) ∧
      (∀ e j, k ≤ j → j < n → n < k + 512 → e.slot = j % 512 → b.slots.filter (fun e => e.cur.wait) = [e] → x.bit CAN_CTRL 4 = false →
        ∃ t, exec (.canSlotOpen c) s = .next t ∧ s.others t c ∧ (can t).opened = some n ∧ (t.chan c).reg CAN_LATE = x.reg CAN_LATE + 1 ∧
          (t.chan c).canSlot e.slot = e.next.map (fun m => ⟨e.slot, { m with wait := true }, none⟩))) ∧
    (∀ n, b.opened = some n → x.slotAt s.nowNs ≠ some n → x.bit CAN_CTRL 4 = false →
      (x.canSlot (n % 512) = none → exec (.canSlotClose c) s = .next (s.modChan c (fun x => { x with can := { b with opened := none } }))) ∧
      (∀ e, x.canSlot (n % 512) = some e → e.cur.wait = false → b.frame ≠ some (some e.slot) → ∃ t, exec (.canSlotClose c) s = .next t ∧
        s.others t c ∧ (can t).opened = none ∧ (t.chan c).reg CAN_LATE = x.reg CAN_LATE + 1 ∧
        (t.chan c).canSlot e.slot = e.next.map (fun m => ⟨e.slot, { m with wait := true }, none⟩) ∧
        ∀ k o, e.cur.tok = some (k, o) → e.cur.frz = false → s.room c k → s.token t c k)) ∧
    (x.canSends = true → b.frame = none →
      (b.safe = true → exec (.canArbitration c) s = .next (s.modChan c (fun x => { x with can := { b with frame := some none } }))) ∧
      (∀ n e, b.safe = false → b.opened = some n → x.canSlot (n % 512) = some e → e.cur.wait = false →
        ∃ t, exec (.canArbitration c) s = .next t ∧ s.others t c ∧ (can t).frame = some (some e.slot) ∧
          (t.chan c).canSlot e.slot = some { e with cur := { e.cur with begun := true } })) ∧
    (∀ (tdcv : Option (BitVec 7)) (sof : Dword) (k : Nat) (e : CanSlot), x.canMode = 3 → b.off = false → x.bit CAN_CTRL 4 = false →
      b.frame = some (some k) → x.canSlot k = some e → ∃ t, exec (.canFrameTxEnd c 0 tdcv sof) s = .next t ∧ s.others t c ∧ (can t).frame = none ∧
        (t.chan c).reg CAN_TXOK = x.reg CAN_TXOK + 1 ∧ (t.chan c).reg CAN_RXOK = x.reg CAN_RXOK + 1) ∧
    (∀ (tdcv : Option (BitVec 7)) (sof : Dword), x.canMode ≠ 3 → x.bit CAN_CTRL 4 = false → let tec := getField (x.reg CAN_ERRC) 7 0
      (b.frame = some none → ∃ t, exec (.canFrameTxEnd c 0 tdcv sof) s = .next t ∧ s.others t c ∧ (can t).frame = none ∧ (can t).safe = false ∧
        (t.chan c).bit CAN_STAT 6 = true) ∧
      (∀ k e, b.frame = some (some k) → x.canSlot k = some e →
        (∃ t, exec (.canFrameTxEnd c 0 tdcv sof) s = .next t ∧ s.others t c ∧ (can t).frame = none ∧
          (t.chan c).reg CAN_TXOK = x.reg CAN_TXOK + 1 ∧ getField ((t.chan c).reg CAN_ERRC) 7 0 = tec - 1 ∧
          (t.chan c).canSlot k = e.next.map (fun m => ⟨e.slot, { m with wait := true }, none⟩) ∧
          ∀ j o, e.cur.tok = some (j, o) → e.cur.frz = false → s.room c j → s.token t c j) ∧
        (e.cur.closed = false → ∃ t, exec (.canFrameTxEnd c 1 tdcv sof) s = .next t ∧ s.others t c ∧ (can t).frame = none ∧
          (t.chan c).canSlot k = some e ∧ (t.chan c).reg CAN_ERRC = x.reg CAN_ERRC ∧ (t.chan c).reg CAN_TDCV = x.reg CAN_TDCV) ∧
        (e.cur.closed = false → ∃ t, exec (.canFrameTxEnd c 2 tdcv sof) s = .next t ∧ s.others t c ∧ (can t).frame = none ∧
          (t.chan c).reg CAN_ERRFR = x.reg CAN_ERRFR + 1 ∧
          (tec + 8 ≤ 255 → getField ((t.chan c).reg CAN_ERRC) 7 0 = tec + 8 ∧ (t.chan c).canSlot k = some e) ∧
          (255 < tec + 8 → (can t).off = true ∧ (can t).slots = [] ∧ (t.chan c).reg CAN_BUSOFF = x.reg CAN_BUSOFF + 1 ∧
            (t.chan c).bit CAN_STAT 5 = true)) ∧
        (e.cur.closed = false → ∀ res : BitVec 3, (res = 3 ∧ x.canPassive = true) ∨ res = 4 → ∃ t, exec (.canFrameTxEnd c res tdcv sof) s = .next t ∧
          s.others t c ∧ (can t).frame = none ∧ (t.chan c).canSlot k = some e ∧ (t.chan c).reg CAN_ERRFR = x.reg CAN_ERRFR + 1 ∧
          (t.chan c).reg CAN_ERRC = x.reg CAN_ERRC))) ∧
    (∀ (id : Word) (fmt : Byte) (data : List Byte) (stamp : Dword), x.canMode ≠ 0 → x.canMode ≠ 3 → b.off = false → x.dram.err = [] → x.dram.hold = 0 →
      let len := if id.getLsbD 30 then 0 else dlcBytes (fmt.getLsbD 4) (fmt.toNat % 16)
      let r := canRcd stamp (getField id 30 0) (fmt.toNat % 128) 0 0 ((data.take len) ++ List.replicate (len - data.length) 0)
      let n := 2 ^ getField (x.reg CAN_RXSIZE) 4 0
      (∀ err : BitVec 2, err ≠ 0 → ∃ t, exec (.canFrameReceive c id fmt data stamp err) s = .next t ∧ s.others t c ∧
        (t.chan c).reg CAN_ERRFR = x.reg CAN_ERRFR + 1 ∧ (t.chan c).reg CAN_RXOK = x.reg CAN_RXOK ∧
        getField ((t.chan c).reg CAN_ERRC) 14 8 = min (getField (x.reg CAN_ERRC) 14 8 + (if err = 1 then 1 else 8)) 127) ∧
      ((∀ k, k < 8 → x.canMatch id k = false) → x.bit CAN_CTRL 5 = true → (x.reg CAN_RXHEAD - x.reg CAN_RXTAIL).toNat < n →
        ∃ t, exec (.canFrameReceive c id fmt data stamp 0) s = .next t ∧ s.others t c ∧ (t.chan c).reg CAN_RXOK = x.reg CAN_RXOK + 1 ∧
          (t.chan c).reg CAN_RXHEAD = x.reg CAN_RXHEAD + 1 ∧
          rdBytes (t.chan c).dram.mem ((x.reg64 CAN_RXBASE).toNat + 128 * ((x.reg CAN_RXHEAD).toNat % n)) 128 = r) ∧
      (∀ k, k < 8 → x.canMatch id k = true → (∀ j, j < k → x.canMatch id j = false) → x.bit (CAN_MFILT k) 31 = true →
        ∃ t, exec (.canFrameReceive c id fmt data stamp 0) s = .next t ∧ s.others t c ∧ (t.chan c).reg CAN_RXOK = x.reg CAN_RXOK + 1 ∧
          (t.chan c).reg CAN_RXHEAD = x.reg CAN_RXHEAD ∧ (t.chan c).bit CAN_MSTAT k = true ∧
          (t.chan c).reg (CAN_MBUF k + 8) = BitVec.ofNat 32 (getField id 30 0))) ∧
    (b.off = true → x.bit CAN_CTRL 3 = true → ∃ t, exec (.canBusoffRecovery c) s = .next t ∧ s.others t c ∧ (can t).off = false ∧
      (t.chan c).reg CAN_ERRC = 0) ∧
    (∀ (v : Word) (p : Path), (p = .host ∧ s.hostUp = true) ∨ p = .csr c → exec (.canRxtailWrite c v p) s =
      .next (s.modChan c (fun x => if (v - x.reg CAN_RXTAIL).toNat ≤ (x.reg CAN_RXHEAD - x.reg CAN_RXTAIL).toNat
        then x.setReg CAN_RXTAIL v else x)))

/-- R413 to R424, R428 to R430, R434, R438, R440, R449: the safe-state logic. Records in memory are read back where nothing else is
written; memories carry no marks. That an event of a load's own reads is inside the load, and another stops a load at work while none runs in
the sequencer, the order of the checks of R418 in `skipCode`, and when a channel's retirement goes on past the drive link, are the
model's (log entry 45); that bursts waiting in the DRAM queue go first is log entry 29. -/
def Obligations.SafetyEvents : Prop :=
  ∀ (s : State) (c : ChId),
    let x := s.chan c
    let n := s.reg FLT_COUNT + 1
    let recorded (t : State) (src : Byte) : Prop := t.reg FLT_COUNT = n ∧
      t.reg (FLT_ENTRY (n.toNat % 64) + 8) = BitVec.ofNat 32 (c.val + 256 * src.toNat)
    (∀ src : Byte, x.raised = [] → x.aside = [src] → x.fenced = false → ∀ q, x.cmd.side = some q → q.phase ≠ .drained →
      ∃ t, exec (.checkerEventLatch (.chan c)) s = .next t ∧ s.others t c ∧ recorded t src ∧ (t.chan c).aside = [] ∧
        t.latched = s.latched ++ [⟨some c, src, s.fc, n.toNat, true⟩] ∧ (t.chan c).cmd.run = x.cmd.run ∧
        (t.chan c).cmd.side = some { q with phase := .drained, ckSrc := src, ckRec := n.toNat }) ∧
    (∀ src : Byte, x.raised = [src] → x.aside = [] → x.fenced = false →
      (classR src = true → ∀ r, x.cmd.run = some r → r.phase = .running → r.retried = false →
        ∃ t, exec (.checkerEventLatch (.chan c)) s = .next t ∧ s.others t c ∧ recorded t src ∧ (t.chan c).raised = [] ∧
          t.latched = s.latched ++ [⟨some c, src, s.fc, n.toNat, true⟩] ∧
          ∃ r', (t.chan c).cmd.run = some r' ∧ r'.cmd = r.cmd ∧ r'.phase = .checker ∧ r'.ckSrc = src ∧ r'.ckRec = n.toNat) ∧
      (classR src = true → x.cmd.run = none → ∀ q, x.cmd.side = some q → q.phase ≠ .drained →
        ∃ t, exec (.checkerEventLatch (.chan c)) s = .next t ∧ s.others t c ∧ recorded t src ∧ (t.chan c).raised = [] ∧
          t.latched = s.latched ++ [⟨some c, src, s.fc, n.toNat, true⟩] ∧
          (t.chan c).cmd.side = some { q with phase := .drained, ckSrc := src, ckRec := n.toNat }) ∧
      (classR src = true → x.cmd.run = none → x.cmd.side = none → x.cmd.trans = [] →
        ∃ t, exec (.checkerEventLatch (.chan c)) s = .next t ∧ s.others t c ∧ recorded t src ∧ (t.chan c).raised = [] ∧
          t.latched = s.latched ++ [⟨some c, src, s.fc, n.toNat, false⟩] ∧ t.safeDue = s.safeDue ∧
          t.reg (SAFE_TRANS c.val) = s.reg (SAFE_TRANS c.val) + 1) ∧
      (classS src = true → ∃ t, exec (.checkerEventLatch (.chan c)) s = .next t ∧ s.others t c ∧ (t.chan c).raised = [] ∧
        (t.chan c).cmd.run = x.cmd.run ∧ t.latched = s.latched ++ [⟨some c, src, s.fc, n.toNat, false⟩] ∧
        t.reg (SAFE_TRANS c.val) = s.reg (SAFE_TRANS c.val) + 1 ∧
        (x.cmd.sTicks = [] → recorded t src ∧ t.safeDue = s.safeDue) ∧
        (lastOf x.cmd.sTicks = some (x.reg SERVO_TICK - 1) → t.safeDue = s.safeDue ++ [(c, src)]))) ∧
    (s.devDue = none →
      (∃ t, exec (.checkerEventLatch .lockstep) s = .next t ∧ t.chans = s.chans ∧ t.reg FLT_COUNT = n ∧ t.devDue = some 0x20 ∧
        t.bit SAFE_STAT 5 = true) ∧
      (∃ t, exec (.checkerEventLatch .memory) s = .next t ∧ t.chans = s.chans ∧ t.reg FLT_COUNT = n ∧ t.devDue = some 0x27)) ∧
    (∀ e, s.latched.find? (fun e => e.ch == some c) = some e →
      (s.allows c e .count = true → exec (.supervisorDecision (some c) .count) s = .next { s with latched := s.latched.erase e }) ∧
      (s.allows c e .retry = true → ∃ t, exec (.supervisorDecision (some c) .retry) s = .next t ∧ s.others t c ∧ t.latched = s.latched.erase e ∧
        (t.chan c).cmd.retry = x.cmd.retry ++ [e.rcd] ∧ (t.chan c).cmd.run = x.cmd.run) ∧
      (∃ t, exec (.supervisorDecision (some c) .safe) s = .next t ∧ t.chans = s.chans ∧ t.latched = s.latched.erase e ∧
        t.safeDue = s.safeDue ++ [(c, e.src)])) ∧
    (∀ r, x.cmd.run = some r → r.phase = .drained → r.ckRec ∈ x.cmd.retry → x.ptu.copies ≠ [] ∨ x.ptu.releases ≠ [] →
      exec (.commandRetry c) s = .next s) ∧
    (∀ r, x.cmd.run = some r → r.src = .ring → r.phase = .drained → r.ckRec ∈ x.cmd.retry → x.fenced = false → x.dram.err = [] →
      x.dram.hold = 0 → x.ptu.copies = [] → x.ptu.releases = [] →
      (s.skipCode c r ≠ 0 → ∃ t, exec (.commandRetry c) s = .next t ∧ s.others t c ∧
        t.reg (SAFE_TRANS c.val) = s.reg (SAFE_TRANS c.val) + 1 ∧
        (t.chan c).cmd.run = none ∧ ∃ r' ∈ (t.chan c).cmd.done, r'.cmd = r.cmd ∧ r'.phase = .finished ∧ r'.status = 0x02 ∧
          r'.code = BitVec.ofNat 16 (s.skipCode c r + 256 * r.ckSrc.toNat)) ∧
      (∀ e, s.skipCode c r = 0 → x.cmd.table.find? (fun e => e.seq == r.cmd.seq) = some e →
        let b := rdBytes x.dramTurn.dram.mem ((x.reg64 CH_JRNL_BASE).toNat + 64 * e.slot) 64
        let m := cmdOf b
        (rcdCrcOk b = true → m.kind = 1 → x.rcdCode m = 0 → s.expired m = false →
          x.startCheck (m.prog.toNat % 0x8000) none 0 r.limit true = 0 →
          ∃ t, exec (.commandRetry c) s = .next t ∧ s.others t c ∧ r.ckRec ∉ (t.chan c).cmd.retry ∧ (t.chan c).seq.rs 3 = m.seq ∧
            (t.chan c).reg PTU_CMD_OPS = x.reg PTU_CMD_OPS ∧
            ∃ r', (t.chan c).cmd.run = some r' ∧ r'.cmd = m ∧ r'.retried = true ∧ r'.phase = .started) ∧
        (rcdCrcOk b = false → ∃ t, exec (.commandRetry c) s = .next t ∧ s.others t c ∧
          (t.chan c).cmd.run = none ∧ ∃ r' ∈ (t.chan c).cmd.done, r'.cmd = r.cmd ∧ r'.phase = .finished ∧ r'.status = 0x04 ∧ r'.code = 0x000E))) ∧
    (∀ e, s.safeDue.find? (fun e => e.1 == c) = some e → s.live c = true → x.fenced = false →
      ∃ t, exec (.channelSafeState c) s = .next t ∧ (t.chan c).fenced = true ∧ (t.chan c).bit SERVO_STAT 1 = true ∧
        (t.chan c).cmd.run = none ∧ (t.chan c).cmd.accepted = [] ∧ (t.chan c).cmd.table = x.cmd.table ∧ (t.chan c).cmd.safeSrc = e.2 ∧ (t.chan c).intake.decode = none ∧
        t.bit SAFE_CHSAFE c.val = true ∧ t.bit SAFE_STAT 3 = true ∧ (s.bit SAFE_CTRL c.val = true → t.bit SAFE_STAT 2 = true ∧ t.sqLevel = false) ∧
        ∀ k, k < 64 → s.bit (STEER k 1) 7 = true → getField (s.reg (STEER k 1)) 3 0 = c.val → t.bit (STEER k 1) 6 = true) ∧
    (∀ src, s.devDue = some src → ∃ t, exec .deviceSafeState s = .next t ∧ t.devDue = none ∧ t.safeDue = [] ∧ t.latched = [] ∧
      t.bit SAFE_STAT 1 = true ∧ t.bit SAFE_STAT 2 = true ∧ t.bit SAFE_STAT 3 = true ∧ t.sqLevel = false ∧
      ∀ d, s.live d = true → (t.chan d).fenced = true) ∧
    (s.hostUp = true → ∀ v : Word, (s.bit SAFE_STAT 0 = false → exec (.safeReleaseWrite v) s = .next s) ∧
      (s.bit SAFE_STAT 0 = true → getField (s.reg GLB_STATE) 1 0 = 1 → s.reg SAFE_CHSAFE = 0 → s.bit SAFE_STAT 1 = false →
        ∃ t, exec (.safeReleaseWrite v) s = .next t ∧ t.chans = s.chans ∧ t.reg SAFE_CTRL = v &&& 0x1FFFF ∧
          t.reg SAFE_STAT = s.reg SAFE_STAT &&& ~~~ 0xD)) ∧
    (x.fenced = true →
      (x.cmd.table = [] → exec (.abortedRecordIssue c) s = .next (s.clrReg (SAFE_LEASE c.val) 0x1000)) ∧
      (x.cmd.table ≠ [] → x.cplFull = true → exec (.abortedRecordIssue c) s = .next (s.orReg (SAFE_LEASE c.val) 0x1000)) ∧
      (∀ e, x.cmd.table = [e] → x.cplFull = false → ∃ t, exec (.abortedRecordIssue c) s = .next t ∧ s.others t c ∧
        (t.chan c).cmd.table = [] ∧ (t.chan c).reg CH_CPL_PROD = x.reg CH_CPL_PROD + 1 ∧ t.bit (SAFE_LEASE c.val) 12 = false ∧
        let a := (x.reg64 CH_CPL_BASE).toNat + 32 * ((x.reg CH_CPL_PROD).toNat % x.cplSize)
        let w := (x.reg64 CH_WB_ADDR).toNat
        (a + 32 ≤ w ∨ w + 16 ≤ a → rdBytes t.hostMem a 32 =
          cplRcd e.seq s.now s.now (x.reg ALM_EPOCH) 0x04 0 (x.cmd.safeSrc.zeroExtend 16))) ∧
      (s.live c = true → x.can.safe = true → s.point c ≠ 3 → x.drv.state ≠ .up ∨ 2 ≤ x.drv.invalid →
        exec (.channelRetirement c) s = .next (s.modChan c (fun x => { x with drv := { x.drv with state := .down } }))) ∧
      (s.live c = true → x.can.safe = false ∨ s.point c = 3 → x.drv.state ≠ .up ∨ 2 ≤ x.drv.invalid →
        ∃ t, exec (.channelRetirement c) s = .next t ∧ t.live c = false ∧ t.bit SAFE_RETIRED c.val = true ∧ (t.chan c).fenced = true ∧
          (t.chan c).cmd.table = x.cmd.table ∧ (t.chan c).dram = x.dram ∧ (t.chan c).drv.state = .down ∧ (t.chan c).spad.mem = [] ∧
          ∀ o ∈ ringCtl, (t.chan c).reg o = x.reg o)) ∧
    (∀ r, x.cmd.run = some r → r.phase = .ended → x.seq.quiet = true → r.cmd.hail = true → r.hailOk = false → x.halted = false →
      x.freezing = false → x.fenced = false → x.dram.err = [] → x.dram.hold = 0 → x.dramOk r.cmd.arg.toNat 16 = true →
      let h := rdBytes x.dramTurn.dram.mem r.cmd.arg.toNat 16
      let len := field h 4 4
      field h 8 8 = 0 → len % 64 = 0 → 64 ≤ len → len ≤ 0x1000000 → x.dramOk r.cmd.out.toNat len = true →
      let good : Prop := field h 0 4 = (crc32 (rdBytes x.dramTurn.dram.mem r.cmd.out.toNat len)).toNat
      ∃ t, exec (.hailSignatureCheck c) s = .next t ∧ s.others t c ∧
        (good → (t.chan c).cmd.run = some { r with hailOk := true } ∧ (t.chan c).raised = x.raised) ∧
        (¬ good → (t.chan c).cmd.run = some r ∧ (t.chan c).raised = x.raised ++ [0x0B]))

/-- R24, R413 to R415, R423, R471 to R476: the monitors, the SQUALL pair and the power commands. A missing heartbeat of a channel awaits
the supervisor's decision (log entry 9); that a lift advances PWR_THCNT, that a park is dropped at its application and when the
voltages are set and confirmed are the model's (log entry 46). -/
def Obligations.MonitorsAndPower : Prop :=
  ∀ (s : State) (c : ChId),
    let x := s.chan c
    let p := s.pw c
    let n := s.reg FLT_COUNT + 1
    let count (t : State) : Word := t.reg (PWR_THCNT c.val)
    let dropped (t : State) (k : Nat) : Prop := count t = count s + 1 ∧ t.bit (PWR_STAT c.val) (4 + k) = true ∧ t.point c = s.point c
    let due (src : Byte) (bit : Nat) (out : Host.Outcome State Fault Refusal) : Prop :=
      ∃ t, out = .next t ∧ t.chans = s.chans ∧ t.reg FLT_COUNT = n ∧ t.devDue = some src ∧ t.bit SAFE_STAT bit = true ∧
        t.reg (FLT_ENTRY (n.toNat % 64) + 8) = BitVec.ofNat 32 (0xFF + 256 * src.toNat + 65536 * 5)
    ((s.live c = false ∨ s.parked c = true) → exec (.channelHeartbeatTimeout c) s = .next s) ∧
    (s.live c = true → s.parked c = false → x.fenced = false →
      ∃ t, exec (.channelHeartbeatTimeout c) s = .next t ∧ t.chans = s.chans ∧ t.reg FLT_COUNT = n ∧
        t.reg (FLT_ENTRY (n.toNat % 64) + 8) = BitVec.ofNat 32 (c.val + 256 * 0x10) ∧
        t.latched = s.latched ++ [⟨some c, 0x10, s.fc, n.toNat, false⟩]) ∧
    (s.devDue = none →
      due 0x24 8 (exec .clockMonitorTrip s) ∧
      due 0x26 8 (exec .overtemperatureTrip s) ∧ due 0x25 8 (exec (.voltageMonitorTrip none) s) ∧
      (s.bit GLB_CHFUSE c.val = true → s.bit SAFE_RETIRED c.val = false → due 0x25 8 (exec (.voltageMonitorTrip (some c)) s)) ∧
      (s.bit SAFE_CTRL 16 = true → due 0x23 4 (exec .wdogNAssert s)) ∧
      (∀ e, s.latched.find? (fun e => decide (e.at_ + 3600 ≤ s.fc)) = some e →
        due 0x22 7 (exec .deadmanExpiry s) ∧ ∃ t, exec .deadmanExpiry s = .next t ∧ t.latched = s.latched.erase e)) ∧
    (∃ t, exec .supervisorHeartbeatTimeout s = .next t ∧ t.chans = s.chans ∧ t.reg FLT_COUNT = n ∧ t.bit SAFE_STAT 6 = true ∧
      t.reg (FLT_ENTRY (n.toNat % 64) + 8) = BitVec.ofNat 32 (0xFF + 256 * 0x21 + 65536 * 5) ∧ t.devDue = s.devDue ∧
      t.latched = s.latched ++ [⟨none, 0x21, s.fc, n.toNat, false⟩]) ∧
    (∀ e, s.latched.find? (fun e => e.ch == none) = some e → s.devDue = none →
      exec (.supervisorDecision none .safe) s = .next { s with latched := s.latched.erase e, devDue := some e.src }) ∧
    (s.bit GLB_CHFUSE c.val = false ∨ s.bit SAFE_RETIRED c.val = true → exec (.voltageMonitorTrip (some c)) s = .next s) ∧
    (s.bit SAFE_CTRL 16 = false → exec .wdogNAssert s = .next s) ∧
    ((∀ e ∈ s.latched, s.fc < e.at_ + 3600) → exec .deadmanExpiry s = .next s) ∧
    (s.bit SAFE_STAT 2 = false → (∀ e ∈ s.latched, e.src ≠ 0x21) → s.devDue = none → s.sqAt + 450000 ≤ s.fc →
      ∃ t, exec .squallToggle s = .next t ∧ t = { s with sqLevel := !s.sqLevel, sqAt := s.fc } ∧
        t.pins = (!s.pins.1, !s.pins.2.1, s.pins.2.2)) ∧
    (s.bit SAFE_STAT 2 = true ∨ s.devDue ≠ none ∨ (∃ e ∈ s.latched, e.src = 0x21) ∨ s.fc < s.sqAt + 450000 → exec .squallToggle s = .next s) ∧
    (s.hostUp = true → ∀ v : Word, let req := getField v 1 0
      let refused : Prop := req = 3 ∧ (x.idle = false ∨ x.bit SERVO_CTRL 0 = true ∨ x.drv.state = .up)
      ∃ t, exec (.pwrReqWrite c v) s = .next t ∧ t.chans = s.chans ∧ t.reg (PWR_CTL c.val) = v &&& 7 ∧
        (refused → t.pwr = s.pwr ∧ t.bit (PWR_STAT c.val) 3 = true) ∧
        (¬ refused → (t.pw c).req = req ∧
          (p.change.isSome = true → (t.pw c).change = p.change) ∧
          (s.live c = true → p.change = none → let g := Pwr.target { p with req := req }
            (t.pw c).change = if g = s.point c then none else some g))) ∧
    (∀ g, p.change = some g →
      (p.applied = false → s.changeEdge c = false ∨ s.voltOk c g = false → exec (.pointChangeApply c) s = .next s) ∧
      (p.applied = false → s.changeEdge c = true → s.voltOk c g = true → g = 3 → x.bit SERVO_CTRL 0 = true ∨ x.drv.state = .up →
        ∃ t, exec (.pointChangeApply c) s = .next t ∧ t.chans = s.chans ∧ t.point c = s.point c ∧ (t.pw c).req = s.point c ∧
          t.bit (PWR_STAT c.val) 3 = true) ∧
      (p.applied = false → s.changeEdge c = true → s.voltOk c g = true → (g = 3 → x.idle = true ∧ x.bit SERVO_CTRL 0 = false ∧ x.drv.state ≠ .up) →
        ∃ t, exec (.pointChangeApply c) s = .next t ∧ s.others t c ∧ t.point c = g % 4 ∧ (t.pw c).applied = true ∧
          ∀ r, x.cmd.run = some r → ∃ r', (t.chan c).cmd.run = some r' ∧ r' = { r with flags := r.flags ||| 4 }) ∧
      (p.applied = true → s.live c = true → ∃ t, exec (.pointChangeComplete c) s = .next t ∧ t.chans = s.chans ∧
        (t.pw c).applied = false ∧ ((t.pw c).change = if p.target = s.point c then none else some p.target) ∧
        ∀ d : ChId, t.live d = true → (t.pw d).mv = t.railMv d)) ∧
    (∀ temp mv : BitVec 16, ∃ t, exec (.telemetrySample c temp mv) s = .next t ∧ t.chans = s.chans ∧
      t.reg (PWR_TEMP c.val) = temp.zeroExtend 32 ∧ t.reg (PWR_VOLT c.val) = mv.zeroExtend 32 ∧
      (temp.toInt < s.thHi → (t.pw c).hot = 0 ∧ count t = count s) ∧
      (s.thHi ≤ temp.toInt → p.hot < 2 → (t.pw c).hot = p.hot + 1 ∧ count t = count s) ∧
      (s.thHi ≤ temp.toInt → 2 ≤ p.hot → s.live c = true → p.target < 2 →
        dropped t 0 ∧ (t.pw c).capT = p.target + 1 ∧ (t.pw c).target = p.target + 1)) ∧
    (∀ (ma : List Word) (rest : Word), let dev := s.devPower ma rest
      ∃ t, exec (.regulatorReading ma rest) s = .next t ∧ t.chans = s.chans ∧
      t.reg PWR_DEVPWR = dev ∧ t.reg (PWR_CURR c.val) = ma.getD c.val 0 ∧
      (let e := p.nJ + (ma.getD c.val 0).toNat * (s.reg (PWR_VOLT c.val)).toNat
       t.reg64 (PWR_ENERGY c.val) = s.reg64 (PWR_ENERGY c.val) + BitVec.ofNat 64 (e / 1000000) ∧ (t.pw c).nJ = e % 1000000) ∧
      let excess : Prop := s.reg (PWR_ILIM c.val) < ma.getD c.val 0
      let heavy : Prop := s.reg PWR_PLIM < dev
      (s.live c = true → p.target < 2 →
        (excess → dropped t 1 ∧ (t.pw c).capC = p.target + 1 ∧ (t.pw c).target = p.target + 1) ∧
        (¬ excess → heavy → dropped t 2 ∧ (t.pw c).capP = p.target + 1 ∧ (t.pw c).target = p.target + 1) ∧
        (¬ excess → ¬ heavy → count t = count s ∧ (t.pw c).target = p.target))) ∧
    (∀ u, p.coolAt = some u → p.req < p.capT → u + 9000000 ≤ s.fc →
      ∃ t, exec (.throttleLift c) s = .next t ∧ t.chans = s.chans ∧ dropped t 0 ∧ (t.pw c).coolAt = some s.fc ∧
        max p.req (t.pw c).capT = p.capT - 1)

/-- R94, R435, R441, R445, R453, R454, R460 to R463, R468, R485, R486: the commands of the start and of resets. `startReason` is the code
of the first step that fails, 0 for none; `gradeOf` is none of a live mask that no part has; `bootPick` is the image that starts, by the
headers in the flash and by which of them verify. That the outcome of the cryptography is the start's operand, slot A of two equal
versions, and the order of the steps' failures, are the model's (log entry 47). -/
def Obligations.BootEvents : Prop :=
  ∀ (s : State) (c : ChId),
    let fresh (t : State) : Prop := t.chans = State.reset.chans ∧ getField (t.reg GLB_STATE) 1 0 = 0 ∧ t.reg GLB_CHLIVE = 0 ∧
      t.pins = (false, false, false) ∧ t.sup.begun = false ∧ t.hostMem = s.hostMem ∧
      (s.sup.flashRun = none → s.sup.calRun ≠ some 3 → t.sup.flash = s.sup.flash) ∧ t.sup.floor = s.sup.floor
    let kept (t : State) : Prop := t.reg GLB_BOOTFAIL = s.reg GLB_BOOTFAIL ∧ t.reg GLB_CALM_REASON = s.reg GLB_CALM_REASON ∧
      t.bit GLB_STATE 3 = s.bit GLB_STATE 3
    let numbers (t : State) : Prop := ∀ j, j < 8 →
      (s.bit SAFE_PENDV c.val = true → t.bit SAFE_PENDV c.val = true ∧ t.reg64 (SAFE_PEND c.val + 8 * j) = s.reg64 (SAFE_PEND c.val + 8 * j)) ∧
      (s.bit SAFE_PENDV c.val = false → s.live c = true → t.bit SAFE_PENDV c.val = true ∧
        t.reg64 (SAFE_PEND c.val + 8 * j) = ((s.chan c).cmd.table.map (·.seq)).getD j 0)
    let safe (t : State) : Prop := getField (t.reg GLB_STATE) 1 0 = 3 ∧ t.bit SAFE_STAT 1 = true ∧ t.pins.2.2 = false ∧
      ∀ d, s.live d = true → (t.chan d).fenced = true
    (∃ t, exec .perstNAssert s = .next t ∧ fresh t ∧ kept t ∧ t.time = s.time ∧ (s.sup.aonLost = false → numbers t) ∧
      ∀ b, getField (s.reg GLB_STATE) 1 0 = 3 → gradeOf b.fuse ≠ none → 
        exec (.deviceStart b) s = exec (.deviceStart { b with straps := (s.reg GLB_STRAPS).extractLsb' 0 4 }) t) ∧
    (∃ t, exec .powerOn s = .next t ∧ fresh t ∧ t.reg GLB_BOOTFAIL = s.reg GLB_BOOTFAIL &&& 0xF0 ∧ t.reg SAFE_PENDV = 0 ∧
      t.bit GLB_STATE 3 = false ∧ t.time = State.reset.time) ∧
    (s.hostUp = true → (∃ t, exec .glbResetDevice s = .next t ∧ safe t) ∧
      (∃ t, exec .glbResetCalmExit s = .next t ∧ safe t ∧ t.reg GLB_BOOTFAIL = 0 ∧ t.sup.calm = false) ∧
      exec .glbResetCalmReq s = .next { s with sup := { s.sup with calmReq := true } }) ∧
    (s.starting = false → ∃ t, exec .functionLevelReset s = .next t ∧ safe t) ∧
    (s.starting = true → exec .functionLevelReset s = .next (s.reply .retry []) ∧
      ∀ d3 : Bool, exec (.pmStateWrite d3) s = .next (s.reply .retry [])) ∧
    (∀ b : Boot, (gradeOf b.fuse = none ∨ (s.sup.begun = true ∧ getField (s.reg GLB_STATE) 1 0 ≠ 3)) → exec (.deviceStart b) s = .next s) ∧
    (∀ b g, gradeOf b.fuse = some g → s.sup.begun = false → getField (s.reg GLB_STATE) 1 0 = 0 →
      let n := max (getField (s.reg GLB_BOOTFAIL) 3 0) (getField (s.reg GLB_BOOTFAIL) 7 4)
      ∃ t, exec (.deviceStart b) s = .next t ∧ t.sup.begun = true ∧ t.reg GLB_CHFUSE = b.fuse.zeroExtend 32 ∧ t.reg GLB_FWVER = ((s.bootPick b.ver).getD (false, 0)).2 ∧
        (∀ p q, s.imageVersion false = some p → s.imageVersion true = some q → b.ver = 3 → s.sup.floor.toNat ≤ getField p 31 16 →
          s.sup.floor.toNat ≤ getField q 31 16 → t.reg GLB_FWVER = (if p < q then q else p) ∧ t.bit GLB_STRAPS 4 = decide (p < q)) ∧
        (3 ≤ n ∨ s.sup.calm = true → t.calmMode = true ∧ t.chans = s.chans ∧ t.reg GLB_BOOTFAIL = s.reg GLB_BOOTFAIL) ∧
        (n < 3 → s.sup.calm = false → s.sup.calmReq = true → t.calmMode = true ∧ t.chans = s.chans ∧ t.sup.calm = true ∧
          getField (t.reg GLB_CALM_REASON) 7 0 = 0x09) ∧
        (n < 3 → s.sup.calm = false → s.sup.calmReq = false →
          let r := ({ s with sup := { s.sup with serial := b.serial } } : State).startReason b
          (r = 0 → getField (t.reg GLB_STATE) 1 0 = 1 ∧ (∀ k, 5 ≤ k → k ≤ 8 → t.bit SAFE_STAT k = true) ∧ t.reg GLB_BOOTFAIL = 0 ∧ t.reg GLB_CALM_REASON = s.reg GLB_CALM_REASON ∧
            (t.live c = true ↔ bootPasses b c = true) ∧
            (bootPasses b c = true → (t.chan c).reg64 DRAM_TOP = BitVec.ofNat 64 (b.dram.getD c.val 0 * 1048576 * 15 / 16)) ∧
            (bootPasses b c = true → (t.chan c).spad.mem = [] ∧ (t.chan c).spad.err = [] ∧ (t.chan c).acc = Vector.replicate 2 {}) ∧
            (bootPasses b c = false → t.chan c = s.chan c)) ∧
          (r ≠ 0 → t.chans = s.chans ∧ t.reg GLB_CHLIVE = s.reg GLB_CHLIVE ∧ getField (t.reg GLB_STATE) 1 0 = 0 ∧
            getField (t.reg GLB_BOOTFAIL) 3 0 = n + 1 ∧ getField (t.reg GLB_BOOTFAIL) 7 4 = n + 1 ∧
            getField (t.reg GLB_CALM_REASON) 7 0 = r))) ∧
    (let open_ : Prop := s.sup.begun = true ∧ getField (s.reg GLB_STATE) 1 0 = 0 ∧ getField (s.reg GLB_CALM_REASON) 7 0 = 0x0F
     (open_ → ∃ t, exec .bootWatchdogTimeout s = .next t ∧ t.chans = s.chans ∧ getField (t.reg GLB_CALM_REASON) 7 0 = 0x08 ∧
       getField (t.reg GLB_CALM_REASON) 31 8 = getField (s.reg GLB_CALM_REASON) 31 8) ∧
     (¬ open_ → exec .bootWatchdogTimeout s = .next s)) ∧
    (∃ t, exec (.supplyLoss true false) s = .next t ∧ t.chans = s.chans.map (fun x => { x with cmd := { x.cmd with table := [] } }) ∧ t.reg SAFE_PENDV = 0 ∧
      t.reg GLB_BOOTFAIL = s.reg GLB_BOOTFAIL &&& ~~~ 0xF ∧ t.sup.aonLost = true) ∧
    (∃ t, exec (.supplyLoss false true) s = .next t ∧ fresh t ∧ kept t ∧ t.sup.comOff = true) ∧
    (∃ t, exec .debugUnlock s = .next t ∧ t.bit GLB_STATE 3 = true ∧ t.chans = s.chans ∧ ∀ o, o ≠ GLB_STATE → t.reg o = s.reg o) ∧
    (∀ d3 : Bool, s.starting = false → exec (.pmStateWrite d3) s = .next { s with sup := { s.sup with d3hot := d3 } })

/-- R456, R457, R459, R465, R466, R469: the supervisor's services. The bytes of the failure record that a READ returns, and the
signature, are free and not stated; the measurements are the digests of free contents (log entry 24). -/
def Obligations.SupervisorServices : Prop :=
  ∀ s : State,
    let fb (t : State) (a : Nat) : Byte := ~~~ (rd8 t.sup.flash a)
    let shown (t : State) (m : List Byte) : Prop := t.bit MBX_S2H_CTL 0 = true ∧
      ∀ k, k < 16 → t.reg (MBX_S2H + 4 * k) = BitVec.ofNat 32 (field m (4 * k) 4)
    let answers (out : Host.Outcome State Fault Refusal) (m : List Byte) : Prop :=
      ∃ t, out = .next t ∧ t.chans = s.chans ∧ t.bit MBX_H2S_CTL 0 = false ∧
        (s.bit MBX_S2H_CTL 0 = false → s.sup.out = [] → t.sup.out = [] ∧ shown t m) ∧
        (s.bit MBX_S2H_CTL 0 = true → s.sup.out.length < 8 → t.sup.out = s.sup.out ++ [m] ∧
          ∀ k, k < 16 → t.reg (MBX_S2H + 4 * k) = s.reg (MBX_S2H + 4 * k))
    let tag := byteAt s.h2s 2
    (s.mbxReady = true →
      (s.mbxType = 1 → (byteAt s.h2s 3).toNat ≤ 60 →
        answers (exec .mbxEcho s) (leBytes 2 0x8001 ++ [tag, byteAt s.h2s 3] ++ ((s.h2s.drop 4).take (byteAt s.h2s 3).toNat) ++
          List.replicate (60 - (byteAt s.h2s 3).toNat) 0)) ∧
      (s.mbxType = 2 → s.sup.steps.length = 16 → answers (exec .mbxInfo s) (leBytes 2 0x8002 ++ [tag, 28] ++
        leBytes 4 (s.reg GLB_FWVER).toNat ++ leBytes 4 s.sup.startUs.toNat ++ leBytes 4 (s.reg SAFE_STCHK).toNat ++ s.sup.steps ++
        List.replicate 32 0)) ∧
      (s.mbxType = 3 → (∀ e ∈ s.sup.log, e.length = 16) →
        let n := min 3 s.sup.log.length
        answers (exec .mbxLog s) (leBytes 2 0x8003 ++ [tag, BitVec.ofNat 8 (4 + 16 * n)] ++ leBytes 4 (s.sup.log.length - 3) ++
          (s.sup.log.take 3).flatten ++ List.replicate (56 - 16 * n) 0) ∧
        ∃ t, exec .mbxLog s = .next t ∧ t.sup.log = s.sup.log.drop 3) ∧
      (s.mbxType ≠ 1 → s.mbxType ≠ 2 → s.mbxType ≠ 3 →
        answers (exec .mbxUnknownType s) (leBytes 2 0xFFFF ++ [tag, 2] ++ leBytes 2 s.mbxType ++ List.replicate 58 0))) ∧
    (s.bit MBX_H2S_CTL 0 = false → exec .mbxEcho s = .next s ∧ exec .mbxInfo s = .next s ∧ exec .mbxLog s = .next s ∧
      exec .mbxUnknownType s = .next s) ∧
    (s.hostUp = true → s.sup.out = [] → exec .mbxS2hRelease s = .next (s.clrReg MBX_S2H_CTL 1)) ∧
    (∀ m r, s.hostUp = true → s.sup.out = m :: r → m.length = 64 → ∃ t, exec .mbxS2hRelease s = .next t ∧ t.sup.out = r ∧ shown t m) ∧
    (let a := (s.reg FLASH_ADDR).toNat
     let taken (out : Host.Outcome State Fault Refusal) (op : Nat) : Prop := out = .next { s with sup := { s.sup with flashRun := some (op, a) } }
     let refused (out : Host.Outcome State Fault Refusal) : Prop :=
       ∃ t, out = .next t ∧ t.sup.flash = s.sup.flash ∧ t.sup.flashRun = s.sup.flashRun ∧ t.sup.floor = s.sup.floor ∧ t.bit FLASH_STAT 2 = true
     (s.hostUp = true → s.bootSlot < a + 4096 → a < s.bootSlot + 0x700000 →
        refused (exec .flashErase4k s) ∧ (s.bootSlot < a + 256 → refused (exec .flashProg256 s))) ∧
     (s.hostUp = true → s.sup.flashRun = none → taken (exec .flashRead s) 1 ∧
       (a % 4096 = 0 → s.flashMay a 4096 = true → taken (exec .flashErase4k s) 2) ∧
       (a % 256 = 0 → s.flashMay a 256 = true → taken (exec .flashProg256 s) 3) ∧ (s.calmMode = false → taken (exec .flashFloor s) 4)) ∧
     (s.hostUp = true → s.sup.flashRun.isSome = true → refused (exec .flashRead s)) ∧
     (s.hostUp = true → s.sup.flashRun.isSome = true ∨ a % 4096 ≠ 0 ∨ s.flashMay a 4096 = false → refused (exec .flashErase4k s)) ∧
     (s.hostUp = true → s.sup.flashRun.isSome = true ∨ a % 256 ≠ 0 ∨ s.flashMay a 256 = false → refused (exec .flashProg256 s)) ∧
     (s.hostUp = true → s.sup.flashRun.isSome = true ∨ s.calmMode = true → refused (exec .flashFloor s)) ∧
     (∀ n, s.flashMay a n = true → a < 0x100000 → s.calmMode = true ∧ 0x3000 ≤ a ∧ a + n ≤ 0x4000)) ∧
    (∀ op a, s.sup.flashRun = some (op, a) →
      (∃ t, exec (.flashCmdComplete false) s = .next t ∧ t.chans = s.chans ∧ t.sup.flashRun = none ∧ t.bit FLASH_STAT 1 = true ∧
        (op = 1 → t.sup.flash = s.sup.flash ∧ (a + 256 ≤ 0x2000 ∨ 0x3000 ≤ a → ∀ k, k < 64 →
          t.reg (FLASH_DATA + 4 * k) = BitVec.ofNat 32 (field (s.flashRd a 256) (4 * k) 4))) ∧
        (op = 2 → ∀ b, fb t b = if a ≤ b ∧ b < a + 4096 then 0xFF else fb s b) ∧
        (op = 3 → (∀ b, a ≤ b → b < a + 256 → fb s b = 0xFF) → ∀ b, fb t b =
          if a ≤ b ∧ b < a + 256 then (s.reg (FLASH_DATA + (b - a) / 4 * 4)).extractLsb' (8 * ((b - a) % 4)) 8 else fb s b) ∧
        (op = 4 → t.sup.flash = s.sup.flash ∧ t.sup.floor.toNat = max s.sup.floor.toNat (getField (s.reg GLB_FWVER) 31 16))) ∧
      (∃ t, exec (.flashCmdComplete true) s = .next t ∧ t.sup.flashRun = none ∧ t.bit FLASH_STAT 3 = true ∧
        (op = 1 ∨ op = 4 → t.sup.flash = s.sup.flash ∧ t.sup.floor = s.sup.floor) ∧
        (op = 2 → ∀ b, (b < a ∨ a + 4096 ≤ b) → fb t b = fb s b) ∧ (op = 3 → ∀ b, (b < a ∨ a + 256 ≤ b) → fb t b = fb s b))) ∧
    (s.sup.flashRun = none → ∀ e, exec (.flashCmdComplete e) s = .next s) ∧
    (let run (op : Nat) : State := { s with sup := { s.sup with calRun := some op } }
     let good : Prop := s.calOk s.calWin = true ∧ field s.calWin 6 2 = 1024
     (s.hostUp = true → s.sup.calRun = none → exec .calLoad s = .next (run 1) ∧ exec .calSeal s = .next (run 2) ∧
       (good → exec .calCommit s = .next (run 3)) ∧
       (¬ good → ∃ t, exec .calCommit s = .next t ∧ t.sup.calRun = none ∧ t.sup.flash = s.sup.flash ∧ t.bit CAL_STAT 2 = true)) ∧
     (s.hostUp = true → s.sup.calRun.isSome = true → exec .calLoad s = .next (s.orReg CAL_STAT 4) ∧ exec .calSeal s = .next (s.orReg CAL_STAT 4) ∧
       exec .calCommit s = .next (s.orReg CAL_STAT 4))) ∧
    (∀ op, s.sup.calRun = some op → ∃ t, exec (.calCmdComplete false) s = .next t ∧ t.chans = s.chans ∧ t.sup.calRun = none ∧
      t.bit CAL_STAT 1 = true ∧
      (op = 1 → t.sup.flash = s.sup.flash ∧ ∀ k, k < 256 →
        t.reg (CAL_WIN + 4 * k) = BitVec.ofNat 32 (field (s.flashRd 0x1000 1024) (4 * k) 4)) ∧
      (op = 2 → t.sup.flash = s.sup.flash ∧ t.reg (CAL_WIN + 24) = 1 ∧ t.reg (CAL_WIN + 1020) = crc32 (t.calWin.take 1020)) ∧
      (op = 3 → t.flashRd 0x1000 1024 = s.calWin ∧ (∀ b, 0x1400 ≤ b → b < 0x2000 → fb t b = 0xFF) ∧
        ∀ b, (b < 0x1000 ∨ 0x2000 ≤ b) → fb t b = fb s b)) ∧
    (s.sup.attRun = false → (s.hostUp = true → exec .attGo s = .next { s with sup := { s.sup with attRun := true } }) ∧
      ∀ f, exec (.attReportComplete f) s = .next s) ∧
    (s.sup.attRun = true → (s.hostUp = true → exec .attGo s = .next (s.orReg ATST_STAT 4)) ∧
      (∃ t, exec (.attReportComplete true) s = .next t ∧ t.sup.attRun = false ∧ t.bit ATST_STAT 3 = true ∧
        ∀ k, k < 100 → t.reg (ATT_REPORT + 4 * k) = 0) ∧
      (∃ t, exec (.attReportComplete false) s = .next t ∧ t.sup.attRun = false ∧ t.bit ATST_STAT 1 = true ∧
        t.reg ATT_REPORT = 0x4B415431 ∧ t.reg (ATT_REPORT + 4) = 0x01900001 ∧
        t.reg (ATT_REPORT + 28) = (s.reg GLB_CHFUSE).extractLsb' 0 16 ++ (s.reg GLB_CHLIVE).extractLsb' 0 16 ∧
        t.reg (ATT_REPORT + 36) = s.reg GLB_FWVER ∧
        (∀ j, j < 12 → t.reg (ATT_REPORT + 48 + 4 * j) = s.reg (ATT_NONCE + 4 * j) ∧
          let digest (o : Nat) (b : List Byte) : Prop := t.reg (ATT_REPORT + o + 4 * j) = BitVec.ofNat 32 (field (sha384 b) (4 * j) 4)
          digest 96 Config.rom ∧ digest 144 s.bootImage ∧ digest 192 (Config.numTables (getField (s.reg (GLB_ID + 4)) 31 16)) ∧
            digest 240 s.sup.calUsed) ∧
        t.reg (ATT_REPORT + 288) = s.now.extractLsb' 0 32 ∧ t.reg (ATT_REPORT + 292) = s.now.extractLsb' 32 32))
end

