-- ==== Sys2Proof/Laws/Memory.lean ====
section
/-!
SUPPORT. The laws of sparse tables and byte memories: what reads after writes give, and that every operation keeps the
canonical form.
-/

namespace Sys2Proof.Machine

open Sys2Proof

variable {α : Type} [DecidableEq α]

/-! ## Reads after writes -/

/-- A read of the key just set gives what was set. -/
@[simp] theorem sget_sset_same (d : α) (m : Sparse α) (k : Nat) (v : α) : sget d (sset d m k v) k = v := by
  induction m with
  | nil => unfold sset; split <;> simp_all [sget]
  | cons e r ih =>
    obtain ⟨j, w⟩ := e
    unfold sset
    split
    · next hv =>
      split
      · exact ih
      · next hk => simp [sget, Ne.symm hk, ih]
    · split
      · simp [sget]
      · split
        · simp [sget]
        · next _ hk => simp [sget, Ne.symm hk, ih]

/-- A write leaves every other key alone. -/
theorem sget_sset_ne (d : α) (m : Sparse α) {k j : Nat} (h : j ≠ k) (v : α) : sget d (sset d m k v) j = sget d m j := by
  induction m with
  | nil => unfold sset; split <;> simp [sget, Ne.symm h]
  | cons e r ih =>
    obtain ⟨i, w⟩ := e
    unfold sset
    split
    · split
      · next hk => subst hk; simp [sget, Ne.symm h, ih]
      · simp only [sget, ih]
    · split
      · simp [sget, Ne.symm h]
      · split
        · next hk => subst hk; simp [sget, Ne.symm h]
        · simp only [sget, ih]

/-- A table of one default read with another key's default is not asked for: both laws at once. -/
theorem sget_sset (d : α) (m : Sparse α) (k j : Nat) (v : α) :
    sget d (sset d m k v) j = if j = k then v else sget d m j := by
  split
  · next h => subst h; exact sget_sset_same d m j v
  · next h => exact sget_sset_ne d m h v

/-- A byte just written is read back; every other byte is as before. -/
theorem rd8_wr8 (m : Mem) (a b : Nat) (v : Byte) : rd8 (wr8 m a v) b = if b = a then v else rd8 m b :=
  sget_sset 0 m a b v

/-- A run of entries is read back; every other entry is as before. -/
theorem sget_ssets (d : α) (m : Sparse α) (k : Nat) (vs : List α) (j : Nat) :
    sget d (ssets d m k vs) j = if h : k ≤ j ∧ j < k + vs.length then vs[j - k]'(by omega) else sget d m j := by
  induction vs generalizing m k with
  | nil => simp [ssets] <;> omega
  | cons v vs ih =>
    rw [ssets, ih]
    by_cases h1 : k + 1 ≤ j ∧ j < k + 1 + vs.length
    · have h2 : k ≤ j ∧ j < k + (v :: vs).length := by simp; omega
      rw [dif_pos h1, dif_pos h2]
      have : j - k = j - (k + 1) + 1 := by omega
      simp [this]
    · rw [dif_neg h1, sget_sset]
      by_cases h3 : j = k
      · subst h3; simp
      · have h2 : ¬(k ≤ j ∧ j < k + (v :: vs).length) := by simp at *; omega
        rw [dif_neg h2, if_neg h3]

/-- A run of bytes written is read back byte by byte; every other byte is as before. -/
theorem rd8_wrBytes (m : Mem) (a : Nat) (bs : List Byte) (b : Nat) :
    rd8 (wrBytes m a bs) b = if h : a ≤ b ∧ b < a + bs.length then bs[b - a]'(by omega) else rd8 m b :=
  sget_ssets 0 m a bs b

/-- How many bytes a read gives. -/
@[simp] theorem length_rdBytes (m : Mem) (a n : Nat) : (rdBytes m a n).length = n := by
  induction n generalizing a with
  | zero => rfl
  | succ n ih => simp [rdBytes, ih]

/-- Byte `i` of a read. -/
theorem getElem_rdBytes (m : Mem) (a n i : Nat) (h : i < (rdBytes m a n).length) : (rdBytes m a n)[i] = rd8 m (a + i) := by
  induction n generalizing a i with
  | zero => simp at h
  | succ n ih =>
    cases i with
    | zero => simp [rdBytes]
    | succ i => simp only [rdBytes, List.getElem_cons_succ]; rw [ih]; congr 1; omega

/-- Two memories that agree on a run read the same there. -/
theorem rdBytes_congr {m m' : Mem} {a n : Nat} (h : ∀ b, a ≤ b → b < a + n → rd8 m b = rd8 m' b) :
    rdBytes m a n = rdBytes m' a n := by
  apply List.ext_getElem
  · simp
  · intro i h1 h2
    rw [getElem_rdBytes, getElem_rdBytes]
    simp at h1
    exact h _ (by omega) (by omega)

/-- A run of bytes written reads back whole. -/
@[simp] theorem rdBytes_wrBytes (m : Mem) (a : Nat) (bs : List Byte) : rdBytes (wrBytes m a bs) a bs.length = bs := by
  apply List.ext_getElem
  · simp
  · intro i h1 h2
    rw [getElem_rdBytes, rd8_wrBytes, dif_pos (by omega)]
    congr 1; omega

/-! ## The canonical form -/

/-- A table above a bound is one above every lower bound. -/
theorem swfFrom_mono {d : α} {lo lo' : Nat} {m : Sparse α} (h : swfFrom d (some lo) m = true) (hl : lo' ≤ lo) :
    swfFrom d (some lo') m = true := by
  cases m with
  | nil => rfl
  | cons e r => simp [swfFrom] at *; exact ⟨⟨by omega, h.1.2⟩, h.2⟩

/-- A table above a bound is a table. -/
theorem swf_of_from {d : α} {lo : Nat} {m : Sparse α} (h : swfFrom d (some lo) m = true) : swfFrom d none m = true := by
  cases m with
  | nil => rfl
  | cons e r => simp [swfFrom] at *; exact ⟨h.1.2, h.2⟩

/-- Setting an entry above the bound keeps the canonical form. -/
theorem swfFrom_sset {d : α} {lo : Option Nat} {m : Sparse α} {k : Nat} {v : α}
    (h : swfFrom d lo m = true) (hk : ∀ l, lo = some l → l < k) : swfFrom d lo (sset d m k v) = true := by
  induction m generalizing lo with
  | nil =>
    unfold sset
    split
    · rfl
    · cases lo <;> simp_all [swfFrom]
  | cons e r ih =>
    obtain ⟨j, w⟩ := e
    have hj : ∀ l, lo = some l → l < j := by
      intro l hl; subst hl; simp only [swfFrom, Bool.and_eq_true, decide_eq_true_eq] at h; exact h.1.1
    have hw : w ≠ d := by simp only [swfFrom, Bool.and_eq_true, decide_eq_true_eq] at h; exact h.1.2
    have hr : swfFrom d (some j) r = true := by simp only [swfFrom, Bool.and_eq_true] at h; exact h.2
    unfold sset
    split
    · split
      · next hkj =>
        subst hkj
        refine ih ?_ hk
        cases lo with
        | none => exact swf_of_from hr
        | some l => exact swfFrom_mono hr (by have := hj l rfl; omega)
      · next hv hkj =>
        simp only [swfFrom, Bool.and_eq_true, decide_eq_true_eq]
        refine ⟨⟨by cases lo with | none => rfl | some l => simpa using hj l rfl, hw⟩, ?_⟩
        by_cases hjk : j < k
        · exact ih hr (by simp [hjk])
        · have : sset d r k v = r := by
            clear ih h hj hk
            have hlt : k < j := by omega
            clear hkj hjk hw
            induction r generalizing j with
            | nil => simp [sset, hv]
            | cons e r ih =>
              simp only [swfFrom, Bool.and_eq_true, decide_eq_true_eq] at hr
              have h1 := hr.1.1
              unfold sset
              rw [if_pos hv, if_neg (by omega), ih e.1 hr.2 (by omega)]
          rw [this]; exact hr
    · next hv =>
      split
      · next hkj =>
        simp only [swfFrom, Bool.and_eq_true, decide_eq_true_eq]
        refine ⟨⟨?_, hv⟩, ⟨hkj, hw⟩, hr⟩
        cases lo with
        | none => rfl
        | some l => simpa using hk l rfl
      · split
        · next hkj =>
          subst hkj
          simp only [swfFrom, Bool.and_eq_true, decide_eq_true_eq]
          exact ⟨⟨by cases lo with | none => rfl | some l => simpa using hj l rfl, hv⟩, hr⟩
        · simp only [swfFrom, Bool.and_eq_true, decide_eq_true_eq]
          exact ⟨⟨by cases lo with | none => rfl | some l => simpa using hj l rfl, hw⟩, ih hr (by simp; omega)⟩

/-- Setting an entry keeps the canonical form. -/
theorem swf_sset {d : α} {m : Sparse α} (k : Nat) (v : α) (h : swf d m = true) : swf d (sset d m k v) = true :=
  swfFrom_sset h (by simp)

/-- Setting a run of entries keeps the canonical form. -/
theorem swf_ssets {d : α} {m : Sparse α} (k : Nat) (vs : List α) (h : swf d m = true) : swf d (ssets d m k vs) = true := by
  induction vs generalizing m k with
  | nil => exact h
  | cons v vs ih => exact ih _ (swf_sset _ _ h)

/-- Dropping entries keeps the canonical form. -/
theorem swfFrom_filter {d : α} {lo : Option Nat} {m : Sparse α} (p : Nat × α → Bool) (h : swfFrom d lo m = true) :
    swfFrom d lo (m.filter p) = true := by
  induction m generalizing lo with
  | nil => rfl
  | cons e r ih =>
    simp only [swfFrom, Bool.and_eq_true, decide_eq_true_eq] at h
    rw [List.filter_cons]
    split
    · simp only [swfFrom, Bool.and_eq_true, decide_eq_true_eq]
      exact ⟨h.1, ih h.2⟩
    · refine ih ?_
      cases lo with
      | none => exact swf_of_from h.2
      | some l => exact swfFrom_mono h.2 (by have := h.1.1; simp at this; omega)

/-- Clearing a run of keys keeps the canonical form. -/
theorem swf_sclear {d : α} {m : Sparse α} (k n : Nat) (h : swf d m = true) : swf d (sclear m k n) = true :=
  swfFrom_filter _ h

/-- A byte write keeps a memory's canonical form. -/
theorem wr8_wf {m : Mem} (a : Nat) (b : Byte) (h : Mem.wf m) : Mem.wf (wr8 m a b) := swf_sset a b h

/-- A run of byte writes keeps a memory's canonical form. -/
theorem wrBytes_wf {m : Mem} (a : Nat) (bs : List Byte) (h : Mem.wf m) : Mem.wf (wrBytes m a bs) := swf_ssets a bs h

/-- A masked run of byte writes keeps a memory's canonical form. -/
theorem wrSome_wf {m : Mem} (a : Nat) (bs : List (Option Byte)) (h : Mem.wf m) : Mem.wf (wrSome m a bs) := by
  induction bs generalizing m a with
  | nil => exact h
  | cons b bs ih =>
    cases b with
    | none => exact ih _ h
    | some b => exact ih _ (wr8_wf _ _ h)

/-- A masked run writes the bytes it gives; every other byte is as before. -/
theorem rd8_wrSome (m : Mem) (a : Nat) (bs : List (Option Byte)) (b : Nat) :
    rd8 (wrSome m a bs) b = if a ≤ b then ((bs.getD (b - a) none).getD (rd8 m b)) else rd8 m b := by
  induction bs generalizing m a with
  | nil => simp [wrSome]
  | cons o bs ih =>
    cases o with
    | none =>
      rw [wrSome, ih]
      by_cases h : a + 1 ≤ b
      · have : b - a = b - (a + 1) + 1 := by omega
        rw [if_pos h, if_pos (by omega), this, List.getD_cons_succ]
      · rw [if_neg h]
        by_cases h2 : a ≤ b
        · have : b - a = 0 := by omega
          simp [this]
        · simp [h2]
    | some v =>
      rw [wrSome, ih]
      by_cases h : a + 1 ≤ b
      · have : b - a = b - (a + 1) + 1 := by omega
        rw [if_pos h, if_pos (by omega), this, List.getD_cons_succ, rd8_wr8, if_neg (by omega)]
      · rw [if_neg h, rd8_wr8]
        by_cases h2 : a ≤ b
        · simp [show b = a by omega]
        · rw [if_neg h2, if_neg (by omega)]

/-! ## Tables whose unlisted keys read as their own reset values -/

/-- Such a table above a bound is one above every lower bound. -/
theorem kwfFrom_mono {d : Nat → α} {lo lo' : Nat} {m : Sparse α} (h : kwfFrom d (some lo) m = true) (hl : lo' ≤ lo) :
    kwfFrom d (some lo') m = true := by
  cases m with
  | nil => rfl
  | cons e r => simp [kwfFrom] at *; exact ⟨⟨by omega, h.1.2⟩, h.2⟩

/-- Such a table above a bound is such a table. -/
theorem kwf_of_from {d : Nat → α} {lo : Nat} {m : Sparse α} (h : kwfFrom d (some lo) m = true) : kwfFrom d none m = true := by
  cases m with
  | nil => rfl
  | cons e r => simp [kwfFrom] at *; exact ⟨h.1.2, h.2⟩

/-- Setting a key that stands below every entry to its reset value changes nothing. -/
theorem sset_below {d : Nat → α} {r : Sparse α} {j k : Nat} (hr : kwfFrom d (some j) r = true) (hk : k ≤ j) :
    sset (d k) r k (d k) = r := by
  induction r generalizing j with
  | nil => simp [sset]
  | cons e r ih =>
    simp only [kwfFrom, Bool.and_eq_true, decide_eq_true_eq] at hr
    have h1 := hr.1.1
    unfold sset
    rw [if_pos rfl, if_neg (by omega), ih hr.2 (by omega)]

/-- Setting a key above the bound keeps the canonical form. -/
theorem kwfFrom_sset {d : Nat → α} {lo : Option Nat} {m : Sparse α} {k : Nat} {v : α}
    (h : kwfFrom d lo m = true) (hk : ∀ l, lo = some l → l < k) : kwfFrom d lo (sset (d k) m k v) = true := by
  induction m generalizing lo with
  | nil =>
    unfold sset
    split
    · rfl
    · cases lo <;> simp_all [kwfFrom]
  | cons e r ih =>
    obtain ⟨j, w⟩ := e
    have hj : ∀ l, lo = some l → l < j := by
      intro l hl; subst hl; simp only [kwfFrom, Bool.and_eq_true, decide_eq_true_eq] at h; exact h.1.1
    have hw : w ≠ d j := by simp only [kwfFrom, Bool.and_eq_true, decide_eq_true_eq] at h; exact h.1.2
    have hr : kwfFrom d (some j) r = true := by simp only [kwfFrom, Bool.and_eq_true] at h; exact h.2
    unfold sset
    split
    · next hv =>
      split
      · next hkj =>
        subst hkj
        refine ih ?_ hk
        cases lo with
        | none => exact kwf_of_from hr
        | some l => exact kwfFrom_mono hr (by have := hj l rfl; omega)
      · next hkj =>
        simp only [kwfFrom, Bool.and_eq_true, decide_eq_true_eq]
        refine ⟨⟨by cases lo with | none => rfl | some l => simpa using hj l rfl, hw⟩, ?_⟩
        by_cases hjk : j < k
        · exact ih hr (by simp [hjk])
        · subst hv; rw [sset_below hr (by omega)]; exact hr
    · next hv =>
      split
      · next hkj =>
        simp only [kwfFrom, Bool.and_eq_true, decide_eq_true_eq]
        refine ⟨⟨?_, hv⟩, ⟨hkj, hw⟩, hr⟩
        cases lo with
        | none => rfl
        | some l => simpa using hk l rfl
      · split
        · next hkj =>
          subst hkj
          simp only [kwfFrom, Bool.and_eq_true, decide_eq_true_eq]
          exact ⟨⟨by cases lo with | none => rfl | some l => simpa using hj l rfl, hv⟩, hr⟩
        · simp only [kwfFrom, Bool.and_eq_true, decide_eq_true_eq]
          exact ⟨⟨by cases lo with | none => rfl | some l => simpa using hj l rfl, hw⟩, ih hr (by simp; omega)⟩

/-- Setting an entry of a register table keeps its canonical form. -/
theorem kwf_sset {d : Nat → α} {m : Sparse α} (k : Nat) (v : α) (h : kwfFrom d none m = true) :
    kwfFrom d none (sset (d k) m k v) = true := kwfFrom_sset h (by simp)

/-! ## Images -/

/-- Setting a key above every entry appends it. -/
theorem sset_append {d : α} {m : Sparse α} {k : Nat} {v : α} (h : ∀ e ∈ m, e.1 < k) :
    sset d m k v = m ++ (if v = d then [] else [(k, v)]) := by
  induction m with
  | nil => simp [sset]
  | cons e r ih =>
    have he : e.1 < k := h e (by simp)
    unfold sset
    split
    · next hv => rw [if_neg (by omega), ih (fun x hx => h x (by simp [hx]))]; simp [hv]
    · next hv => rw [if_neg (by omega), if_neg (by omega), ih (fun x hx => h x (by simp [hx]))]; simp [hv]

/-- In a canonical table above a bound, every key is above it. -/
theorem swfFrom_lt {lo : Nat} {m : Mem} (h : swfFrom (0 : Byte) (some lo) m = true) : ∀ y ∈ m, lo < y.1 := by
  induction m generalizing lo with
  | nil => simp
  | cons z m ih =>
    intro y hy
    simp only [swfFrom, Bool.and_eq_true, decide_eq_true_eq] at h
    rcases List.mem_cons.mp hy with h' | h'
    · subst h'; exact h.1.1
    · have := ih h.2 y h'; have := h.1.1; omega

/-- A byte no entry names reads 0. -/
theorem rd8_absent {m : Mem} {a : Nat} (h : ∀ x ∈ m, x.1 ≠ a) : rd8 m a = 0 := by
  induction m with
  | nil => rfl
  | cons z m ih =>
    simp only [rd8, sget, if_neg (h z (by simp))]
    exact ih (fun x hx => h x (by simp [hx]))

/-- A canonical memory read from `a` on and written behind its own entries below `a` gives itself. -/
theorem wrBytes_rdBytes (pre : Mem) : ∀ (n a : Nat) (post : Mem), (∀ e ∈ pre, e.1 < a) → swfFrom 0 none post = true →
    (∀ e ∈ post, a ≤ e.1 ∧ e.1 < a + n) → wrBytes pre a (rdBytes (pre ++ post) a n) = pre ++ post := by
  intro n
  induction n generalizing pre with
  | zero =>
    intro a post _ _ hb
    cases post with
    | nil => simp [rdBytes, wrBytes, ssets]
    | cons e r => have := hb e (by simp); omega
  | succ n ih =>
    intro a post hpre hw hb
    have hpost : ∀ e ∈ post, a ≤ e.1 := fun e he => (hb e he).1
    have hread : rd8 (pre ++ post) a = rd8 post a := by
      clear ih hb hw hpost
      induction pre with
      | nil => rfl
      | cons e r ih2 =>
        have : e.1 ≠ a := by have := hpre e (by simp); omega
        simp only [rd8, List.cons_append, sget, if_neg this]
        exact ih2 (fun x hx => hpre x (by simp [hx]))
    rw [rdBytes, wrBytes, ssets, sset_append hpre]
    cases post with
    | nil =>
      have h0 : rd8 (pre ++ []) a = 0 := by rw [hread]; rfl
      rw [h0, if_pos rfl, List.append_nil]
      have := ih pre (a + 1) [] (fun e he => by have := hpre e he; omega) rfl (by simp)
      simpa [wrBytes] using this
    | cons e r =>
      by_cases hea : e.1 = a
      · have hv : rd8 (pre ++ e :: r) a = e.2 := by rw [hread]; simp [rd8, sget, hea]
        have hne : e.2 ≠ 0 := by simp only [swfFrom, Bool.and_eq_true, decide_eq_true_eq] at hw; exact hw.1.2
        have hr : swfFrom (0 : Byte) (some e.1) r = true := by simp only [swfFrom, Bool.and_eq_true] at hw; exact hw.2
        rw [hv, if_neg hne]
        have he : (a, e.2) = e := by rw [← hea]
        rw [he]
        have hgt : ∀ x ∈ r, a + 1 ≤ x.1 := by
          intro x hx
          have := swfFrom_lt hr x hx; omega
        have := ih (pre ++ [e]) (a + 1) r (by
            intro x hx; rcases List.mem_append.mp hx with h | h
            · have := hpre x h; omega
            · simp at h; subst h; omega) (swf_of_from hr)
          (fun x hx => ⟨hgt x hx, by have := (hb x (by simp [hx])).2; omega⟩)
        simpa [wrBytes] using this
      · have h0 : rd8 (pre ++ e :: r) a = 0 := by
          rw [hread]
          have hge : ∀ x ∈ e :: r, x.1 ≠ a := by
            intro x hx
            have hlt : a < e.1 := by have := hpost e (by simp); omega
            rcases List.mem_cons.mp hx with h | h
            · subst h; omega
            · have hr : swfFrom (0 : Byte) (some e.1) r = true := by simp only [swfFrom, Bool.and_eq_true] at hw; exact hw.2
              have := swfFrom_lt hr x h; omega
          exact rd8_absent hge
        rw [h0, if_pos rfl, List.append_nil]
        have := ih pre (a + 1) (e :: r) (fun x hx => by have := hpre x hx; omega) hw
          (fun x hx => ⟨by
            have h1 := hpost x hx
            rcases List.mem_cons.mp hx with h | h
            · subst h; omega
            · have hr : swfFrom (0 : Byte) (some e.1) r = true := by simp only [swfFrom, Bool.and_eq_true] at hw; exact hw.2
              have hee : a < e.1 := by have := hpost e (by simp); omega
              have := swfFrom_lt hr x h; omega, by have := (hb x hx).2; omega⟩)
        simpa [wrBytes] using this

end Sys2Proof.Machine
end

