-- ==== Sys2Proof/Laws/State.lean ====
section
/-!
SUPPORT. What each update of a record leaves alone, field by field, and what a read gives after an update.
-/

namespace Sys2Proof.Machine

open Sys2Proof

/-! ## Updates of the device -/

@[simp] theorem State.setChan_regs (s : State) (c : ChId) (x : Channel) : (s.setChan c x).regs = s.regs := rfl
@[simp] theorem State.setChan_latch (s : State) (c : ChId) (x : Channel) : (s.setChan c x).latch = s.latch := rfl
@[simp] theorem State.setChan_stage (s : State) (c : ChId) (x : Channel) : (s.setChan c x).stage = s.stage := rfl
@[simp] theorem State.setChan_answer (s : State) (c : ChId) (x : Channel) : (s.setChan c x).answer = s.answer := rfl
@[simp] theorem State.setChan_bar4W (s : State) (c : ChId) (x : Channel) : (s.setChan c x).bar4W = s.bar4W := rfl
@[simp] theorem State.setChan_time (s : State) (c : ChId) (x : Channel) : (s.setChan c x).time = s.time := rfl
@[simp] theorem State.setChan_tc (s : State) (c : ChId) (x : Channel) : (s.setChan c x).tc = s.tc := rfl
@[simp] theorem State.setChan_tcap (s : State) (c : ChId) (x : Channel) : (s.setChan c x).tcap = s.tcap := rfl
@[simp] theorem State.setChan_trg (s : State) (c : ChId) (x : Channel) : (s.setChan c x).trg = s.trg := rfl
@[simp] theorem State.setChan_ptp (s : State) (c : ChId) (x : Channel) : (s.setChan c x).ptp = s.ptp := rfl
@[simp] theorem State.setChan_fc (s : State) (c : ChId) (x : Channel) : (s.setChan c x).fc = s.fc := rfl
@[simp] theorem State.setChan_hostMem (s : State) (c : ChId) (x : Channel) : (s.setChan c x).hostMem = s.hostMem := rfl
@[simp] theorem State.setChan_msix (s : State) (c : ChId) (x : Channel) : (s.setChan c x).msix = s.msix := rfl
@[simp] theorem State.setChan_pba (s : State) (c : ChId) (x : Channel) : (s.setChan c x).pba = s.pba := rfl
@[simp] theorem State.setChan_latched (s : State) (c : ChId) (x : Channel) : (s.setChan c x).latched = s.latched := rfl
@[simp] theorem State.setChan_safeDue (s : State) (c : ChId) (x : Channel) : (s.setChan c x).safeDue = s.safeDue := rfl
@[simp] theorem State.setChan_devDue (s : State) (c : ChId) (x : Channel) : (s.setChan c x).devDue = s.devDue := rfl
@[simp] theorem State.setChan_sqLevel (s : State) (c : ChId) (x : Channel) : (s.setChan c x).sqLevel = s.sqLevel := rfl
@[simp] theorem State.setChan_sqAt (s : State) (c : ChId) (x : Channel) : (s.setChan c x).sqAt = s.sqAt := rfl
@[simp] theorem State.setChan_linkFc (s : State) (c : ChId) (x : Channel) : (s.setChan c x).linkFc = s.linkFc := rfl
@[simp] theorem State.setChan_barred (s : State) (c : ChId) (x : Channel) : (s.setChan c x).barred = s.barred := rfl
@[simp] theorem State.setChan_pwr (s : State) (c : ChId) (x : Channel) : (s.setChan c x).pwr = s.pwr := rfl
@[simp] theorem State.setChan_sup (s : State) (c : ChId) (x : Channel) : (s.setChan c x).sup = s.sup := rfl
@[simp] theorem State.setChan_free (s : State) (c : ChId) (x : Channel) : (s.setChan c x).free = s.free := rfl
@[simp] theorem State.setChan_pending (s : State) (c : ChId) (x : Channel) : (s.setChan c x).pending = s.pending := rfl

@[simp] theorem State.modChan_regs (s : State) (c : ChId) (f : Channel → Channel) : (s.modChan c f).regs = s.regs := rfl
@[simp] theorem State.modChan_latch (s : State) (c : ChId) (f : Channel → Channel) : (s.modChan c f).latch = s.latch := rfl
@[simp] theorem State.modChan_stage (s : State) (c : ChId) (f : Channel → Channel) : (s.modChan c f).stage = s.stage := rfl
@[simp] theorem State.modChan_answer (s : State) (c : ChId) (f : Channel → Channel) : (s.modChan c f).answer = s.answer := rfl
@[simp] theorem State.modChan_bar4W (s : State) (c : ChId) (f : Channel → Channel) : (s.modChan c f).bar4W = s.bar4W := rfl
@[simp] theorem State.modChan_time (s : State) (c : ChId) (f : Channel → Channel) : (s.modChan c f).time = s.time := rfl
@[simp] theorem State.modChan_tc (s : State) (c : ChId) (f : Channel → Channel) : (s.modChan c f).tc = s.tc := rfl
@[simp] theorem State.modChan_tcap (s : State) (c : ChId) (f : Channel → Channel) : (s.modChan c f).tcap = s.tcap := rfl
@[simp] theorem State.modChan_trg (s : State) (c : ChId) (f : Channel → Channel) : (s.modChan c f).trg = s.trg := rfl
@[simp] theorem State.modChan_ptp (s : State) (c : ChId) (f : Channel → Channel) : (s.modChan c f).ptp = s.ptp := rfl
@[simp] theorem State.modChan_fc (s : State) (c : ChId) (f : Channel → Channel) : (s.modChan c f).fc = s.fc := rfl
@[simp] theorem State.modChan_hostMem (s : State) (c : ChId) (f : Channel → Channel) : (s.modChan c f).hostMem = s.hostMem := rfl
@[simp] theorem State.modChan_msix (s : State) (c : ChId) (f : Channel → Channel) : (s.modChan c f).msix = s.msix := rfl
@[simp] theorem State.modChan_pba (s : State) (c : ChId) (f : Channel → Channel) : (s.modChan c f).pba = s.pba := rfl
@[simp] theorem State.modChan_latched (s : State) (c : ChId) (f : Channel → Channel) : (s.modChan c f).latched = s.latched := rfl
@[simp] theorem State.modChan_safeDue (s : State) (c : ChId) (f : Channel → Channel) : (s.modChan c f).safeDue = s.safeDue := rfl
@[simp] theorem State.modChan_devDue (s : State) (c : ChId) (f : Channel → Channel) : (s.modChan c f).devDue = s.devDue := rfl
@[simp] theorem State.modChan_sqLevel (s : State) (c : ChId) (f : Channel → Channel) : (s.modChan c f).sqLevel = s.sqLevel := rfl
@[simp] theorem State.modChan_sqAt (s : State) (c : ChId) (f : Channel → Channel) : (s.modChan c f).sqAt = s.sqAt := rfl
@[simp] theorem State.modChan_linkFc (s : State) (c : ChId) (f : Channel → Channel) : (s.modChan c f).linkFc = s.linkFc := rfl
@[simp] theorem State.modChan_barred (s : State) (c : ChId) (f : Channel → Channel) : (s.modChan c f).barred = s.barred := rfl
@[simp] theorem State.modChan_pwr (s : State) (c : ChId) (f : Channel → Channel) : (s.modChan c f).pwr = s.pwr := rfl
@[simp] theorem State.modChan_sup (s : State) (c : ChId) (f : Channel → Channel) : (s.modChan c f).sup = s.sup := rfl
@[simp] theorem State.modChan_free (s : State) (c : ChId) (f : Channel → Channel) : (s.modChan c f).free = s.free := rfl
@[simp] theorem State.modChan_pending (s : State) (c : ChId) (f : Channel → Channel) : (s.modChan c f).pending = s.pending := rfl

@[simp] theorem State.setReg_chans (s : State) (o : Nat) (v : Word) : (s.setReg o v).chans = s.chans := rfl
@[simp] theorem State.setReg_latch (s : State) (o : Nat) (v : Word) : (s.setReg o v).latch = s.latch := rfl
@[simp] theorem State.setReg_stage (s : State) (o : Nat) (v : Word) : (s.setReg o v).stage = s.stage := rfl
@[simp] theorem State.setReg_answer (s : State) (o : Nat) (v : Word) : (s.setReg o v).answer = s.answer := rfl
@[simp] theorem State.setReg_bar4W (s : State) (o : Nat) (v : Word) : (s.setReg o v).bar4W = s.bar4W := rfl
@[simp] theorem State.setReg_time (s : State) (o : Nat) (v : Word) : (s.setReg o v).time = s.time := rfl
@[simp] theorem State.setReg_tc (s : State) (o : Nat) (v : Word) : (s.setReg o v).tc = s.tc := rfl
@[simp] theorem State.setReg_tcap (s : State) (o : Nat) (v : Word) : (s.setReg o v).tcap = s.tcap := rfl
@[simp] theorem State.setReg_trg (s : State) (o : Nat) (v : Word) : (s.setReg o v).trg = s.trg := rfl
@[simp] theorem State.setReg_ptp (s : State) (o : Nat) (v : Word) : (s.setReg o v).ptp = s.ptp := rfl
@[simp] theorem State.setReg_fc (s : State) (o : Nat) (v : Word) : (s.setReg o v).fc = s.fc := rfl
@[simp] theorem State.setReg_hostMem (s : State) (o : Nat) (v : Word) : (s.setReg o v).hostMem = s.hostMem := rfl
@[simp] theorem State.setReg_msix (s : State) (o : Nat) (v : Word) : (s.setReg o v).msix = s.msix := rfl
@[simp] theorem State.setReg_pba (s : State) (o : Nat) (v : Word) : (s.setReg o v).pba = s.pba := rfl
@[simp] theorem State.setReg_latched (s : State) (o : Nat) (v : Word) : (s.setReg o v).latched = s.latched := rfl
@[simp] theorem State.setReg_safeDue (s : State) (o : Nat) (v : Word) : (s.setReg o v).safeDue = s.safeDue := rfl
@[simp] theorem State.setReg_devDue (s : State) (o : Nat) (v : Word) : (s.setReg o v).devDue = s.devDue := rfl
@[simp] theorem State.setReg_sqLevel (s : State) (o : Nat) (v : Word) : (s.setReg o v).sqLevel = s.sqLevel := rfl
@[simp] theorem State.setReg_sqAt (s : State) (o : Nat) (v : Word) : (s.setReg o v).sqAt = s.sqAt := rfl
@[simp] theorem State.setReg_linkFc (s : State) (o : Nat) (v : Word) : (s.setReg o v).linkFc = s.linkFc := rfl
@[simp] theorem State.setReg_barred (s : State) (o : Nat) (v : Word) : (s.setReg o v).barred = s.barred := rfl
@[simp] theorem State.setReg_pwr (s : State) (o : Nat) (v : Word) : (s.setReg o v).pwr = s.pwr := rfl
@[simp] theorem State.setReg_sup (s : State) (o : Nat) (v : Word) : (s.setReg o v).sup = s.sup := rfl
@[simp] theorem State.setReg_free (s : State) (o : Nat) (v : Word) : (s.setReg o v).free = s.free := rfl
@[simp] theorem State.setReg_pending (s : State) (o : Nat) (v : Word) : (s.setReg o v).pending = s.pending := rfl

@[simp] theorem State.setReg64_chans (s : State) (o : Nat) (v : Dword) : (s.setReg64 o v).chans = s.chans := rfl
@[simp] theorem State.setReg64_latch (s : State) (o : Nat) (v : Dword) : (s.setReg64 o v).latch = s.latch := rfl
@[simp] theorem State.setReg64_stage (s : State) (o : Nat) (v : Dword) : (s.setReg64 o v).stage = s.stage := rfl
@[simp] theorem State.setReg64_answer (s : State) (o : Nat) (v : Dword) : (s.setReg64 o v).answer = s.answer := rfl
@[simp] theorem State.setReg64_bar4W (s : State) (o : Nat) (v : Dword) : (s.setReg64 o v).bar4W = s.bar4W := rfl
@[simp] theorem State.setReg64_time (s : State) (o : Nat) (v : Dword) : (s.setReg64 o v).time = s.time := rfl
@[simp] theorem State.setReg64_tc (s : State) (o : Nat) (v : Dword) : (s.setReg64 o v).tc = s.tc := rfl
@[simp] theorem State.setReg64_tcap (s : State) (o : Nat) (v : Dword) : (s.setReg64 o v).tcap = s.tcap := rfl
@[simp] theorem State.setReg64_trg (s : State) (o : Nat) (v : Dword) : (s.setReg64 o v).trg = s.trg := rfl
@[simp] theorem State.setReg64_ptp (s : State) (o : Nat) (v : Dword) : (s.setReg64 o v).ptp = s.ptp := rfl
@[simp] theorem State.setReg64_fc (s : State) (o : Nat) (v : Dword) : (s.setReg64 o v).fc = s.fc := rfl
@[simp] theorem State.setReg64_hostMem (s : State) (o : Nat) (v : Dword) : (s.setReg64 o v).hostMem = s.hostMem := rfl
@[simp] theorem State.setReg64_msix (s : State) (o : Nat) (v : Dword) : (s.setReg64 o v).msix = s.msix := rfl
@[simp] theorem State.setReg64_pba (s : State) (o : Nat) (v : Dword) : (s.setReg64 o v).pba = s.pba := rfl
@[simp] theorem State.setReg64_latched (s : State) (o : Nat) (v : Dword) : (s.setReg64 o v).latched = s.latched := rfl
@[simp] theorem State.setReg64_safeDue (s : State) (o : Nat) (v : Dword) : (s.setReg64 o v).safeDue = s.safeDue := rfl
@[simp] theorem State.setReg64_devDue (s : State) (o : Nat) (v : Dword) : (s.setReg64 o v).devDue = s.devDue := rfl
@[simp] theorem State.setReg64_sqLevel (s : State) (o : Nat) (v : Dword) : (s.setReg64 o v).sqLevel = s.sqLevel := rfl
@[simp] theorem State.setReg64_sqAt (s : State) (o : Nat) (v : Dword) : (s.setReg64 o v).sqAt = s.sqAt := rfl
@[simp] theorem State.setReg64_linkFc (s : State) (o : Nat) (v : Dword) : (s.setReg64 o v).linkFc = s.linkFc := rfl
@[simp] theorem State.setReg64_barred (s : State) (o : Nat) (v : Dword) : (s.setReg64 o v).barred = s.barred := rfl
@[simp] theorem State.setReg64_pwr (s : State) (o : Nat) (v : Dword) : (s.setReg64 o v).pwr = s.pwr := rfl
@[simp] theorem State.setReg64_sup (s : State) (o : Nat) (v : Dword) : (s.setReg64 o v).sup = s.sup := rfl
@[simp] theorem State.setReg64_free (s : State) (o : Nat) (v : Dword) : (s.setReg64 o v).free = s.free := rfl
@[simp] theorem State.setReg64_pending (s : State) (o : Nat) (v : Dword) : (s.setReg64 o v).pending = s.pending := rfl

@[simp] theorem State.orReg_chans (s : State) (o : Nat) (v : Word) : (s.orReg o v).chans = s.chans := rfl
@[simp] theorem State.orReg_latch (s : State) (o : Nat) (v : Word) : (s.orReg o v).latch = s.latch := rfl
@[simp] theorem State.orReg_stage (s : State) (o : Nat) (v : Word) : (s.orReg o v).stage = s.stage := rfl
@[simp] theorem State.orReg_answer (s : State) (o : Nat) (v : Word) : (s.orReg o v).answer = s.answer := rfl
@[simp] theorem State.orReg_bar4W (s : State) (o : Nat) (v : Word) : (s.orReg o v).bar4W = s.bar4W := rfl
@[simp] theorem State.orReg_time (s : State) (o : Nat) (v : Word) : (s.orReg o v).time = s.time := rfl
@[simp] theorem State.orReg_tc (s : State) (o : Nat) (v : Word) : (s.orReg o v).tc = s.tc := rfl
@[simp] theorem State.orReg_tcap (s : State) (o : Nat) (v : Word) : (s.orReg o v).tcap = s.tcap := rfl
@[simp] theorem State.orReg_trg (s : State) (o : Nat) (v : Word) : (s.orReg o v).trg = s.trg := rfl
@[simp] theorem State.orReg_ptp (s : State) (o : Nat) (v : Word) : (s.orReg o v).ptp = s.ptp := rfl
@[simp] theorem State.orReg_fc (s : State) (o : Nat) (v : Word) : (s.orReg o v).fc = s.fc := rfl
@[simp] theorem State.orReg_hostMem (s : State) (o : Nat) (v : Word) : (s.orReg o v).hostMem = s.hostMem := rfl
@[simp] theorem State.orReg_msix (s : State) (o : Nat) (v : Word) : (s.orReg o v).msix = s.msix := rfl
@[simp] theorem State.orReg_pba (s : State) (o : Nat) (v : Word) : (s.orReg o v).pba = s.pba := rfl
@[simp] theorem State.orReg_latched (s : State) (o : Nat) (v : Word) : (s.orReg o v).latched = s.latched := rfl
@[simp] theorem State.orReg_safeDue (s : State) (o : Nat) (v : Word) : (s.orReg o v).safeDue = s.safeDue := rfl
@[simp] theorem State.orReg_devDue (s : State) (o : Nat) (v : Word) : (s.orReg o v).devDue = s.devDue := rfl
@[simp] theorem State.orReg_sqLevel (s : State) (o : Nat) (v : Word) : (s.orReg o v).sqLevel = s.sqLevel := rfl
@[simp] theorem State.orReg_sqAt (s : State) (o : Nat) (v : Word) : (s.orReg o v).sqAt = s.sqAt := rfl
@[simp] theorem State.orReg_linkFc (s : State) (o : Nat) (v : Word) : (s.orReg o v).linkFc = s.linkFc := rfl
@[simp] theorem State.orReg_barred (s : State) (o : Nat) (v : Word) : (s.orReg o v).barred = s.barred := rfl
@[simp] theorem State.orReg_pwr (s : State) (o : Nat) (v : Word) : (s.orReg o v).pwr = s.pwr := rfl
@[simp] theorem State.orReg_sup (s : State) (o : Nat) (v : Word) : (s.orReg o v).sup = s.sup := rfl
@[simp] theorem State.orReg_free (s : State) (o : Nat) (v : Word) : (s.orReg o v).free = s.free := rfl
@[simp] theorem State.orReg_pending (s : State) (o : Nat) (v : Word) : (s.orReg o v).pending = s.pending := rfl

@[simp] theorem State.clrReg_chans (s : State) (o : Nat) (v : Word) : (s.clrReg o v).chans = s.chans := rfl
@[simp] theorem State.clrReg_latch (s : State) (o : Nat) (v : Word) : (s.clrReg o v).latch = s.latch := rfl
@[simp] theorem State.clrReg_stage (s : State) (o : Nat) (v : Word) : (s.clrReg o v).stage = s.stage := rfl
@[simp] theorem State.clrReg_answer (s : State) (o : Nat) (v : Word) : (s.clrReg o v).answer = s.answer := rfl
@[simp] theorem State.clrReg_bar4W (s : State) (o : Nat) (v : Word) : (s.clrReg o v).bar4W = s.bar4W := rfl
@[simp] theorem State.clrReg_time (s : State) (o : Nat) (v : Word) : (s.clrReg o v).time = s.time := rfl
@[simp] theorem State.clrReg_tc (s : State) (o : Nat) (v : Word) : (s.clrReg o v).tc = s.tc := rfl
@[simp] theorem State.clrReg_tcap (s : State) (o : Nat) (v : Word) : (s.clrReg o v).tcap = s.tcap := rfl
@[simp] theorem State.clrReg_trg (s : State) (o : Nat) (v : Word) : (s.clrReg o v).trg = s.trg := rfl
@[simp] theorem State.clrReg_ptp (s : State) (o : Nat) (v : Word) : (s.clrReg o v).ptp = s.ptp := rfl
@[simp] theorem State.clrReg_fc (s : State) (o : Nat) (v : Word) : (s.clrReg o v).fc = s.fc := rfl
@[simp] theorem State.clrReg_hostMem (s : State) (o : Nat) (v : Word) : (s.clrReg o v).hostMem = s.hostMem := rfl
@[simp] theorem State.clrReg_msix (s : State) (o : Nat) (v : Word) : (s.clrReg o v).msix = s.msix := rfl
@[simp] theorem State.clrReg_pba (s : State) (o : Nat) (v : Word) : (s.clrReg o v).pba = s.pba := rfl
@[simp] theorem State.clrReg_latched (s : State) (o : Nat) (v : Word) : (s.clrReg o v).latched = s.latched := rfl
@[simp] theorem State.clrReg_safeDue (s : State) (o : Nat) (v : Word) : (s.clrReg o v).safeDue = s.safeDue := rfl
@[simp] theorem State.clrReg_devDue (s : State) (o : Nat) (v : Word) : (s.clrReg o v).devDue = s.devDue := rfl
@[simp] theorem State.clrReg_sqLevel (s : State) (o : Nat) (v : Word) : (s.clrReg o v).sqLevel = s.sqLevel := rfl
@[simp] theorem State.clrReg_sqAt (s : State) (o : Nat) (v : Word) : (s.clrReg o v).sqAt = s.sqAt := rfl
@[simp] theorem State.clrReg_linkFc (s : State) (o : Nat) (v : Word) : (s.clrReg o v).linkFc = s.linkFc := rfl
@[simp] theorem State.clrReg_barred (s : State) (o : Nat) (v : Word) : (s.clrReg o v).barred = s.barred := rfl
@[simp] theorem State.clrReg_pwr (s : State) (o : Nat) (v : Word) : (s.clrReg o v).pwr = s.pwr := rfl
@[simp] theorem State.clrReg_sup (s : State) (o : Nat) (v : Word) : (s.clrReg o v).sup = s.sup := rfl
@[simp] theorem State.clrReg_free (s : State) (o : Nat) (v : Word) : (s.clrReg o v).free = s.free := rfl
@[simp] theorem State.clrReg_pending (s : State) (o : Nat) (v : Word) : (s.clrReg o v).pending = s.pending := rfl

@[simp] theorem State.inc_chans (s : State) (o n : Nat) : (s.inc o n).chans = s.chans := rfl
@[simp] theorem State.inc_latch (s : State) (o n : Nat) : (s.inc o n).latch = s.latch := rfl
@[simp] theorem State.inc_stage (s : State) (o n : Nat) : (s.inc o n).stage = s.stage := rfl
@[simp] theorem State.inc_answer (s : State) (o n : Nat) : (s.inc o n).answer = s.answer := rfl
@[simp] theorem State.inc_bar4W (s : State) (o n : Nat) : (s.inc o n).bar4W = s.bar4W := rfl
@[simp] theorem State.inc_time (s : State) (o n : Nat) : (s.inc o n).time = s.time := rfl
@[simp] theorem State.inc_tc (s : State) (o n : Nat) : (s.inc o n).tc = s.tc := rfl
@[simp] theorem State.inc_tcap (s : State) (o n : Nat) : (s.inc o n).tcap = s.tcap := rfl
@[simp] theorem State.inc_trg (s : State) (o n : Nat) : (s.inc o n).trg = s.trg := rfl
@[simp] theorem State.inc_ptp (s : State) (o n : Nat) : (s.inc o n).ptp = s.ptp := rfl
@[simp] theorem State.inc_fc (s : State) (o n : Nat) : (s.inc o n).fc = s.fc := rfl
@[simp] theorem State.inc_hostMem (s : State) (o n : Nat) : (s.inc o n).hostMem = s.hostMem := rfl
@[simp] theorem State.inc_msix (s : State) (o n : Nat) : (s.inc o n).msix = s.msix := rfl
@[simp] theorem State.inc_pba (s : State) (o n : Nat) : (s.inc o n).pba = s.pba := rfl
@[simp] theorem State.inc_latched (s : State) (o n : Nat) : (s.inc o n).latched = s.latched := rfl
@[simp] theorem State.inc_safeDue (s : State) (o n : Nat) : (s.inc o n).safeDue = s.safeDue := rfl
@[simp] theorem State.inc_devDue (s : State) (o n : Nat) : (s.inc o n).devDue = s.devDue := rfl
@[simp] theorem State.inc_sqLevel (s : State) (o n : Nat) : (s.inc o n).sqLevel = s.sqLevel := rfl
@[simp] theorem State.inc_sqAt (s : State) (o n : Nat) : (s.inc o n).sqAt = s.sqAt := rfl
@[simp] theorem State.inc_linkFc (s : State) (o n : Nat) : (s.inc o n).linkFc = s.linkFc := rfl
@[simp] theorem State.inc_barred (s : State) (o n : Nat) : (s.inc o n).barred = s.barred := rfl
@[simp] theorem State.inc_pwr (s : State) (o n : Nat) : (s.inc o n).pwr = s.pwr := rfl
@[simp] theorem State.inc_sup (s : State) (o n : Nat) : (s.inc o n).sup = s.sup := rfl
@[simp] theorem State.inc_free (s : State) (o n : Nat) : (s.inc o n).free = s.free := rfl
@[simp] theorem State.inc_pending (s : State) (o n : Nat) : (s.inc o n).pending = s.pending := rfl

@[simp] theorem State.bump_chans (s : State) (o n : Nat) : (s.bump o n).chans = s.chans := rfl
@[simp] theorem State.bump_latch (s : State) (o n : Nat) : (s.bump o n).latch = s.latch := rfl
@[simp] theorem State.bump_stage (s : State) (o n : Nat) : (s.bump o n).stage = s.stage := rfl
@[simp] theorem State.bump_answer (s : State) (o n : Nat) : (s.bump o n).answer = s.answer := rfl
@[simp] theorem State.bump_bar4W (s : State) (o n : Nat) : (s.bump o n).bar4W = s.bar4W := rfl
@[simp] theorem State.bump_time (s : State) (o n : Nat) : (s.bump o n).time = s.time := rfl
@[simp] theorem State.bump_tc (s : State) (o n : Nat) : (s.bump o n).tc = s.tc := rfl
@[simp] theorem State.bump_tcap (s : State) (o n : Nat) : (s.bump o n).tcap = s.tcap := rfl
@[simp] theorem State.bump_trg (s : State) (o n : Nat) : (s.bump o n).trg = s.trg := rfl
@[simp] theorem State.bump_ptp (s : State) (o n : Nat) : (s.bump o n).ptp = s.ptp := rfl
@[simp] theorem State.bump_fc (s : State) (o n : Nat) : (s.bump o n).fc = s.fc := rfl
@[simp] theorem State.bump_hostMem (s : State) (o n : Nat) : (s.bump o n).hostMem = s.hostMem := rfl
@[simp] theorem State.bump_msix (s : State) (o n : Nat) : (s.bump o n).msix = s.msix := rfl
@[simp] theorem State.bump_pba (s : State) (o n : Nat) : (s.bump o n).pba = s.pba := rfl
@[simp] theorem State.bump_latched (s : State) (o n : Nat) : (s.bump o n).latched = s.latched := rfl
@[simp] theorem State.bump_safeDue (s : State) (o n : Nat) : (s.bump o n).safeDue = s.safeDue := rfl
@[simp] theorem State.bump_devDue (s : State) (o n : Nat) : (s.bump o n).devDue = s.devDue := rfl
@[simp] theorem State.bump_sqLevel (s : State) (o n : Nat) : (s.bump o n).sqLevel = s.sqLevel := rfl
@[simp] theorem State.bump_sqAt (s : State) (o n : Nat) : (s.bump o n).sqAt = s.sqAt := rfl
@[simp] theorem State.bump_linkFc (s : State) (o n : Nat) : (s.bump o n).linkFc = s.linkFc := rfl
@[simp] theorem State.bump_barred (s : State) (o n : Nat) : (s.bump o n).barred = s.barred := rfl
@[simp] theorem State.bump_pwr (s : State) (o n : Nat) : (s.bump o n).pwr = s.pwr := rfl
@[simp] theorem State.bump_sup (s : State) (o n : Nat) : (s.bump o n).sup = s.sup := rfl
@[simp] theorem State.bump_free (s : State) (o n : Nat) : (s.bump o n).free = s.free := rfl
@[simp] theorem State.bump_pending (s : State) (o n : Nat) : (s.bump o n).pending = s.pending := rfl

@[simp] theorem State.hostWrite_chans (s : State) (a : Nat) (bs : List Byte) : (s.hostWrite a bs).chans = s.chans := rfl
@[simp] theorem State.hostWrite_regs (s : State) (a : Nat) (bs : List Byte) : (s.hostWrite a bs).regs = s.regs := rfl
@[simp] theorem State.hostWrite_latch (s : State) (a : Nat) (bs : List Byte) : (s.hostWrite a bs).latch = s.latch := rfl
@[simp] theorem State.hostWrite_stage (s : State) (a : Nat) (bs : List Byte) : (s.hostWrite a bs).stage = s.stage := rfl
@[simp] theorem State.hostWrite_answer (s : State) (a : Nat) (bs : List Byte) : (s.hostWrite a bs).answer = s.answer := rfl
@[simp] theorem State.hostWrite_bar4W (s : State) (a : Nat) (bs : List Byte) : (s.hostWrite a bs).bar4W = s.bar4W := rfl
@[simp] theorem State.hostWrite_time (s : State) (a : Nat) (bs : List Byte) : (s.hostWrite a bs).time = s.time := rfl
@[simp] theorem State.hostWrite_tc (s : State) (a : Nat) (bs : List Byte) : (s.hostWrite a bs).tc = s.tc := rfl
@[simp] theorem State.hostWrite_tcap (s : State) (a : Nat) (bs : List Byte) : (s.hostWrite a bs).tcap = s.tcap := rfl
@[simp] theorem State.hostWrite_trg (s : State) (a : Nat) (bs : List Byte) : (s.hostWrite a bs).trg = s.trg := rfl
@[simp] theorem State.hostWrite_ptp (s : State) (a : Nat) (bs : List Byte) : (s.hostWrite a bs).ptp = s.ptp := rfl
@[simp] theorem State.hostWrite_fc (s : State) (a : Nat) (bs : List Byte) : (s.hostWrite a bs).fc = s.fc := rfl
@[simp] theorem State.hostWrite_msix (s : State) (a : Nat) (bs : List Byte) : (s.hostWrite a bs).msix = s.msix := rfl
@[simp] theorem State.hostWrite_pba (s : State) (a : Nat) (bs : List Byte) : (s.hostWrite a bs).pba = s.pba := rfl
@[simp] theorem State.hostWrite_latched (s : State) (a : Nat) (bs : List Byte) : (s.hostWrite a bs).latched = s.latched := rfl
@[simp] theorem State.hostWrite_safeDue (s : State) (a : Nat) (bs : List Byte) : (s.hostWrite a bs).safeDue = s.safeDue := rfl
@[simp] theorem State.hostWrite_devDue (s : State) (a : Nat) (bs : List Byte) : (s.hostWrite a bs).devDue = s.devDue := rfl
@[simp] theorem State.hostWrite_sqLevel (s : State) (a : Nat) (bs : List Byte) : (s.hostWrite a bs).sqLevel = s.sqLevel := rfl
@[simp] theorem State.hostWrite_sqAt (s : State) (a : Nat) (bs : List Byte) : (s.hostWrite a bs).sqAt = s.sqAt := rfl
@[simp] theorem State.hostWrite_linkFc (s : State) (a : Nat) (bs : List Byte) : (s.hostWrite a bs).linkFc = s.linkFc := rfl
@[simp] theorem State.hostWrite_barred (s : State) (a : Nat) (bs : List Byte) : (s.hostWrite a bs).barred = s.barred := rfl
@[simp] theorem State.hostWrite_pwr (s : State) (a : Nat) (bs : List Byte) : (s.hostWrite a bs).pwr = s.pwr := rfl
@[simp] theorem State.hostWrite_sup (s : State) (a : Nat) (bs : List Byte) : (s.hostWrite a bs).sup = s.sup := rfl
@[simp] theorem State.hostWrite_free (s : State) (a : Nat) (bs : List Byte) : (s.hostWrite a bs).free = s.free := rfl
@[simp] theorem State.hostWrite_pending (s : State) (a : Nat) (bs : List Byte) : (s.hostWrite a bs).pending = s.pending := rfl

@[simp] theorem State.drawFree_chans (s : State) (n : Nat) : (s.drawFree n).chans = s.chans := rfl
@[simp] theorem State.drawFree_regs (s : State) (n : Nat) : (s.drawFree n).regs = s.regs := rfl
@[simp] theorem State.drawFree_latch (s : State) (n : Nat) : (s.drawFree n).latch = s.latch := rfl
@[simp] theorem State.drawFree_stage (s : State) (n : Nat) : (s.drawFree n).stage = s.stage := rfl
@[simp] theorem State.drawFree_answer (s : State) (n : Nat) : (s.drawFree n).answer = s.answer := rfl
@[simp] theorem State.drawFree_bar4W (s : State) (n : Nat) : (s.drawFree n).bar4W = s.bar4W := rfl
@[simp] theorem State.drawFree_time (s : State) (n : Nat) : (s.drawFree n).time = s.time := rfl
@[simp] theorem State.drawFree_tc (s : State) (n : Nat) : (s.drawFree n).tc = s.tc := rfl
@[simp] theorem State.drawFree_tcap (s : State) (n : Nat) : (s.drawFree n).tcap = s.tcap := rfl
@[simp] theorem State.drawFree_trg (s : State) (n : Nat) : (s.drawFree n).trg = s.trg := rfl
@[simp] theorem State.drawFree_ptp (s : State) (n : Nat) : (s.drawFree n).ptp = s.ptp := rfl
@[simp] theorem State.drawFree_fc (s : State) (n : Nat) : (s.drawFree n).fc = s.fc := rfl
@[simp] theorem State.drawFree_hostMem (s : State) (n : Nat) : (s.drawFree n).hostMem = s.hostMem := rfl
@[simp] theorem State.drawFree_msix (s : State) (n : Nat) : (s.drawFree n).msix = s.msix := rfl
@[simp] theorem State.drawFree_pba (s : State) (n : Nat) : (s.drawFree n).pba = s.pba := rfl
@[simp] theorem State.drawFree_latched (s : State) (n : Nat) : (s.drawFree n).latched = s.latched := rfl
@[simp] theorem State.drawFree_safeDue (s : State) (n : Nat) : (s.drawFree n).safeDue = s.safeDue := rfl
@[simp] theorem State.drawFree_devDue (s : State) (n : Nat) : (s.drawFree n).devDue = s.devDue := rfl
@[simp] theorem State.drawFree_sqLevel (s : State) (n : Nat) : (s.drawFree n).sqLevel = s.sqLevel := rfl
@[simp] theorem State.drawFree_sqAt (s : State) (n : Nat) : (s.drawFree n).sqAt = s.sqAt := rfl
@[simp] theorem State.drawFree_linkFc (s : State) (n : Nat) : (s.drawFree n).linkFc = s.linkFc := rfl
@[simp] theorem State.drawFree_barred (s : State) (n : Nat) : (s.drawFree n).barred = s.barred := rfl
@[simp] theorem State.drawFree_pwr (s : State) (n : Nat) : (s.drawFree n).pwr = s.pwr := rfl
@[simp] theorem State.drawFree_sup (s : State) (n : Nat) : (s.drawFree n).sup = s.sup := rfl
@[simp] theorem State.drawFree_pending (s : State) (n : Nat) : (s.drawFree n).pending = s.pending := rfl

@[simp] theorem State.modPw_chans (s : State) (c : ChId) (f : Pwr → Pwr) : (s.modPw c f).chans = s.chans := rfl
@[simp] theorem State.modPw_regs (s : State) (c : ChId) (f : Pwr → Pwr) : (s.modPw c f).regs = s.regs := rfl
@[simp] theorem State.modPw_latch (s : State) (c : ChId) (f : Pwr → Pwr) : (s.modPw c f).latch = s.latch := rfl
@[simp] theorem State.modPw_stage (s : State) (c : ChId) (f : Pwr → Pwr) : (s.modPw c f).stage = s.stage := rfl
@[simp] theorem State.modPw_answer (s : State) (c : ChId) (f : Pwr → Pwr) : (s.modPw c f).answer = s.answer := rfl
@[simp] theorem State.modPw_bar4W (s : State) (c : ChId) (f : Pwr → Pwr) : (s.modPw c f).bar4W = s.bar4W := rfl
@[simp] theorem State.modPw_time (s : State) (c : ChId) (f : Pwr → Pwr) : (s.modPw c f).time = s.time := rfl
@[simp] theorem State.modPw_tc (s : State) (c : ChId) (f : Pwr → Pwr) : (s.modPw c f).tc = s.tc := rfl
@[simp] theorem State.modPw_tcap (s : State) (c : ChId) (f : Pwr → Pwr) : (s.modPw c f).tcap = s.tcap := rfl
@[simp] theorem State.modPw_trg (s : State) (c : ChId) (f : Pwr → Pwr) : (s.modPw c f).trg = s.trg := rfl
@[simp] theorem State.modPw_ptp (s : State) (c : ChId) (f : Pwr → Pwr) : (s.modPw c f).ptp = s.ptp := rfl
@[simp] theorem State.modPw_fc (s : State) (c : ChId) (f : Pwr → Pwr) : (s.modPw c f).fc = s.fc := rfl
@[simp] theorem State.modPw_hostMem (s : State) (c : ChId) (f : Pwr → Pwr) : (s.modPw c f).hostMem = s.hostMem := rfl
@[simp] theorem State.modPw_msix (s : State) (c : ChId) (f : Pwr → Pwr) : (s.modPw c f).msix = s.msix := rfl
@[simp] theorem State.modPw_pba (s : State) (c : ChId) (f : Pwr → Pwr) : (s.modPw c f).pba = s.pba := rfl
@[simp] theorem State.modPw_latched (s : State) (c : ChId) (f : Pwr → Pwr) : (s.modPw c f).latched = s.latched := rfl
@[simp] theorem State.modPw_safeDue (s : State) (c : ChId) (f : Pwr → Pwr) : (s.modPw c f).safeDue = s.safeDue := rfl
@[simp] theorem State.modPw_devDue (s : State) (c : ChId) (f : Pwr → Pwr) : (s.modPw c f).devDue = s.devDue := rfl
@[simp] theorem State.modPw_sqLevel (s : State) (c : ChId) (f : Pwr → Pwr) : (s.modPw c f).sqLevel = s.sqLevel := rfl
@[simp] theorem State.modPw_sqAt (s : State) (c : ChId) (f : Pwr → Pwr) : (s.modPw c f).sqAt = s.sqAt := rfl
@[simp] theorem State.modPw_linkFc (s : State) (c : ChId) (f : Pwr → Pwr) : (s.modPw c f).linkFc = s.linkFc := rfl
@[simp] theorem State.modPw_barred (s : State) (c : ChId) (f : Pwr → Pwr) : (s.modPw c f).barred = s.barred := rfl
@[simp] theorem State.modPw_sup (s : State) (c : ChId) (f : Pwr → Pwr) : (s.modPw c f).sup = s.sup := rfl
@[simp] theorem State.modPw_free (s : State) (c : ChId) (f : Pwr → Pwr) : (s.modPw c f).free = s.free := rfl
@[simp] theorem State.modPw_pending (s : State) (c : ChId) (f : Pwr → Pwr) : (s.modPw c f).pending = s.pending := rfl

@[simp] theorem State.modTc_chans (s : State) (f : TimeCtl → TimeCtl) : (s.modTc f).chans = s.chans := rfl
@[simp] theorem State.modTc_regs (s : State) (f : TimeCtl → TimeCtl) : (s.modTc f).regs = s.regs := rfl
@[simp] theorem State.modTc_latch (s : State) (f : TimeCtl → TimeCtl) : (s.modTc f).latch = s.latch := rfl
@[simp] theorem State.modTc_stage (s : State) (f : TimeCtl → TimeCtl) : (s.modTc f).stage = s.stage := rfl
@[simp] theorem State.modTc_answer (s : State) (f : TimeCtl → TimeCtl) : (s.modTc f).answer = s.answer := rfl
@[simp] theorem State.modTc_bar4W (s : State) (f : TimeCtl → TimeCtl) : (s.modTc f).bar4W = s.bar4W := rfl
@[simp] theorem State.modTc_time (s : State) (f : TimeCtl → TimeCtl) : (s.modTc f).time = s.time := rfl
@[simp] theorem State.modTc_tcap (s : State) (f : TimeCtl → TimeCtl) : (s.modTc f).tcap = s.tcap := rfl
@[simp] theorem State.modTc_trg (s : State) (f : TimeCtl → TimeCtl) : (s.modTc f).trg = s.trg := rfl
@[simp] theorem State.modTc_ptp (s : State) (f : TimeCtl → TimeCtl) : (s.modTc f).ptp = s.ptp := rfl
@[simp] theorem State.modTc_fc (s : State) (f : TimeCtl → TimeCtl) : (s.modTc f).fc = s.fc := rfl
@[simp] theorem State.modTc_hostMem (s : State) (f : TimeCtl → TimeCtl) : (s.modTc f).hostMem = s.hostMem := rfl
@[simp] theorem State.modTc_msix (s : State) (f : TimeCtl → TimeCtl) : (s.modTc f).msix = s.msix := rfl
@[simp] theorem State.modTc_pba (s : State) (f : TimeCtl → TimeCtl) : (s.modTc f).pba = s.pba := rfl
@[simp] theorem State.modTc_latched (s : State) (f : TimeCtl → TimeCtl) : (s.modTc f).latched = s.latched := rfl
@[simp] theorem State.modTc_safeDue (s : State) (f : TimeCtl → TimeCtl) : (s.modTc f).safeDue = s.safeDue := rfl
@[simp] theorem State.modTc_devDue (s : State) (f : TimeCtl → TimeCtl) : (s.modTc f).devDue = s.devDue := rfl
@[simp] theorem State.modTc_sqLevel (s : State) (f : TimeCtl → TimeCtl) : (s.modTc f).sqLevel = s.sqLevel := rfl
@[simp] theorem State.modTc_sqAt (s : State) (f : TimeCtl → TimeCtl) : (s.modTc f).sqAt = s.sqAt := rfl
@[simp] theorem State.modTc_linkFc (s : State) (f : TimeCtl → TimeCtl) : (s.modTc f).linkFc = s.linkFc := rfl
@[simp] theorem State.modTc_barred (s : State) (f : TimeCtl → TimeCtl) : (s.modTc f).barred = s.barred := rfl
@[simp] theorem State.modTc_pwr (s : State) (f : TimeCtl → TimeCtl) : (s.modTc f).pwr = s.pwr := rfl
@[simp] theorem State.modTc_sup (s : State) (f : TimeCtl → TimeCtl) : (s.modTc f).sup = s.sup := rfl
@[simp] theorem State.modTc_free (s : State) (f : TimeCtl → TimeCtl) : (s.modTc f).free = s.free := rfl
@[simp] theorem State.modTc_pending (s : State) (f : TimeCtl → TimeCtl) : (s.modTc f).pending = s.pending := rfl

/-! ## Updates of a channel -/

@[simp] theorem Channel.setReg_latch (x : Channel) (o : Nat) (v : Word) : (x.setReg o v).latch = x.latch := rfl
@[simp] theorem Channel.setReg_stage (x : Channel) (o : Nat) (v : Word) : (x.setReg o v).stage = x.stage := rfl
@[simp] theorem Channel.setReg_ownLatch (x : Channel) (o : Nat) (v : Word) : (x.setReg o v).ownLatch = x.ownLatch := rfl
@[simp] theorem Channel.setReg_ownStage (x : Channel) (o : Nat) (v : Word) : (x.setReg o v).ownStage = x.ownStage := rfl
@[simp] theorem Channel.setReg_fenced (x : Channel) (o : Nat) (v : Word) : (x.setReg o v).fenced = x.fenced := rfl
@[simp] theorem Channel.setReg_seq (x : Channel) (o : Nat) (v : Word) : (x.setReg o v).seq = x.seq := rfl
@[simp] theorem Channel.setReg_pm (x : Channel) (o : Nat) (v : Word) : (x.setReg o v).pm = x.pm := rfl
@[simp] theorem Channel.setReg_cmd (x : Channel) (o : Nat) (v : Word) : (x.setReg o v).cmd = x.cmd := rfl
@[simp] theorem Channel.setReg_spad (x : Channel) (o : Nat) (v : Word) : (x.setReg o v).spad = x.spad := rfl
@[simp] theorem Channel.setReg_acc (x : Channel) (o : Nat) (v : Word) : (x.setReg o v).acc = x.acc := rfl
@[simp] theorem Channel.setReg_rings (x : Channel) (o : Nat) (v : Word) : (x.setReg o v).rings = x.rings := rfl
@[simp] theorem Channel.setReg_dram (x : Channel) (o : Nat) (v : Word) : (x.setReg o v).dram = x.dram := rfl
@[simp] theorem Channel.setReg_front (x : Channel) (o : Nat) (v : Word) : (x.setReg o v).front = x.front := rfl
@[simp] theorem Channel.setReg_dma (x : Channel) (o : Nat) (v : Word) : (x.setReg o v).dma = x.dma := rfl
@[simp] theorem Channel.setReg_ptu (x : Channel) (o : Nat) (v : Word) : (x.setReg o v).ptu = x.ptu := rfl
@[simp] theorem Channel.setReg_attn (x : Channel) (o : Nat) (v : Word) : (x.setReg o v).attn = x.attn := rfl
@[simp] theorem Channel.setReg_arrs (x : Channel) (o : Nat) (v : Word) : (x.setReg o v).arrs = x.arrs := rfl
@[simp] theorem Channel.setReg_scan (x : Channel) (o : Nat) (v : Word) : (x.setReg o v).scan = x.scan := rfl
@[simp] theorem Channel.setReg_win (x : Channel) (o : Nat) (v : Word) : (x.setReg o v).win = x.win := rfl
@[simp] theorem Channel.setReg_joint (x : Channel) (o : Nat) (v : Word) : (x.setReg o v).joint = x.joint := rfl
@[simp] theorem Channel.setReg_issued (x : Channel) (o : Nat) (v : Word) : (x.setReg o v).issued = x.issued := rfl
@[simp] theorem Channel.setReg_restore (x : Channel) (o : Nat) (v : Word) : (x.setReg o v).restore = x.restore := rfl
@[simp] theorem Channel.setReg_raised (x : Channel) (o : Nat) (v : Word) : (x.setReg o v).raised = x.raised := rfl
@[simp] theorem Channel.setReg_aside (x : Channel) (o : Nat) (v : Word) : (x.setReg o v).aside = x.aside := rfl
@[simp] theorem Channel.setReg_servo (x : Channel) (o : Nat) (v : Word) : (x.setReg o v).servo = x.servo := rfl
@[simp] theorem Channel.setReg_drv (x : Channel) (o : Nat) (v : Word) : (x.setReg o v).drv = x.drv := rfl
@[simp] theorem Channel.setReg_alm (x : Channel) (o : Nat) (v : Word) : (x.setReg o v).alm = x.alm := rfl
@[simp] theorem Channel.setReg_frz (x : Channel) (o : Nat) (v : Word) : (x.setReg o v).frz = x.frz := rfl
@[simp] theorem Channel.setReg_link (x : Channel) (o : Nat) (v : Word) : (x.setReg o v).link = x.link := rfl
@[simp] theorem Channel.setReg_cas (x : Channel) (o : Nat) (v : Word) : (x.setReg o v).cas = x.cas := rfl
@[simp] theorem Channel.setReg_can (x : Channel) (o : Nat) (v : Word) : (x.setReg o v).can = x.can := rfl
@[simp] theorem Channel.setReg_intake (x : Channel) (o : Nat) (v : Word) : (x.setReg o v).intake = x.intake := rfl
@[simp] theorem Channel.setReg_draws (x : Channel) (o : Nat) (v : Word) : (x.setReg o v).draws = x.draws := rfl
@[simp] theorem Channel.setReg_odd (x : Channel) (o : Nat) (v : Word) : (x.setReg o v).odd = x.odd := rfl
@[simp] theorem Channel.setReg_hostWr (x : Channel) (o : Nat) (v : Word) : (x.setReg o v).hostWr = x.hostWr := rfl

@[simp] theorem Channel.setReg64_latch (x : Channel) (o : Nat) (v : Dword) : (x.setReg64 o v).latch = x.latch := rfl
@[simp] theorem Channel.setReg64_stage (x : Channel) (o : Nat) (v : Dword) : (x.setReg64 o v).stage = x.stage := rfl
@[simp] theorem Channel.setReg64_ownLatch (x : Channel) (o : Nat) (v : Dword) : (x.setReg64 o v).ownLatch = x.ownLatch := rfl
@[simp] theorem Channel.setReg64_ownStage (x : Channel) (o : Nat) (v : Dword) : (x.setReg64 o v).ownStage = x.ownStage := rfl
@[simp] theorem Channel.setReg64_fenced (x : Channel) (o : Nat) (v : Dword) : (x.setReg64 o v).fenced = x.fenced := rfl
@[simp] theorem Channel.setReg64_seq (x : Channel) (o : Nat) (v : Dword) : (x.setReg64 o v).seq = x.seq := rfl
@[simp] theorem Channel.setReg64_pm (x : Channel) (o : Nat) (v : Dword) : (x.setReg64 o v).pm = x.pm := rfl
@[simp] theorem Channel.setReg64_cmd (x : Channel) (o : Nat) (v : Dword) : (x.setReg64 o v).cmd = x.cmd := rfl
@[simp] theorem Channel.setReg64_spad (x : Channel) (o : Nat) (v : Dword) : (x.setReg64 o v).spad = x.spad := rfl
@[simp] theorem Channel.setReg64_acc (x : Channel) (o : Nat) (v : Dword) : (x.setReg64 o v).acc = x.acc := rfl
@[simp] theorem Channel.setReg64_rings (x : Channel) (o : Nat) (v : Dword) : (x.setReg64 o v).rings = x.rings := rfl
@[simp] theorem Channel.setReg64_dram (x : Channel) (o : Nat) (v : Dword) : (x.setReg64 o v).dram = x.dram := rfl
@[simp] theorem Channel.setReg64_front (x : Channel) (o : Nat) (v : Dword) : (x.setReg64 o v).front = x.front := rfl
@[simp] theorem Channel.setReg64_dma (x : Channel) (o : Nat) (v : Dword) : (x.setReg64 o v).dma = x.dma := rfl
@[simp] theorem Channel.setReg64_ptu (x : Channel) (o : Nat) (v : Dword) : (x.setReg64 o v).ptu = x.ptu := rfl
@[simp] theorem Channel.setReg64_attn (x : Channel) (o : Nat) (v : Dword) : (x.setReg64 o v).attn = x.attn := rfl
@[simp] theorem Channel.setReg64_arrs (x : Channel) (o : Nat) (v : Dword) : (x.setReg64 o v).arrs = x.arrs := rfl
@[simp] theorem Channel.setReg64_scan (x : Channel) (o : Nat) (v : Dword) : (x.setReg64 o v).scan = x.scan := rfl
@[simp] theorem Channel.setReg64_win (x : Channel) (o : Nat) (v : Dword) : (x.setReg64 o v).win = x.win := rfl
@[simp] theorem Channel.setReg64_joint (x : Channel) (o : Nat) (v : Dword) : (x.setReg64 o v).joint = x.joint := rfl
@[simp] theorem Channel.setReg64_issued (x : Channel) (o : Nat) (v : Dword) : (x.setReg64 o v).issued = x.issued := rfl
@[simp] theorem Channel.setReg64_restore (x : Channel) (o : Nat) (v : Dword) : (x.setReg64 o v).restore = x.restore := rfl
@[simp] theorem Channel.setReg64_raised (x : Channel) (o : Nat) (v : Dword) : (x.setReg64 o v).raised = x.raised := rfl
@[simp] theorem Channel.setReg64_aside (x : Channel) (o : Nat) (v : Dword) : (x.setReg64 o v).aside = x.aside := rfl
@[simp] theorem Channel.setReg64_servo (x : Channel) (o : Nat) (v : Dword) : (x.setReg64 o v).servo = x.servo := rfl
@[simp] theorem Channel.setReg64_drv (x : Channel) (o : Nat) (v : Dword) : (x.setReg64 o v).drv = x.drv := rfl
@[simp] theorem Channel.setReg64_alm (x : Channel) (o : Nat) (v : Dword) : (x.setReg64 o v).alm = x.alm := rfl
@[simp] theorem Channel.setReg64_frz (x : Channel) (o : Nat) (v : Dword) : (x.setReg64 o v).frz = x.frz := rfl
@[simp] theorem Channel.setReg64_link (x : Channel) (o : Nat) (v : Dword) : (x.setReg64 o v).link = x.link := rfl
@[simp] theorem Channel.setReg64_cas (x : Channel) (o : Nat) (v : Dword) : (x.setReg64 o v).cas = x.cas := rfl
@[simp] theorem Channel.setReg64_can (x : Channel) (o : Nat) (v : Dword) : (x.setReg64 o v).can = x.can := rfl
@[simp] theorem Channel.setReg64_intake (x : Channel) (o : Nat) (v : Dword) : (x.setReg64 o v).intake = x.intake := rfl
@[simp] theorem Channel.setReg64_draws (x : Channel) (o : Nat) (v : Dword) : (x.setReg64 o v).draws = x.draws := rfl
@[simp] theorem Channel.setReg64_odd (x : Channel) (o : Nat) (v : Dword) : (x.setReg64 o v).odd = x.odd := rfl
@[simp] theorem Channel.setReg64_hostWr (x : Channel) (o : Nat) (v : Dword) : (x.setReg64 o v).hostWr = x.hostWr := rfl

@[simp] theorem Channel.orReg_latch (x : Channel) (o : Nat) (v : Word) : (x.orReg o v).latch = x.latch := rfl
@[simp] theorem Channel.orReg_stage (x : Channel) (o : Nat) (v : Word) : (x.orReg o v).stage = x.stage := rfl
@[simp] theorem Channel.orReg_ownLatch (x : Channel) (o : Nat) (v : Word) : (x.orReg o v).ownLatch = x.ownLatch := rfl
@[simp] theorem Channel.orReg_ownStage (x : Channel) (o : Nat) (v : Word) : (x.orReg o v).ownStage = x.ownStage := rfl
@[simp] theorem Channel.orReg_fenced (x : Channel) (o : Nat) (v : Word) : (x.orReg o v).fenced = x.fenced := rfl
@[simp] theorem Channel.orReg_seq (x : Channel) (o : Nat) (v : Word) : (x.orReg o v).seq = x.seq := rfl
@[simp] theorem Channel.orReg_pm (x : Channel) (o : Nat) (v : Word) : (x.orReg o v).pm = x.pm := rfl
@[simp] theorem Channel.orReg_cmd (x : Channel) (o : Nat) (v : Word) : (x.orReg o v).cmd = x.cmd := rfl
@[simp] theorem Channel.orReg_spad (x : Channel) (o : Nat) (v : Word) : (x.orReg o v).spad = x.spad := rfl
@[simp] theorem Channel.orReg_acc (x : Channel) (o : Nat) (v : Word) : (x.orReg o v).acc = x.acc := rfl
@[simp] theorem Channel.orReg_rings (x : Channel) (o : Nat) (v : Word) : (x.orReg o v).rings = x.rings := rfl
@[simp] theorem Channel.orReg_dram (x : Channel) (o : Nat) (v : Word) : (x.orReg o v).dram = x.dram := rfl
@[simp] theorem Channel.orReg_front (x : Channel) (o : Nat) (v : Word) : (x.orReg o v).front = x.front := rfl
@[simp] theorem Channel.orReg_dma (x : Channel) (o : Nat) (v : Word) : (x.orReg o v).dma = x.dma := rfl
@[simp] theorem Channel.orReg_ptu (x : Channel) (o : Nat) (v : Word) : (x.orReg o v).ptu = x.ptu := rfl
@[simp] theorem Channel.orReg_attn (x : Channel) (o : Nat) (v : Word) : (x.orReg o v).attn = x.attn := rfl
@[simp] theorem Channel.orReg_arrs (x : Channel) (o : Nat) (v : Word) : (x.orReg o v).arrs = x.arrs := rfl
@[simp] theorem Channel.orReg_scan (x : Channel) (o : Nat) (v : Word) : (x.orReg o v).scan = x.scan := rfl
@[simp] theorem Channel.orReg_win (x : Channel) (o : Nat) (v : Word) : (x.orReg o v).win = x.win := rfl
@[simp] theorem Channel.orReg_joint (x : Channel) (o : Nat) (v : Word) : (x.orReg o v).joint = x.joint := rfl
@[simp] theorem Channel.orReg_issued (x : Channel) (o : Nat) (v : Word) : (x.orReg o v).issued = x.issued := rfl
@[simp] theorem Channel.orReg_restore (x : Channel) (o : Nat) (v : Word) : (x.orReg o v).restore = x.restore := rfl
@[simp] theorem Channel.orReg_raised (x : Channel) (o : Nat) (v : Word) : (x.orReg o v).raised = x.raised := rfl
@[simp] theorem Channel.orReg_aside (x : Channel) (o : Nat) (v : Word) : (x.orReg o v).aside = x.aside := rfl
@[simp] theorem Channel.orReg_servo (x : Channel) (o : Nat) (v : Word) : (x.orReg o v).servo = x.servo := rfl
@[simp] theorem Channel.orReg_drv (x : Channel) (o : Nat) (v : Word) : (x.orReg o v).drv = x.drv := rfl
@[simp] theorem Channel.orReg_alm (x : Channel) (o : Nat) (v : Word) : (x.orReg o v).alm = x.alm := rfl
@[simp] theorem Channel.orReg_frz (x : Channel) (o : Nat) (v : Word) : (x.orReg o v).frz = x.frz := rfl
@[simp] theorem Channel.orReg_link (x : Channel) (o : Nat) (v : Word) : (x.orReg o v).link = x.link := rfl
@[simp] theorem Channel.orReg_cas (x : Channel) (o : Nat) (v : Word) : (x.orReg o v).cas = x.cas := rfl
@[simp] theorem Channel.orReg_can (x : Channel) (o : Nat) (v : Word) : (x.orReg o v).can = x.can := rfl
@[simp] theorem Channel.orReg_intake (x : Channel) (o : Nat) (v : Word) : (x.orReg o v).intake = x.intake := rfl
@[simp] theorem Channel.orReg_draws (x : Channel) (o : Nat) (v : Word) : (x.orReg o v).draws = x.draws := rfl
@[simp] theorem Channel.orReg_odd (x : Channel) (o : Nat) (v : Word) : (x.orReg o v).odd = x.odd := rfl
@[simp] theorem Channel.orReg_hostWr (x : Channel) (o : Nat) (v : Word) : (x.orReg o v).hostWr = x.hostWr := rfl

@[simp] theorem Channel.clrReg_latch (x : Channel) (o : Nat) (v : Word) : (x.clrReg o v).latch = x.latch := rfl
@[simp] theorem Channel.clrReg_stage (x : Channel) (o : Nat) (v : Word) : (x.clrReg o v).stage = x.stage := rfl
@[simp] theorem Channel.clrReg_ownLatch (x : Channel) (o : Nat) (v : Word) : (x.clrReg o v).ownLatch = x.ownLatch := rfl
@[simp] theorem Channel.clrReg_ownStage (x : Channel) (o : Nat) (v : Word) : (x.clrReg o v).ownStage = x.ownStage := rfl
@[simp] theorem Channel.clrReg_fenced (x : Channel) (o : Nat) (v : Word) : (x.clrReg o v).fenced = x.fenced := rfl
@[simp] theorem Channel.clrReg_seq (x : Channel) (o : Nat) (v : Word) : (x.clrReg o v).seq = x.seq := rfl
@[simp] theorem Channel.clrReg_pm (x : Channel) (o : Nat) (v : Word) : (x.clrReg o v).pm = x.pm := rfl
@[simp] theorem Channel.clrReg_cmd (x : Channel) (o : Nat) (v : Word) : (x.clrReg o v).cmd = x.cmd := rfl
@[simp] theorem Channel.clrReg_spad (x : Channel) (o : Nat) (v : Word) : (x.clrReg o v).spad = x.spad := rfl
@[simp] theorem Channel.clrReg_acc (x : Channel) (o : Nat) (v : Word) : (x.clrReg o v).acc = x.acc := rfl
@[simp] theorem Channel.clrReg_rings (x : Channel) (o : Nat) (v : Word) : (x.clrReg o v).rings = x.rings := rfl
@[simp] theorem Channel.clrReg_dram (x : Channel) (o : Nat) (v : Word) : (x.clrReg o v).dram = x.dram := rfl
@[simp] theorem Channel.clrReg_front (x : Channel) (o : Nat) (v : Word) : (x.clrReg o v).front = x.front := rfl
@[simp] theorem Channel.clrReg_dma (x : Channel) (o : Nat) (v : Word) : (x.clrReg o v).dma = x.dma := rfl
@[simp] theorem Channel.clrReg_ptu (x : Channel) (o : Nat) (v : Word) : (x.clrReg o v).ptu = x.ptu := rfl
@[simp] theorem Channel.clrReg_attn (x : Channel) (o : Nat) (v : Word) : (x.clrReg o v).attn = x.attn := rfl
@[simp] theorem Channel.clrReg_arrs (x : Channel) (o : Nat) (v : Word) : (x.clrReg o v).arrs = x.arrs := rfl
@[simp] theorem Channel.clrReg_scan (x : Channel) (o : Nat) (v : Word) : (x.clrReg o v).scan = x.scan := rfl
@[simp] theorem Channel.clrReg_win (x : Channel) (o : Nat) (v : Word) : (x.clrReg o v).win = x.win := rfl
@[simp] theorem Channel.clrReg_joint (x : Channel) (o : Nat) (v : Word) : (x.clrReg o v).joint = x.joint := rfl
@[simp] theorem Channel.clrReg_issued (x : Channel) (o : Nat) (v : Word) : (x.clrReg o v).issued = x.issued := rfl
@[simp] theorem Channel.clrReg_restore (x : Channel) (o : Nat) (v : Word) : (x.clrReg o v).restore = x.restore := rfl
@[simp] theorem Channel.clrReg_raised (x : Channel) (o : Nat) (v : Word) : (x.clrReg o v).raised = x.raised := rfl
@[simp] theorem Channel.clrReg_aside (x : Channel) (o : Nat) (v : Word) : (x.clrReg o v).aside = x.aside := rfl
@[simp] theorem Channel.clrReg_servo (x : Channel) (o : Nat) (v : Word) : (x.clrReg o v).servo = x.servo := rfl
@[simp] theorem Channel.clrReg_drv (x : Channel) (o : Nat) (v : Word) : (x.clrReg o v).drv = x.drv := rfl
@[simp] theorem Channel.clrReg_alm (x : Channel) (o : Nat) (v : Word) : (x.clrReg o v).alm = x.alm := rfl
@[simp] theorem Channel.clrReg_frz (x : Channel) (o : Nat) (v : Word) : (x.clrReg o v).frz = x.frz := rfl
@[simp] theorem Channel.clrReg_link (x : Channel) (o : Nat) (v : Word) : (x.clrReg o v).link = x.link := rfl
@[simp] theorem Channel.clrReg_cas (x : Channel) (o : Nat) (v : Word) : (x.clrReg o v).cas = x.cas := rfl
@[simp] theorem Channel.clrReg_can (x : Channel) (o : Nat) (v : Word) : (x.clrReg o v).can = x.can := rfl
@[simp] theorem Channel.clrReg_intake (x : Channel) (o : Nat) (v : Word) : (x.clrReg o v).intake = x.intake := rfl
@[simp] theorem Channel.clrReg_draws (x : Channel) (o : Nat) (v : Word) : (x.clrReg o v).draws = x.draws := rfl
@[simp] theorem Channel.clrReg_odd (x : Channel) (o : Nat) (v : Word) : (x.clrReg o v).odd = x.odd := rfl
@[simp] theorem Channel.clrReg_hostWr (x : Channel) (o : Nat) (v : Word) : (x.clrReg o v).hostWr = x.hostWr := rfl

@[simp] theorem Channel.bump_latch (x : Channel) (o n : Nat) : (x.bump o n).latch = x.latch := rfl
@[simp] theorem Channel.bump_stage (x : Channel) (o n : Nat) : (x.bump o n).stage = x.stage := rfl
@[simp] theorem Channel.bump_ownLatch (x : Channel) (o n : Nat) : (x.bump o n).ownLatch = x.ownLatch := rfl
@[simp] theorem Channel.bump_ownStage (x : Channel) (o n : Nat) : (x.bump o n).ownStage = x.ownStage := rfl
@[simp] theorem Channel.bump_fenced (x : Channel) (o n : Nat) : (x.bump o n).fenced = x.fenced := rfl
@[simp] theorem Channel.bump_seq (x : Channel) (o n : Nat) : (x.bump o n).seq = x.seq := rfl
@[simp] theorem Channel.bump_pm (x : Channel) (o n : Nat) : (x.bump o n).pm = x.pm := rfl
@[simp] theorem Channel.bump_cmd (x : Channel) (o n : Nat) : (x.bump o n).cmd = x.cmd := rfl
@[simp] theorem Channel.bump_spad (x : Channel) (o n : Nat) : (x.bump o n).spad = x.spad := rfl
@[simp] theorem Channel.bump_acc (x : Channel) (o n : Nat) : (x.bump o n).acc = x.acc := rfl
@[simp] theorem Channel.bump_rings (x : Channel) (o n : Nat) : (x.bump o n).rings = x.rings := rfl
@[simp] theorem Channel.bump_dram (x : Channel) (o n : Nat) : (x.bump o n).dram = x.dram := rfl
@[simp] theorem Channel.bump_front (x : Channel) (o n : Nat) : (x.bump o n).front = x.front := rfl
@[simp] theorem Channel.bump_dma (x : Channel) (o n : Nat) : (x.bump o n).dma = x.dma := rfl
@[simp] theorem Channel.bump_ptu (x : Channel) (o n : Nat) : (x.bump o n).ptu = x.ptu := rfl
@[simp] theorem Channel.bump_attn (x : Channel) (o n : Nat) : (x.bump o n).attn = x.attn := rfl
@[simp] theorem Channel.bump_arrs (x : Channel) (o n : Nat) : (x.bump o n).arrs = x.arrs := rfl
@[simp] theorem Channel.bump_scan (x : Channel) (o n : Nat) : (x.bump o n).scan = x.scan := rfl
@[simp] theorem Channel.bump_win (x : Channel) (o n : Nat) : (x.bump o n).win = x.win := rfl
@[simp] theorem Channel.bump_joint (x : Channel) (o n : Nat) : (x.bump o n).joint = x.joint := rfl
@[simp] theorem Channel.bump_issued (x : Channel) (o n : Nat) : (x.bump o n).issued = x.issued := rfl
@[simp] theorem Channel.bump_restore (x : Channel) (o n : Nat) : (x.bump o n).restore = x.restore := rfl
@[simp] theorem Channel.bump_raised (x : Channel) (o n : Nat) : (x.bump o n).raised = x.raised := rfl
@[simp] theorem Channel.bump_aside (x : Channel) (o n : Nat) : (x.bump o n).aside = x.aside := rfl
@[simp] theorem Channel.bump_servo (x : Channel) (o n : Nat) : (x.bump o n).servo = x.servo := rfl
@[simp] theorem Channel.bump_drv (x : Channel) (o n : Nat) : (x.bump o n).drv = x.drv := rfl
@[simp] theorem Channel.bump_alm (x : Channel) (o n : Nat) : (x.bump o n).alm = x.alm := rfl
@[simp] theorem Channel.bump_frz (x : Channel) (o n : Nat) : (x.bump o n).frz = x.frz := rfl
@[simp] theorem Channel.bump_link (x : Channel) (o n : Nat) : (x.bump o n).link = x.link := rfl
@[simp] theorem Channel.bump_cas (x : Channel) (o n : Nat) : (x.bump o n).cas = x.cas := rfl
@[simp] theorem Channel.bump_can (x : Channel) (o n : Nat) : (x.bump o n).can = x.can := rfl
@[simp] theorem Channel.bump_intake (x : Channel) (o n : Nat) : (x.bump o n).intake = x.intake := rfl
@[simp] theorem Channel.bump_draws (x : Channel) (o n : Nat) : (x.bump o n).draws = x.draws := rfl
@[simp] theorem Channel.bump_odd (x : Channel) (o n : Nat) : (x.bump o n).odd = x.odd := rfl
@[simp] theorem Channel.bump_hostWr (x : Channel) (o n : Nat) : (x.bump o n).hostWr = x.hostWr := rfl

@[simp] theorem Channel.inc_latch (x : Channel) (o n : Nat) : (x.inc o n).latch = x.latch := rfl
@[simp] theorem Channel.inc_stage (x : Channel) (o n : Nat) : (x.inc o n).stage = x.stage := rfl
@[simp] theorem Channel.inc_ownLatch (x : Channel) (o n : Nat) : (x.inc o n).ownLatch = x.ownLatch := rfl
@[simp] theorem Channel.inc_ownStage (x : Channel) (o n : Nat) : (x.inc o n).ownStage = x.ownStage := rfl
@[simp] theorem Channel.inc_fenced (x : Channel) (o n : Nat) : (x.inc o n).fenced = x.fenced := rfl
@[simp] theorem Channel.inc_seq (x : Channel) (o n : Nat) : (x.inc o n).seq = x.seq := rfl
@[simp] theorem Channel.inc_pm (x : Channel) (o n : Nat) : (x.inc o n).pm = x.pm := rfl
@[simp] theorem Channel.inc_cmd (x : Channel) (o n : Nat) : (x.inc o n).cmd = x.cmd := rfl
@[simp] theorem Channel.inc_spad (x : Channel) (o n : Nat) : (x.inc o n).spad = x.spad := rfl
@[simp] theorem Channel.inc_acc (x : Channel) (o n : Nat) : (x.inc o n).acc = x.acc := rfl
@[simp] theorem Channel.inc_rings (x : Channel) (o n : Nat) : (x.inc o n).rings = x.rings := rfl
@[simp] theorem Channel.inc_dram (x : Channel) (o n : Nat) : (x.inc o n).dram = x.dram := rfl
@[simp] theorem Channel.inc_front (x : Channel) (o n : Nat) : (x.inc o n).front = x.front := rfl
@[simp] theorem Channel.inc_dma (x : Channel) (o n : Nat) : (x.inc o n).dma = x.dma := rfl
@[simp] theorem Channel.inc_ptu (x : Channel) (o n : Nat) : (x.inc o n).ptu = x.ptu := rfl
@[simp] theorem Channel.inc_attn (x : Channel) (o n : Nat) : (x.inc o n).attn = x.attn := rfl
@[simp] theorem Channel.inc_arrs (x : Channel) (o n : Nat) : (x.inc o n).arrs = x.arrs := rfl
@[simp] theorem Channel.inc_scan (x : Channel) (o n : Nat) : (x.inc o n).scan = x.scan := rfl
@[simp] theorem Channel.inc_win (x : Channel) (o n : Nat) : (x.inc o n).win = x.win := rfl
@[simp] theorem Channel.inc_joint (x : Channel) (o n : Nat) : (x.inc o n).joint = x.joint := rfl
@[simp] theorem Channel.inc_issued (x : Channel) (o n : Nat) : (x.inc o n).issued = x.issued := rfl
@[simp] theorem Channel.inc_restore (x : Channel) (o n : Nat) : (x.inc o n).restore = x.restore := rfl
@[simp] theorem Channel.inc_raised (x : Channel) (o n : Nat) : (x.inc o n).raised = x.raised := rfl
@[simp] theorem Channel.inc_aside (x : Channel) (o n : Nat) : (x.inc o n).aside = x.aside := rfl
@[simp] theorem Channel.inc_servo (x : Channel) (o n : Nat) : (x.inc o n).servo = x.servo := rfl
@[simp] theorem Channel.inc_drv (x : Channel) (o n : Nat) : (x.inc o n).drv = x.drv := rfl
@[simp] theorem Channel.inc_alm (x : Channel) (o n : Nat) : (x.inc o n).alm = x.alm := rfl
@[simp] theorem Channel.inc_frz (x : Channel) (o n : Nat) : (x.inc o n).frz = x.frz := rfl
@[simp] theorem Channel.inc_link (x : Channel) (o n : Nat) : (x.inc o n).link = x.link := rfl
@[simp] theorem Channel.inc_cas (x : Channel) (o n : Nat) : (x.inc o n).cas = x.cas := rfl
@[simp] theorem Channel.inc_can (x : Channel) (o n : Nat) : (x.inc o n).can = x.can := rfl
@[simp] theorem Channel.inc_intake (x : Channel) (o n : Nat) : (x.inc o n).intake = x.intake := rfl
@[simp] theorem Channel.inc_draws (x : Channel) (o n : Nat) : (x.inc o n).draws = x.draws := rfl
@[simp] theorem Channel.inc_odd (x : Channel) (o n : Nat) : (x.inc o n).odd = x.odd := rfl
@[simp] theorem Channel.inc_hostWr (x : Channel) (o n : Nat) : (x.inc o n).hostWr = x.hostWr := rfl

@[simp] theorem Channel.inc64_latch (x : Channel) (o n : Nat) : (x.inc64 o n).latch = x.latch := rfl
@[simp] theorem Channel.inc64_stage (x : Channel) (o n : Nat) : (x.inc64 o n).stage = x.stage := rfl
@[simp] theorem Channel.inc64_ownLatch (x : Channel) (o n : Nat) : (x.inc64 o n).ownLatch = x.ownLatch := rfl
@[simp] theorem Channel.inc64_ownStage (x : Channel) (o n : Nat) : (x.inc64 o n).ownStage = x.ownStage := rfl
@[simp] theorem Channel.inc64_fenced (x : Channel) (o n : Nat) : (x.inc64 o n).fenced = x.fenced := rfl
@[simp] theorem Channel.inc64_seq (x : Channel) (o n : Nat) : (x.inc64 o n).seq = x.seq := rfl
@[simp] theorem Channel.inc64_pm (x : Channel) (o n : Nat) : (x.inc64 o n).pm = x.pm := rfl
@[simp] theorem Channel.inc64_cmd (x : Channel) (o n : Nat) : (x.inc64 o n).cmd = x.cmd := rfl
@[simp] theorem Channel.inc64_spad (x : Channel) (o n : Nat) : (x.inc64 o n).spad = x.spad := rfl
@[simp] theorem Channel.inc64_acc (x : Channel) (o n : Nat) : (x.inc64 o n).acc = x.acc := rfl
@[simp] theorem Channel.inc64_rings (x : Channel) (o n : Nat) : (x.inc64 o n).rings = x.rings := rfl
@[simp] theorem Channel.inc64_dram (x : Channel) (o n : Nat) : (x.inc64 o n).dram = x.dram := rfl
@[simp] theorem Channel.inc64_front (x : Channel) (o n : Nat) : (x.inc64 o n).front = x.front := rfl
@[simp] theorem Channel.inc64_dma (x : Channel) (o n : Nat) : (x.inc64 o n).dma = x.dma := rfl
@[simp] theorem Channel.inc64_ptu (x : Channel) (o n : Nat) : (x.inc64 o n).ptu = x.ptu := rfl
@[simp] theorem Channel.inc64_attn (x : Channel) (o n : Nat) : (x.inc64 o n).attn = x.attn := rfl
@[simp] theorem Channel.inc64_arrs (x : Channel) (o n : Nat) : (x.inc64 o n).arrs = x.arrs := rfl
@[simp] theorem Channel.inc64_scan (x : Channel) (o n : Nat) : (x.inc64 o n).scan = x.scan := rfl
@[simp] theorem Channel.inc64_win (x : Channel) (o n : Nat) : (x.inc64 o n).win = x.win := rfl
@[simp] theorem Channel.inc64_joint (x : Channel) (o n : Nat) : (x.inc64 o n).joint = x.joint := rfl
@[simp] theorem Channel.inc64_issued (x : Channel) (o n : Nat) : (x.inc64 o n).issued = x.issued := rfl
@[simp] theorem Channel.inc64_restore (x : Channel) (o n : Nat) : (x.inc64 o n).restore = x.restore := rfl
@[simp] theorem Channel.inc64_raised (x : Channel) (o n : Nat) : (x.inc64 o n).raised = x.raised := rfl
@[simp] theorem Channel.inc64_aside (x : Channel) (o n : Nat) : (x.inc64 o n).aside = x.aside := rfl
@[simp] theorem Channel.inc64_servo (x : Channel) (o n : Nat) : (x.inc64 o n).servo = x.servo := rfl
@[simp] theorem Channel.inc64_drv (x : Channel) (o n : Nat) : (x.inc64 o n).drv = x.drv := rfl
@[simp] theorem Channel.inc64_alm (x : Channel) (o n : Nat) : (x.inc64 o n).alm = x.alm := rfl
@[simp] theorem Channel.inc64_frz (x : Channel) (o n : Nat) : (x.inc64 o n).frz = x.frz := rfl
@[simp] theorem Channel.inc64_link (x : Channel) (o n : Nat) : (x.inc64 o n).link = x.link := rfl
@[simp] theorem Channel.inc64_cas (x : Channel) (o n : Nat) : (x.inc64 o n).cas = x.cas := rfl
@[simp] theorem Channel.inc64_can (x : Channel) (o n : Nat) : (x.inc64 o n).can = x.can := rfl
@[simp] theorem Channel.inc64_intake (x : Channel) (o n : Nat) : (x.inc64 o n).intake = x.intake := rfl
@[simp] theorem Channel.inc64_draws (x : Channel) (o n : Nat) : (x.inc64 o n).draws = x.draws := rfl
@[simp] theorem Channel.inc64_odd (x : Channel) (o n : Nat) : (x.inc64 o n).odd = x.odd := rfl
@[simp] theorem Channel.inc64_hostWr (x : Channel) (o n : Nat) : (x.inc64 o n).hostWr = x.hostWr := rfl

@[simp] theorem Channel.raise_regs (x : Channel) (b : Byte) : (x.raise b).regs = x.regs := rfl
@[simp] theorem Channel.raise_latch (x : Channel) (b : Byte) : (x.raise b).latch = x.latch := rfl
@[simp] theorem Channel.raise_stage (x : Channel) (b : Byte) : (x.raise b).stage = x.stage := rfl
@[simp] theorem Channel.raise_ownLatch (x : Channel) (b : Byte) : (x.raise b).ownLatch = x.ownLatch := rfl
@[simp] theorem Channel.raise_ownStage (x : Channel) (b : Byte) : (x.raise b).ownStage = x.ownStage := rfl
@[simp] theorem Channel.raise_fenced (x : Channel) (b : Byte) : (x.raise b).fenced = x.fenced := rfl
@[simp] theorem Channel.raise_seq (x : Channel) (b : Byte) : (x.raise b).seq = x.seq := rfl
@[simp] theorem Channel.raise_pm (x : Channel) (b : Byte) : (x.raise b).pm = x.pm := rfl
@[simp] theorem Channel.raise_cmd (x : Channel) (b : Byte) : (x.raise b).cmd = x.cmd := rfl
@[simp] theorem Channel.raise_spad (x : Channel) (b : Byte) : (x.raise b).spad = x.spad := rfl
@[simp] theorem Channel.raise_acc (x : Channel) (b : Byte) : (x.raise b).acc = x.acc := rfl
@[simp] theorem Channel.raise_rings (x : Channel) (b : Byte) : (x.raise b).rings = x.rings := rfl
@[simp] theorem Channel.raise_dram (x : Channel) (b : Byte) : (x.raise b).dram = x.dram := rfl
@[simp] theorem Channel.raise_front (x : Channel) (b : Byte) : (x.raise b).front = x.front := rfl
@[simp] theorem Channel.raise_dma (x : Channel) (b : Byte) : (x.raise b).dma = x.dma := rfl
@[simp] theorem Channel.raise_ptu (x : Channel) (b : Byte) : (x.raise b).ptu = x.ptu := rfl
@[simp] theorem Channel.raise_attn (x : Channel) (b : Byte) : (x.raise b).attn = x.attn := rfl
@[simp] theorem Channel.raise_arrs (x : Channel) (b : Byte) : (x.raise b).arrs = x.arrs := rfl
@[simp] theorem Channel.raise_scan (x : Channel) (b : Byte) : (x.raise b).scan = x.scan := rfl
@[simp] theorem Channel.raise_win (x : Channel) (b : Byte) : (x.raise b).win = x.win := rfl
@[simp] theorem Channel.raise_joint (x : Channel) (b : Byte) : (x.raise b).joint = x.joint := rfl
@[simp] theorem Channel.raise_issued (x : Channel) (b : Byte) : (x.raise b).issued = x.issued := rfl
@[simp] theorem Channel.raise_restore (x : Channel) (b : Byte) : (x.raise b).restore = x.restore := rfl
@[simp] theorem Channel.raise_aside (x : Channel) (b : Byte) : (x.raise b).aside = x.aside := rfl
@[simp] theorem Channel.raise_servo (x : Channel) (b : Byte) : (x.raise b).servo = x.servo := rfl
@[simp] theorem Channel.raise_drv (x : Channel) (b : Byte) : (x.raise b).drv = x.drv := rfl
@[simp] theorem Channel.raise_alm (x : Channel) (b : Byte) : (x.raise b).alm = x.alm := rfl
@[simp] theorem Channel.raise_frz (x : Channel) (b : Byte) : (x.raise b).frz = x.frz := rfl
@[simp] theorem Channel.raise_link (x : Channel) (b : Byte) : (x.raise b).link = x.link := rfl
@[simp] theorem Channel.raise_cas (x : Channel) (b : Byte) : (x.raise b).cas = x.cas := rfl
@[simp] theorem Channel.raise_can (x : Channel) (b : Byte) : (x.raise b).can = x.can := rfl
@[simp] theorem Channel.raise_intake (x : Channel) (b : Byte) : (x.raise b).intake = x.intake := rfl
@[simp] theorem Channel.raise_draws (x : Channel) (b : Byte) : (x.raise b).draws = x.draws := rfl
@[simp] theorem Channel.raise_odd (x : Channel) (b : Byte) : (x.raise b).odd = x.odd := rfl
@[simp] theorem Channel.raise_hostWr (x : Channel) (b : Byte) : (x.raise b).hostWr = x.hostWr := rfl

@[simp] theorem Channel.modSeq_regs (x : Channel) (f : Seq → Seq) : (x.modSeq f).regs = x.regs := rfl
@[simp] theorem Channel.modSeq_latch (x : Channel) (f : Seq → Seq) : (x.modSeq f).latch = x.latch := rfl
@[simp] theorem Channel.modSeq_stage (x : Channel) (f : Seq → Seq) : (x.modSeq f).stage = x.stage := rfl
@[simp] theorem Channel.modSeq_ownLatch (x : Channel) (f : Seq → Seq) : (x.modSeq f).ownLatch = x.ownLatch := rfl
@[simp] theorem Channel.modSeq_ownStage (x : Channel) (f : Seq → Seq) : (x.modSeq f).ownStage = x.ownStage := rfl
@[simp] theorem Channel.modSeq_fenced (x : Channel) (f : Seq → Seq) : (x.modSeq f).fenced = x.fenced := rfl
@[simp] theorem Channel.modSeq_pm (x : Channel) (f : Seq → Seq) : (x.modSeq f).pm = x.pm := rfl
@[simp] theorem Channel.modSeq_cmd (x : Channel) (f : Seq → Seq) : (x.modSeq f).cmd = x.cmd := rfl
@[simp] theorem Channel.modSeq_spad (x : Channel) (f : Seq → Seq) : (x.modSeq f).spad = x.spad := rfl
@[simp] theorem Channel.modSeq_acc (x : Channel) (f : Seq → Seq) : (x.modSeq f).acc = x.acc := rfl
@[simp] theorem Channel.modSeq_rings (x : Channel) (f : Seq → Seq) : (x.modSeq f).rings = x.rings := rfl
@[simp] theorem Channel.modSeq_dram (x : Channel) (f : Seq → Seq) : (x.modSeq f).dram = x.dram := rfl
@[simp] theorem Channel.modSeq_front (x : Channel) (f : Seq → Seq) : (x.modSeq f).front = x.front := rfl
@[simp] theorem Channel.modSeq_dma (x : Channel) (f : Seq → Seq) : (x.modSeq f).dma = x.dma := rfl
@[simp] theorem Channel.modSeq_ptu (x : Channel) (f : Seq → Seq) : (x.modSeq f).ptu = x.ptu := rfl
@[simp] theorem Channel.modSeq_attn (x : Channel) (f : Seq → Seq) : (x.modSeq f).attn = x.attn := rfl
@[simp] theorem Channel.modSeq_arrs (x : Channel) (f : Seq → Seq) : (x.modSeq f).arrs = x.arrs := rfl
@[simp] theorem Channel.modSeq_scan (x : Channel) (f : Seq → Seq) : (x.modSeq f).scan = x.scan := rfl
@[simp] theorem Channel.modSeq_win (x : Channel) (f : Seq → Seq) : (x.modSeq f).win = x.win := rfl
@[simp] theorem Channel.modSeq_joint (x : Channel) (f : Seq → Seq) : (x.modSeq f).joint = x.joint := rfl
@[simp] theorem Channel.modSeq_issued (x : Channel) (f : Seq → Seq) : (x.modSeq f).issued = x.issued := rfl
@[simp] theorem Channel.modSeq_restore (x : Channel) (f : Seq → Seq) : (x.modSeq f).restore = x.restore := rfl
@[simp] theorem Channel.modSeq_raised (x : Channel) (f : Seq → Seq) : (x.modSeq f).raised = x.raised := rfl
@[simp] theorem Channel.modSeq_aside (x : Channel) (f : Seq → Seq) : (x.modSeq f).aside = x.aside := rfl
@[simp] theorem Channel.modSeq_servo (x : Channel) (f : Seq → Seq) : (x.modSeq f).servo = x.servo := rfl
@[simp] theorem Channel.modSeq_drv (x : Channel) (f : Seq → Seq) : (x.modSeq f).drv = x.drv := rfl
@[simp] theorem Channel.modSeq_alm (x : Channel) (f : Seq → Seq) : (x.modSeq f).alm = x.alm := rfl
@[simp] theorem Channel.modSeq_frz (x : Channel) (f : Seq → Seq) : (x.modSeq f).frz = x.frz := rfl
@[simp] theorem Channel.modSeq_link (x : Channel) (f : Seq → Seq) : (x.modSeq f).link = x.link := rfl
@[simp] theorem Channel.modSeq_cas (x : Channel) (f : Seq → Seq) : (x.modSeq f).cas = x.cas := rfl
@[simp] theorem Channel.modSeq_can (x : Channel) (f : Seq → Seq) : (x.modSeq f).can = x.can := rfl
@[simp] theorem Channel.modSeq_intake (x : Channel) (f : Seq → Seq) : (x.modSeq f).intake = x.intake := rfl
@[simp] theorem Channel.modSeq_draws (x : Channel) (f : Seq → Seq) : (x.modSeq f).draws = x.draws := rfl
@[simp] theorem Channel.modSeq_odd (x : Channel) (f : Seq → Seq) : (x.modSeq f).odd = x.odd := rfl
@[simp] theorem Channel.modSeq_hostWr (x : Channel) (f : Seq → Seq) : (x.modSeq f).hostWr = x.hostWr := rfl

@[simp] theorem Channel.modCmd_regs (x : Channel) (f : CmdSt → CmdSt) : (x.modCmd f).regs = x.regs := rfl
@[simp] theorem Channel.modCmd_latch (x : Channel) (f : CmdSt → CmdSt) : (x.modCmd f).latch = x.latch := rfl
@[simp] theorem Channel.modCmd_stage (x : Channel) (f : CmdSt → CmdSt) : (x.modCmd f).stage = x.stage := rfl
@[simp] theorem Channel.modCmd_ownLatch (x : Channel) (f : CmdSt → CmdSt) : (x.modCmd f).ownLatch = x.ownLatch := rfl
@[simp] theorem Channel.modCmd_ownStage (x : Channel) (f : CmdSt → CmdSt) : (x.modCmd f).ownStage = x.ownStage := rfl
@[simp] theorem Channel.modCmd_fenced (x : Channel) (f : CmdSt → CmdSt) : (x.modCmd f).fenced = x.fenced := rfl
@[simp] theorem Channel.modCmd_seq (x : Channel) (f : CmdSt → CmdSt) : (x.modCmd f).seq = x.seq := rfl
@[simp] theorem Channel.modCmd_pm (x : Channel) (f : CmdSt → CmdSt) : (x.modCmd f).pm = x.pm := rfl
@[simp] theorem Channel.modCmd_spad (x : Channel) (f : CmdSt → CmdSt) : (x.modCmd f).spad = x.spad := rfl
@[simp] theorem Channel.modCmd_acc (x : Channel) (f : CmdSt → CmdSt) : (x.modCmd f).acc = x.acc := rfl
@[simp] theorem Channel.modCmd_rings (x : Channel) (f : CmdSt → CmdSt) : (x.modCmd f).rings = x.rings := rfl
@[simp] theorem Channel.modCmd_dram (x : Channel) (f : CmdSt → CmdSt) : (x.modCmd f).dram = x.dram := rfl
@[simp] theorem Channel.modCmd_front (x : Channel) (f : CmdSt → CmdSt) : (x.modCmd f).front = x.front := rfl
@[simp] theorem Channel.modCmd_dma (x : Channel) (f : CmdSt → CmdSt) : (x.modCmd f).dma = x.dma := rfl
@[simp] theorem Channel.modCmd_ptu (x : Channel) (f : CmdSt → CmdSt) : (x.modCmd f).ptu = x.ptu := rfl
@[simp] theorem Channel.modCmd_attn (x : Channel) (f : CmdSt → CmdSt) : (x.modCmd f).attn = x.attn := rfl
@[simp] theorem Channel.modCmd_arrs (x : Channel) (f : CmdSt → CmdSt) : (x.modCmd f).arrs = x.arrs := rfl
@[simp] theorem Channel.modCmd_scan (x : Channel) (f : CmdSt → CmdSt) : (x.modCmd f).scan = x.scan := rfl
@[simp] theorem Channel.modCmd_win (x : Channel) (f : CmdSt → CmdSt) : (x.modCmd f).win = x.win := rfl
@[simp] theorem Channel.modCmd_joint (x : Channel) (f : CmdSt → CmdSt) : (x.modCmd f).joint = x.joint := rfl
@[simp] theorem Channel.modCmd_issued (x : Channel) (f : CmdSt → CmdSt) : (x.modCmd f).issued = x.issued := rfl
@[simp] theorem Channel.modCmd_restore (x : Channel) (f : CmdSt → CmdSt) : (x.modCmd f).restore = x.restore := rfl
@[simp] theorem Channel.modCmd_raised (x : Channel) (f : CmdSt → CmdSt) : (x.modCmd f).raised = x.raised := rfl
@[simp] theorem Channel.modCmd_aside (x : Channel) (f : CmdSt → CmdSt) : (x.modCmd f).aside = x.aside := rfl
@[simp] theorem Channel.modCmd_servo (x : Channel) (f : CmdSt → CmdSt) : (x.modCmd f).servo = x.servo := rfl
@[simp] theorem Channel.modCmd_drv (x : Channel) (f : CmdSt → CmdSt) : (x.modCmd f).drv = x.drv := rfl
@[simp] theorem Channel.modCmd_alm (x : Channel) (f : CmdSt → CmdSt) : (x.modCmd f).alm = x.alm := rfl
@[simp] theorem Channel.modCmd_frz (x : Channel) (f : CmdSt → CmdSt) : (x.modCmd f).frz = x.frz := rfl
@[simp] theorem Channel.modCmd_link (x : Channel) (f : CmdSt → CmdSt) : (x.modCmd f).link = x.link := rfl
@[simp] theorem Channel.modCmd_cas (x : Channel) (f : CmdSt → CmdSt) : (x.modCmd f).cas = x.cas := rfl
@[simp] theorem Channel.modCmd_can (x : Channel) (f : CmdSt → CmdSt) : (x.modCmd f).can = x.can := rfl
@[simp] theorem Channel.modCmd_intake (x : Channel) (f : CmdSt → CmdSt) : (x.modCmd f).intake = x.intake := rfl
@[simp] theorem Channel.modCmd_draws (x : Channel) (f : CmdSt → CmdSt) : (x.modCmd f).draws = x.draws := rfl
@[simp] theorem Channel.modCmd_odd (x : Channel) (f : CmdSt → CmdSt) : (x.modCmd f).odd = x.odd := rfl
@[simp] theorem Channel.modCmd_hostWr (x : Channel) (f : CmdSt → CmdSt) : (x.modCmd f).hostWr = x.hostWr := rfl

@[simp] theorem Channel.modRun_regs (x : Channel) (f : RunCmd → RunCmd) : (x.modRun f).regs = x.regs := rfl
@[simp] theorem Channel.modRun_latch (x : Channel) (f : RunCmd → RunCmd) : (x.modRun f).latch = x.latch := rfl
@[simp] theorem Channel.modRun_stage (x : Channel) (f : RunCmd → RunCmd) : (x.modRun f).stage = x.stage := rfl
@[simp] theorem Channel.modRun_ownLatch (x : Channel) (f : RunCmd → RunCmd) : (x.modRun f).ownLatch = x.ownLatch := rfl
@[simp] theorem Channel.modRun_ownStage (x : Channel) (f : RunCmd → RunCmd) : (x.modRun f).ownStage = x.ownStage := rfl
@[simp] theorem Channel.modRun_fenced (x : Channel) (f : RunCmd → RunCmd) : (x.modRun f).fenced = x.fenced := rfl
@[simp] theorem Channel.modRun_seq (x : Channel) (f : RunCmd → RunCmd) : (x.modRun f).seq = x.seq := rfl
@[simp] theorem Channel.modRun_pm (x : Channel) (f : RunCmd → RunCmd) : (x.modRun f).pm = x.pm := rfl
@[simp] theorem Channel.modRun_spad (x : Channel) (f : RunCmd → RunCmd) : (x.modRun f).spad = x.spad := rfl
@[simp] theorem Channel.modRun_acc (x : Channel) (f : RunCmd → RunCmd) : (x.modRun f).acc = x.acc := rfl
@[simp] theorem Channel.modRun_rings (x : Channel) (f : RunCmd → RunCmd) : (x.modRun f).rings = x.rings := rfl
@[simp] theorem Channel.modRun_dram (x : Channel) (f : RunCmd → RunCmd) : (x.modRun f).dram = x.dram := rfl
@[simp] theorem Channel.modRun_front (x : Channel) (f : RunCmd → RunCmd) : (x.modRun f).front = x.front := rfl
@[simp] theorem Channel.modRun_dma (x : Channel) (f : RunCmd → RunCmd) : (x.modRun f).dma = x.dma := rfl
@[simp] theorem Channel.modRun_ptu (x : Channel) (f : RunCmd → RunCmd) : (x.modRun f).ptu = x.ptu := rfl
@[simp] theorem Channel.modRun_attn (x : Channel) (f : RunCmd → RunCmd) : (x.modRun f).attn = x.attn := rfl
@[simp] theorem Channel.modRun_arrs (x : Channel) (f : RunCmd → RunCmd) : (x.modRun f).arrs = x.arrs := rfl
@[simp] theorem Channel.modRun_scan (x : Channel) (f : RunCmd → RunCmd) : (x.modRun f).scan = x.scan := rfl
@[simp] theorem Channel.modRun_win (x : Channel) (f : RunCmd → RunCmd) : (x.modRun f).win = x.win := rfl
@[simp] theorem Channel.modRun_joint (x : Channel) (f : RunCmd → RunCmd) : (x.modRun f).joint = x.joint := rfl
@[simp] theorem Channel.modRun_issued (x : Channel) (f : RunCmd → RunCmd) : (x.modRun f).issued = x.issued := rfl
@[simp] theorem Channel.modRun_restore (x : Channel) (f : RunCmd → RunCmd) : (x.modRun f).restore = x.restore := rfl
@[simp] theorem Channel.modRun_raised (x : Channel) (f : RunCmd → RunCmd) : (x.modRun f).raised = x.raised := rfl
@[simp] theorem Channel.modRun_aside (x : Channel) (f : RunCmd → RunCmd) : (x.modRun f).aside = x.aside := rfl
@[simp] theorem Channel.modRun_servo (x : Channel) (f : RunCmd → RunCmd) : (x.modRun f).servo = x.servo := rfl
@[simp] theorem Channel.modRun_drv (x : Channel) (f : RunCmd → RunCmd) : (x.modRun f).drv = x.drv := rfl
@[simp] theorem Channel.modRun_alm (x : Channel) (f : RunCmd → RunCmd) : (x.modRun f).alm = x.alm := rfl
@[simp] theorem Channel.modRun_frz (x : Channel) (f : RunCmd → RunCmd) : (x.modRun f).frz = x.frz := rfl
@[simp] theorem Channel.modRun_link (x : Channel) (f : RunCmd → RunCmd) : (x.modRun f).link = x.link := rfl
@[simp] theorem Channel.modRun_cas (x : Channel) (f : RunCmd → RunCmd) : (x.modRun f).cas = x.cas := rfl
@[simp] theorem Channel.modRun_can (x : Channel) (f : RunCmd → RunCmd) : (x.modRun f).can = x.can := rfl
@[simp] theorem Channel.modRun_intake (x : Channel) (f : RunCmd → RunCmd) : (x.modRun f).intake = x.intake := rfl
@[simp] theorem Channel.modRun_draws (x : Channel) (f : RunCmd → RunCmd) : (x.modRun f).draws = x.draws := rfl
@[simp] theorem Channel.modRun_odd (x : Channel) (f : RunCmd → RunCmd) : (x.modRun f).odd = x.odd := rfl
@[simp] theorem Channel.modRun_hostWr (x : Channel) (f : RunCmd → RunCmd) : (x.modRun f).hostWr = x.hostWr := rfl

@[simp] theorem Channel.setRing_regs (x : Channel) (r : BitVec 6) (d : RingD) : (x.setRing r d).regs = x.regs := rfl
@[simp] theorem Channel.setRing_latch (x : Channel) (r : BitVec 6) (d : RingD) : (x.setRing r d).latch = x.latch := rfl
@[simp] theorem Channel.setRing_stage (x : Channel) (r : BitVec 6) (d : RingD) : (x.setRing r d).stage = x.stage := rfl
@[simp] theorem Channel.setRing_ownLatch (x : Channel) (r : BitVec 6) (d : RingD) : (x.setRing r d).ownLatch = x.ownLatch := rfl
@[simp] theorem Channel.setRing_ownStage (x : Channel) (r : BitVec 6) (d : RingD) : (x.setRing r d).ownStage = x.ownStage := rfl
@[simp] theorem Channel.setRing_fenced (x : Channel) (r : BitVec 6) (d : RingD) : (x.setRing r d).fenced = x.fenced := rfl
@[simp] theorem Channel.setRing_seq (x : Channel) (r : BitVec 6) (d : RingD) : (x.setRing r d).seq = x.seq := rfl
@[simp] theorem Channel.setRing_pm (x : Channel) (r : BitVec 6) (d : RingD) : (x.setRing r d).pm = x.pm := rfl
@[simp] theorem Channel.setRing_cmd (x : Channel) (r : BitVec 6) (d : RingD) : (x.setRing r d).cmd = x.cmd := rfl
@[simp] theorem Channel.setRing_spad (x : Channel) (r : BitVec 6) (d : RingD) : (x.setRing r d).spad = x.spad := rfl
@[simp] theorem Channel.setRing_acc (x : Channel) (r : BitVec 6) (d : RingD) : (x.setRing r d).acc = x.acc := rfl
@[simp] theorem Channel.setRing_dram (x : Channel) (r : BitVec 6) (d : RingD) : (x.setRing r d).dram = x.dram := rfl
@[simp] theorem Channel.setRing_front (x : Channel) (r : BitVec 6) (d : RingD) : (x.setRing r d).front = x.front := rfl
@[simp] theorem Channel.setRing_dma (x : Channel) (r : BitVec 6) (d : RingD) : (x.setRing r d).dma = x.dma := rfl
@[simp] theorem Channel.setRing_ptu (x : Channel) (r : BitVec 6) (d : RingD) : (x.setRing r d).ptu = x.ptu := rfl
@[simp] theorem Channel.setRing_attn (x : Channel) (r : BitVec 6) (d : RingD) : (x.setRing r d).attn = x.attn := rfl
@[simp] theorem Channel.setRing_arrs (x : Channel) (r : BitVec 6) (d : RingD) : (x.setRing r d).arrs = x.arrs := rfl
@[simp] theorem Channel.setRing_scan (x : Channel) (r : BitVec 6) (d : RingD) : (x.setRing r d).scan = x.scan := rfl
@[simp] theorem Channel.setRing_win (x : Channel) (r : BitVec 6) (d : RingD) : (x.setRing r d).win = x.win := rfl
@[simp] theorem Channel.setRing_joint (x : Channel) (r : BitVec 6) (d : RingD) : (x.setRing r d).joint = x.joint := rfl
@[simp] theorem Channel.setRing_issued (x : Channel) (r : BitVec 6) (d : RingD) : (x.setRing r d).issued = x.issued := rfl
@[simp] theorem Channel.setRing_restore (x : Channel) (r : BitVec 6) (d : RingD) : (x.setRing r d).restore = x.restore := rfl
@[simp] theorem Channel.setRing_raised (x : Channel) (r : BitVec 6) (d : RingD) : (x.setRing r d).raised = x.raised := rfl
@[simp] theorem Channel.setRing_aside (x : Channel) (r : BitVec 6) (d : RingD) : (x.setRing r d).aside = x.aside := rfl
@[simp] theorem Channel.setRing_servo (x : Channel) (r : BitVec 6) (d : RingD) : (x.setRing r d).servo = x.servo := rfl
@[simp] theorem Channel.setRing_drv (x : Channel) (r : BitVec 6) (d : RingD) : (x.setRing r d).drv = x.drv := rfl
@[simp] theorem Channel.setRing_alm (x : Channel) (r : BitVec 6) (d : RingD) : (x.setRing r d).alm = x.alm := rfl
@[simp] theorem Channel.setRing_frz (x : Channel) (r : BitVec 6) (d : RingD) : (x.setRing r d).frz = x.frz := rfl
@[simp] theorem Channel.setRing_link (x : Channel) (r : BitVec 6) (d : RingD) : (x.setRing r d).link = x.link := rfl
@[simp] theorem Channel.setRing_cas (x : Channel) (r : BitVec 6) (d : RingD) : (x.setRing r d).cas = x.cas := rfl
@[simp] theorem Channel.setRing_can (x : Channel) (r : BitVec 6) (d : RingD) : (x.setRing r d).can = x.can := rfl
@[simp] theorem Channel.setRing_intake (x : Channel) (r : BitVec 6) (d : RingD) : (x.setRing r d).intake = x.intake := rfl
@[simp] theorem Channel.setRing_draws (x : Channel) (r : BitVec 6) (d : RingD) : (x.setRing r d).draws = x.draws := rfl
@[simp] theorem Channel.setRing_odd (x : Channel) (r : BitVec 6) (d : RingD) : (x.setRing r d).odd = x.odd := rfl
@[simp] theorem Channel.setRing_hostWr (x : Channel) (r : BitVec 6) (d : RingD) : (x.setRing r d).hostWr = x.hostWr := rfl

@[simp] theorem Channel.setAcc_regs (x : Channel) (k : Fin 2) (a : Acc) : (x.setAcc k a).regs = x.regs := rfl
@[simp] theorem Channel.setAcc_latch (x : Channel) (k : Fin 2) (a : Acc) : (x.setAcc k a).latch = x.latch := rfl
@[simp] theorem Channel.setAcc_stage (x : Channel) (k : Fin 2) (a : Acc) : (x.setAcc k a).stage = x.stage := rfl
@[simp] theorem Channel.setAcc_ownLatch (x : Channel) (k : Fin 2) (a : Acc) : (x.setAcc k a).ownLatch = x.ownLatch := rfl
@[simp] theorem Channel.setAcc_ownStage (x : Channel) (k : Fin 2) (a : Acc) : (x.setAcc k a).ownStage = x.ownStage := rfl
@[simp] theorem Channel.setAcc_fenced (x : Channel) (k : Fin 2) (a : Acc) : (x.setAcc k a).fenced = x.fenced := rfl
@[simp] theorem Channel.setAcc_seq (x : Channel) (k : Fin 2) (a : Acc) : (x.setAcc k a).seq = x.seq := rfl
@[simp] theorem Channel.setAcc_pm (x : Channel) (k : Fin 2) (a : Acc) : (x.setAcc k a).pm = x.pm := rfl
@[simp] theorem Channel.setAcc_cmd (x : Channel) (k : Fin 2) (a : Acc) : (x.setAcc k a).cmd = x.cmd := rfl
@[simp] theorem Channel.setAcc_spad (x : Channel) (k : Fin 2) (a : Acc) : (x.setAcc k a).spad = x.spad := rfl
@[simp] theorem Channel.setAcc_rings (x : Channel) (k : Fin 2) (a : Acc) : (x.setAcc k a).rings = x.rings := rfl
@[simp] theorem Channel.setAcc_dram (x : Channel) (k : Fin 2) (a : Acc) : (x.setAcc k a).dram = x.dram := rfl
@[simp] theorem Channel.setAcc_front (x : Channel) (k : Fin 2) (a : Acc) : (x.setAcc k a).front = x.front := rfl
@[simp] theorem Channel.setAcc_dma (x : Channel) (k : Fin 2) (a : Acc) : (x.setAcc k a).dma = x.dma := rfl
@[simp] theorem Channel.setAcc_ptu (x : Channel) (k : Fin 2) (a : Acc) : (x.setAcc k a).ptu = x.ptu := rfl
@[simp] theorem Channel.setAcc_attn (x : Channel) (k : Fin 2) (a : Acc) : (x.setAcc k a).attn = x.attn := rfl
@[simp] theorem Channel.setAcc_arrs (x : Channel) (k : Fin 2) (a : Acc) : (x.setAcc k a).arrs = x.arrs := rfl
@[simp] theorem Channel.setAcc_scan (x : Channel) (k : Fin 2) (a : Acc) : (x.setAcc k a).scan = x.scan := rfl
@[simp] theorem Channel.setAcc_win (x : Channel) (k : Fin 2) (a : Acc) : (x.setAcc k a).win = x.win := rfl
@[simp] theorem Channel.setAcc_joint (x : Channel) (k : Fin 2) (a : Acc) : (x.setAcc k a).joint = x.joint := rfl
@[simp] theorem Channel.setAcc_issued (x : Channel) (k : Fin 2) (a : Acc) : (x.setAcc k a).issued = x.issued := rfl
@[simp] theorem Channel.setAcc_restore (x : Channel) (k : Fin 2) (a : Acc) : (x.setAcc k a).restore = x.restore := rfl
@[simp] theorem Channel.setAcc_raised (x : Channel) (k : Fin 2) (a : Acc) : (x.setAcc k a).raised = x.raised := rfl
@[simp] theorem Channel.setAcc_aside (x : Channel) (k : Fin 2) (a : Acc) : (x.setAcc k a).aside = x.aside := rfl
@[simp] theorem Channel.setAcc_servo (x : Channel) (k : Fin 2) (a : Acc) : (x.setAcc k a).servo = x.servo := rfl
@[simp] theorem Channel.setAcc_drv (x : Channel) (k : Fin 2) (a : Acc) : (x.setAcc k a).drv = x.drv := rfl
@[simp] theorem Channel.setAcc_alm (x : Channel) (k : Fin 2) (a : Acc) : (x.setAcc k a).alm = x.alm := rfl
@[simp] theorem Channel.setAcc_frz (x : Channel) (k : Fin 2) (a : Acc) : (x.setAcc k a).frz = x.frz := rfl
@[simp] theorem Channel.setAcc_link (x : Channel) (k : Fin 2) (a : Acc) : (x.setAcc k a).link = x.link := rfl
@[simp] theorem Channel.setAcc_cas (x : Channel) (k : Fin 2) (a : Acc) : (x.setAcc k a).cas = x.cas := rfl
@[simp] theorem Channel.setAcc_can (x : Channel) (k : Fin 2) (a : Acc) : (x.setAcc k a).can = x.can := rfl
@[simp] theorem Channel.setAcc_intake (x : Channel) (k : Fin 2) (a : Acc) : (x.setAcc k a).intake = x.intake := rfl
@[simp] theorem Channel.setAcc_draws (x : Channel) (k : Fin 2) (a : Acc) : (x.setAcc k a).draws = x.draws := rfl
@[simp] theorem Channel.setAcc_odd (x : Channel) (k : Fin 2) (a : Acc) : (x.setAcc k a).odd = x.odd := rfl
@[simp] theorem Channel.setAcc_hostWr (x : Channel) (k : Fin 2) (a : Acc) : (x.setAcc k a).hostWr = x.hostWr := rfl

@[simp] theorem Channel.setArr_regs (x : Channel) (k : Fin 2) (a : Arr) : (x.setArr k a).regs = x.regs := rfl
@[simp] theorem Channel.setArr_latch (x : Channel) (k : Fin 2) (a : Arr) : (x.setArr k a).latch = x.latch := rfl
@[simp] theorem Channel.setArr_stage (x : Channel) (k : Fin 2) (a : Arr) : (x.setArr k a).stage = x.stage := rfl
@[simp] theorem Channel.setArr_ownLatch (x : Channel) (k : Fin 2) (a : Arr) : (x.setArr k a).ownLatch = x.ownLatch := rfl
@[simp] theorem Channel.setArr_ownStage (x : Channel) (k : Fin 2) (a : Arr) : (x.setArr k a).ownStage = x.ownStage := rfl
@[simp] theorem Channel.setArr_fenced (x : Channel) (k : Fin 2) (a : Arr) : (x.setArr k a).fenced = x.fenced := rfl
@[simp] theorem Channel.setArr_seq (x : Channel) (k : Fin 2) (a : Arr) : (x.setArr k a).seq = x.seq := rfl
@[simp] theorem Channel.setArr_pm (x : Channel) (k : Fin 2) (a : Arr) : (x.setArr k a).pm = x.pm := rfl
@[simp] theorem Channel.setArr_cmd (x : Channel) (k : Fin 2) (a : Arr) : (x.setArr k a).cmd = x.cmd := rfl
@[simp] theorem Channel.setArr_spad (x : Channel) (k : Fin 2) (a : Arr) : (x.setArr k a).spad = x.spad := rfl
@[simp] theorem Channel.setArr_acc (x : Channel) (k : Fin 2) (a : Arr) : (x.setArr k a).acc = x.acc := rfl
@[simp] theorem Channel.setArr_rings (x : Channel) (k : Fin 2) (a : Arr) : (x.setArr k a).rings = x.rings := rfl
@[simp] theorem Channel.setArr_dram (x : Channel) (k : Fin 2) (a : Arr) : (x.setArr k a).dram = x.dram := rfl
@[simp] theorem Channel.setArr_front (x : Channel) (k : Fin 2) (a : Arr) : (x.setArr k a).front = x.front := rfl
@[simp] theorem Channel.setArr_dma (x : Channel) (k : Fin 2) (a : Arr) : (x.setArr k a).dma = x.dma := rfl
@[simp] theorem Channel.setArr_ptu (x : Channel) (k : Fin 2) (a : Arr) : (x.setArr k a).ptu = x.ptu := rfl
@[simp] theorem Channel.setArr_attn (x : Channel) (k : Fin 2) (a : Arr) : (x.setArr k a).attn = x.attn := rfl
@[simp] theorem Channel.setArr_scan (x : Channel) (k : Fin 2) (a : Arr) : (x.setArr k a).scan = x.scan := rfl
@[simp] theorem Channel.setArr_win (x : Channel) (k : Fin 2) (a : Arr) : (x.setArr k a).win = x.win := rfl
@[simp] theorem Channel.setArr_joint (x : Channel) (k : Fin 2) (a : Arr) : (x.setArr k a).joint = x.joint := rfl
@[simp] theorem Channel.setArr_issued (x : Channel) (k : Fin 2) (a : Arr) : (x.setArr k a).issued = x.issued := rfl
@[simp] theorem Channel.setArr_restore (x : Channel) (k : Fin 2) (a : Arr) : (x.setArr k a).restore = x.restore := rfl
@[simp] theorem Channel.setArr_raised (x : Channel) (k : Fin 2) (a : Arr) : (x.setArr k a).raised = x.raised := rfl
@[simp] theorem Channel.setArr_aside (x : Channel) (k : Fin 2) (a : Arr) : (x.setArr k a).aside = x.aside := rfl
@[simp] theorem Channel.setArr_servo (x : Channel) (k : Fin 2) (a : Arr) : (x.setArr k a).servo = x.servo := rfl
@[simp] theorem Channel.setArr_drv (x : Channel) (k : Fin 2) (a : Arr) : (x.setArr k a).drv = x.drv := rfl
@[simp] theorem Channel.setArr_alm (x : Channel) (k : Fin 2) (a : Arr) : (x.setArr k a).alm = x.alm := rfl
@[simp] theorem Channel.setArr_frz (x : Channel) (k : Fin 2) (a : Arr) : (x.setArr k a).frz = x.frz := rfl
@[simp] theorem Channel.setArr_link (x : Channel) (k : Fin 2) (a : Arr) : (x.setArr k a).link = x.link := rfl
@[simp] theorem Channel.setArr_cas (x : Channel) (k : Fin 2) (a : Arr) : (x.setArr k a).cas = x.cas := rfl
@[simp] theorem Channel.setArr_can (x : Channel) (k : Fin 2) (a : Arr) : (x.setArr k a).can = x.can := rfl
@[simp] theorem Channel.setArr_intake (x : Channel) (k : Fin 2) (a : Arr) : (x.setArr k a).intake = x.intake := rfl
@[simp] theorem Channel.setArr_draws (x : Channel) (k : Fin 2) (a : Arr) : (x.setArr k a).draws = x.draws := rfl
@[simp] theorem Channel.setArr_odd (x : Channel) (k : Fin 2) (a : Arr) : (x.setArr k a).odd = x.odd := rfl
@[simp] theorem Channel.setArr_hostWr (x : Channel) (k : Fin 2) (a : Arr) : (x.setArr k a).hostWr = x.hostWr := rfl

@[simp] theorem Channel.modServo_regs (x : Channel) (f : Servo → Servo) : (x.modServo f).regs = x.regs := rfl
@[simp] theorem Channel.modServo_latch (x : Channel) (f : Servo → Servo) : (x.modServo f).latch = x.latch := rfl
@[simp] theorem Channel.modServo_stage (x : Channel) (f : Servo → Servo) : (x.modServo f).stage = x.stage := rfl
@[simp] theorem Channel.modServo_ownLatch (x : Channel) (f : Servo → Servo) : (x.modServo f).ownLatch = x.ownLatch := rfl
@[simp] theorem Channel.modServo_ownStage (x : Channel) (f : Servo → Servo) : (x.modServo f).ownStage = x.ownStage := rfl
@[simp] theorem Channel.modServo_fenced (x : Channel) (f : Servo → Servo) : (x.modServo f).fenced = x.fenced := rfl
@[simp] theorem Channel.modServo_seq (x : Channel) (f : Servo → Servo) : (x.modServo f).seq = x.seq := rfl
@[simp] theorem Channel.modServo_pm (x : Channel) (f : Servo → Servo) : (x.modServo f).pm = x.pm := rfl
@[simp] theorem Channel.modServo_cmd (x : Channel) (f : Servo → Servo) : (x.modServo f).cmd = x.cmd := rfl
@[simp] theorem Channel.modServo_spad (x : Channel) (f : Servo → Servo) : (x.modServo f).spad = x.spad := rfl
@[simp] theorem Channel.modServo_acc (x : Channel) (f : Servo → Servo) : (x.modServo f).acc = x.acc := rfl
@[simp] theorem Channel.modServo_rings (x : Channel) (f : Servo → Servo) : (x.modServo f).rings = x.rings := rfl
@[simp] theorem Channel.modServo_dram (x : Channel) (f : Servo → Servo) : (x.modServo f).dram = x.dram := rfl
@[simp] theorem Channel.modServo_front (x : Channel) (f : Servo → Servo) : (x.modServo f).front = x.front := rfl
@[simp] theorem Channel.modServo_dma (x : Channel) (f : Servo → Servo) : (x.modServo f).dma = x.dma := rfl
@[simp] theorem Channel.modServo_ptu (x : Channel) (f : Servo → Servo) : (x.modServo f).ptu = x.ptu := rfl
@[simp] theorem Channel.modServo_attn (x : Channel) (f : Servo → Servo) : (x.modServo f).attn = x.attn := rfl
@[simp] theorem Channel.modServo_arrs (x : Channel) (f : Servo → Servo) : (x.modServo f).arrs = x.arrs := rfl
@[simp] theorem Channel.modServo_scan (x : Channel) (f : Servo → Servo) : (x.modServo f).scan = x.scan := rfl
@[simp] theorem Channel.modServo_win (x : Channel) (f : Servo → Servo) : (x.modServo f).win = x.win := rfl
@[simp] theorem Channel.modServo_joint (x : Channel) (f : Servo → Servo) : (x.modServo f).joint = x.joint := rfl
@[simp] theorem Channel.modServo_issued (x : Channel) (f : Servo → Servo) : (x.modServo f).issued = x.issued := rfl
@[simp] theorem Channel.modServo_restore (x : Channel) (f : Servo → Servo) : (x.modServo f).restore = x.restore := rfl
@[simp] theorem Channel.modServo_raised (x : Channel) (f : Servo → Servo) : (x.modServo f).raised = x.raised := rfl
@[simp] theorem Channel.modServo_aside (x : Channel) (f : Servo → Servo) : (x.modServo f).aside = x.aside := rfl
@[simp] theorem Channel.modServo_drv (x : Channel) (f : Servo → Servo) : (x.modServo f).drv = x.drv := rfl
@[simp] theorem Channel.modServo_alm (x : Channel) (f : Servo → Servo) : (x.modServo f).alm = x.alm := rfl
@[simp] theorem Channel.modServo_frz (x : Channel) (f : Servo → Servo) : (x.modServo f).frz = x.frz := rfl
@[simp] theorem Channel.modServo_link (x : Channel) (f : Servo → Servo) : (x.modServo f).link = x.link := rfl
@[simp] theorem Channel.modServo_cas (x : Channel) (f : Servo → Servo) : (x.modServo f).cas = x.cas := rfl
@[simp] theorem Channel.modServo_can (x : Channel) (f : Servo → Servo) : (x.modServo f).can = x.can := rfl
@[simp] theorem Channel.modServo_intake (x : Channel) (f : Servo → Servo) : (x.modServo f).intake = x.intake := rfl
@[simp] theorem Channel.modServo_draws (x : Channel) (f : Servo → Servo) : (x.modServo f).draws = x.draws := rfl
@[simp] theorem Channel.modServo_odd (x : Channel) (f : Servo → Servo) : (x.modServo f).odd = x.odd := rfl
@[simp] theorem Channel.modServo_hostWr (x : Channel) (f : Servo → Servo) : (x.modServo f).hostWr = x.hostWr := rfl

@[simp] theorem Channel.modDrv_regs (x : Channel) (f : Drv → Drv) : (x.modDrv f).regs = x.regs := rfl
@[simp] theorem Channel.modDrv_latch (x : Channel) (f : Drv → Drv) : (x.modDrv f).latch = x.latch := rfl
@[simp] theorem Channel.modDrv_stage (x : Channel) (f : Drv → Drv) : (x.modDrv f).stage = x.stage := rfl
@[simp] theorem Channel.modDrv_ownLatch (x : Channel) (f : Drv → Drv) : (x.modDrv f).ownLatch = x.ownLatch := rfl
@[simp] theorem Channel.modDrv_ownStage (x : Channel) (f : Drv → Drv) : (x.modDrv f).ownStage = x.ownStage := rfl
@[simp] theorem Channel.modDrv_fenced (x : Channel) (f : Drv → Drv) : (x.modDrv f).fenced = x.fenced := rfl
@[simp] theorem Channel.modDrv_seq (x : Channel) (f : Drv → Drv) : (x.modDrv f).seq = x.seq := rfl
@[simp] theorem Channel.modDrv_pm (x : Channel) (f : Drv → Drv) : (x.modDrv f).pm = x.pm := rfl
@[simp] theorem Channel.modDrv_cmd (x : Channel) (f : Drv → Drv) : (x.modDrv f).cmd = x.cmd := rfl
@[simp] theorem Channel.modDrv_spad (x : Channel) (f : Drv → Drv) : (x.modDrv f).spad = x.spad := rfl
@[simp] theorem Channel.modDrv_acc (x : Channel) (f : Drv → Drv) : (x.modDrv f).acc = x.acc := rfl
@[simp] theorem Channel.modDrv_rings (x : Channel) (f : Drv → Drv) : (x.modDrv f).rings = x.rings := rfl
@[simp] theorem Channel.modDrv_dram (x : Channel) (f : Drv → Drv) : (x.modDrv f).dram = x.dram := rfl
@[simp] theorem Channel.modDrv_front (x : Channel) (f : Drv → Drv) : (x.modDrv f).front = x.front := rfl
@[simp] theorem Channel.modDrv_dma (x : Channel) (f : Drv → Drv) : (x.modDrv f).dma = x.dma := rfl
@[simp] theorem Channel.modDrv_ptu (x : Channel) (f : Drv → Drv) : (x.modDrv f).ptu = x.ptu := rfl
@[simp] theorem Channel.modDrv_attn (x : Channel) (f : Drv → Drv) : (x.modDrv f).attn = x.attn := rfl
@[simp] theorem Channel.modDrv_arrs (x : Channel) (f : Drv → Drv) : (x.modDrv f).arrs = x.arrs := rfl
@[simp] theorem Channel.modDrv_scan (x : Channel) (f : Drv → Drv) : (x.modDrv f).scan = x.scan := rfl
@[simp] theorem Channel.modDrv_win (x : Channel) (f : Drv → Drv) : (x.modDrv f).win = x.win := rfl
@[simp] theorem Channel.modDrv_joint (x : Channel) (f : Drv → Drv) : (x.modDrv f).joint = x.joint := rfl
@[simp] theorem Channel.modDrv_issued (x : Channel) (f : Drv → Drv) : (x.modDrv f).issued = x.issued := rfl
@[simp] theorem Channel.modDrv_restore (x : Channel) (f : Drv → Drv) : (x.modDrv f).restore = x.restore := rfl
@[simp] theorem Channel.modDrv_raised (x : Channel) (f : Drv → Drv) : (x.modDrv f).raised = x.raised := rfl
@[simp] theorem Channel.modDrv_aside (x : Channel) (f : Drv → Drv) : (x.modDrv f).aside = x.aside := rfl
@[simp] theorem Channel.modDrv_servo (x : Channel) (f : Drv → Drv) : (x.modDrv f).servo = x.servo := rfl
@[simp] theorem Channel.modDrv_alm (x : Channel) (f : Drv → Drv) : (x.modDrv f).alm = x.alm := rfl
@[simp] theorem Channel.modDrv_frz (x : Channel) (f : Drv → Drv) : (x.modDrv f).frz = x.frz := rfl
@[simp] theorem Channel.modDrv_link (x : Channel) (f : Drv → Drv) : (x.modDrv f).link = x.link := rfl
@[simp] theorem Channel.modDrv_cas (x : Channel) (f : Drv → Drv) : (x.modDrv f).cas = x.cas := rfl
@[simp] theorem Channel.modDrv_can (x : Channel) (f : Drv → Drv) : (x.modDrv f).can = x.can := rfl
@[simp] theorem Channel.modDrv_intake (x : Channel) (f : Drv → Drv) : (x.modDrv f).intake = x.intake := rfl
@[simp] theorem Channel.modDrv_draws (x : Channel) (f : Drv → Drv) : (x.modDrv f).draws = x.draws := rfl
@[simp] theorem Channel.modDrv_odd (x : Channel) (f : Drv → Drv) : (x.modDrv f).odd = x.odd := rfl
@[simp] theorem Channel.modDrv_hostWr (x : Channel) (f : Drv → Drv) : (x.modDrv f).hostWr = x.hostWr := rfl

@[simp] theorem Channel.modAlm_regs (x : Channel) (f : Almanac → Almanac) : (x.modAlm f).regs = x.regs := rfl
@[simp] theorem Channel.modAlm_latch (x : Channel) (f : Almanac → Almanac) : (x.modAlm f).latch = x.latch := rfl
@[simp] theorem Channel.modAlm_stage (x : Channel) (f : Almanac → Almanac) : (x.modAlm f).stage = x.stage := rfl
@[simp] theorem Channel.modAlm_ownLatch (x : Channel) (f : Almanac → Almanac) : (x.modAlm f).ownLatch = x.ownLatch := rfl
@[simp] theorem Channel.modAlm_ownStage (x : Channel) (f : Almanac → Almanac) : (x.modAlm f).ownStage = x.ownStage := rfl
@[simp] theorem Channel.modAlm_fenced (x : Channel) (f : Almanac → Almanac) : (x.modAlm f).fenced = x.fenced := rfl
@[simp] theorem Channel.modAlm_seq (x : Channel) (f : Almanac → Almanac) : (x.modAlm f).seq = x.seq := rfl
@[simp] theorem Channel.modAlm_pm (x : Channel) (f : Almanac → Almanac) : (x.modAlm f).pm = x.pm := rfl
@[simp] theorem Channel.modAlm_cmd (x : Channel) (f : Almanac → Almanac) : (x.modAlm f).cmd = x.cmd := rfl
@[simp] theorem Channel.modAlm_spad (x : Channel) (f : Almanac → Almanac) : (x.modAlm f).spad = x.spad := rfl
@[simp] theorem Channel.modAlm_acc (x : Channel) (f : Almanac → Almanac) : (x.modAlm f).acc = x.acc := rfl
@[simp] theorem Channel.modAlm_rings (x : Channel) (f : Almanac → Almanac) : (x.modAlm f).rings = x.rings := rfl
@[simp] theorem Channel.modAlm_dram (x : Channel) (f : Almanac → Almanac) : (x.modAlm f).dram = x.dram := rfl
@[simp] theorem Channel.modAlm_front (x : Channel) (f : Almanac → Almanac) : (x.modAlm f).front = x.front := rfl
@[simp] theorem Channel.modAlm_dma (x : Channel) (f : Almanac → Almanac) : (x.modAlm f).dma = x.dma := rfl
@[simp] theorem Channel.modAlm_ptu (x : Channel) (f : Almanac → Almanac) : (x.modAlm f).ptu = x.ptu := rfl
@[simp] theorem Channel.modAlm_attn (x : Channel) (f : Almanac → Almanac) : (x.modAlm f).attn = x.attn := rfl
@[simp] theorem Channel.modAlm_arrs (x : Channel) (f : Almanac → Almanac) : (x.modAlm f).arrs = x.arrs := rfl
@[simp] theorem Channel.modAlm_scan (x : Channel) (f : Almanac → Almanac) : (x.modAlm f).scan = x.scan := rfl
@[simp] theorem Channel.modAlm_win (x : Channel) (f : Almanac → Almanac) : (x.modAlm f).win = x.win := rfl
@[simp] theorem Channel.modAlm_joint (x : Channel) (f : Almanac → Almanac) : (x.modAlm f).joint = x.joint := rfl
@[simp] theorem Channel.modAlm_issued (x : Channel) (f : Almanac → Almanac) : (x.modAlm f).issued = x.issued := rfl
@[simp] theorem Channel.modAlm_restore (x : Channel) (f : Almanac → Almanac) : (x.modAlm f).restore = x.restore := rfl
@[simp] theorem Channel.modAlm_raised (x : Channel) (f : Almanac → Almanac) : (x.modAlm f).raised = x.raised := rfl
@[simp] theorem Channel.modAlm_aside (x : Channel) (f : Almanac → Almanac) : (x.modAlm f).aside = x.aside := rfl
@[simp] theorem Channel.modAlm_servo (x : Channel) (f : Almanac → Almanac) : (x.modAlm f).servo = x.servo := rfl
@[simp] theorem Channel.modAlm_drv (x : Channel) (f : Almanac → Almanac) : (x.modAlm f).drv = x.drv := rfl
@[simp] theorem Channel.modAlm_frz (x : Channel) (f : Almanac → Almanac) : (x.modAlm f).frz = x.frz := rfl
@[simp] theorem Channel.modAlm_link (x : Channel) (f : Almanac → Almanac) : (x.modAlm f).link = x.link := rfl
@[simp] theorem Channel.modAlm_cas (x : Channel) (f : Almanac → Almanac) : (x.modAlm f).cas = x.cas := rfl
@[simp] theorem Channel.modAlm_can (x : Channel) (f : Almanac → Almanac) : (x.modAlm f).can = x.can := rfl
@[simp] theorem Channel.modAlm_intake (x : Channel) (f : Almanac → Almanac) : (x.modAlm f).intake = x.intake := rfl
@[simp] theorem Channel.modAlm_draws (x : Channel) (f : Almanac → Almanac) : (x.modAlm f).draws = x.draws := rfl
@[simp] theorem Channel.modAlm_odd (x : Channel) (f : Almanac → Almanac) : (x.modAlm f).odd = x.odd := rfl
@[simp] theorem Channel.modAlm_hostWr (x : Channel) (f : Almanac → Almanac) : (x.modAlm f).hostWr = x.hostWr := rfl

@[simp] theorem Channel.modCan_regs (x : Channel) (f : Can → Can) : (x.modCan f).regs = x.regs := rfl
@[simp] theorem Channel.modCan_latch (x : Channel) (f : Can → Can) : (x.modCan f).latch = x.latch := rfl
@[simp] theorem Channel.modCan_stage (x : Channel) (f : Can → Can) : (x.modCan f).stage = x.stage := rfl
@[simp] theorem Channel.modCan_ownLatch (x : Channel) (f : Can → Can) : (x.modCan f).ownLatch = x.ownLatch := rfl
@[simp] theorem Channel.modCan_ownStage (x : Channel) (f : Can → Can) : (x.modCan f).ownStage = x.ownStage := rfl
@[simp] theorem Channel.modCan_fenced (x : Channel) (f : Can → Can) : (x.modCan f).fenced = x.fenced := rfl
@[simp] theorem Channel.modCan_seq (x : Channel) (f : Can → Can) : (x.modCan f).seq = x.seq := rfl
@[simp] theorem Channel.modCan_pm (x : Channel) (f : Can → Can) : (x.modCan f).pm = x.pm := rfl
@[simp] theorem Channel.modCan_cmd (x : Channel) (f : Can → Can) : (x.modCan f).cmd = x.cmd := rfl
@[simp] theorem Channel.modCan_spad (x : Channel) (f : Can → Can) : (x.modCan f).spad = x.spad := rfl
@[simp] theorem Channel.modCan_acc (x : Channel) (f : Can → Can) : (x.modCan f).acc = x.acc := rfl
@[simp] theorem Channel.modCan_rings (x : Channel) (f : Can → Can) : (x.modCan f).rings = x.rings := rfl
@[simp] theorem Channel.modCan_dram (x : Channel) (f : Can → Can) : (x.modCan f).dram = x.dram := rfl
@[simp] theorem Channel.modCan_front (x : Channel) (f : Can → Can) : (x.modCan f).front = x.front := rfl
@[simp] theorem Channel.modCan_dma (x : Channel) (f : Can → Can) : (x.modCan f).dma = x.dma := rfl
@[simp] theorem Channel.modCan_ptu (x : Channel) (f : Can → Can) : (x.modCan f).ptu = x.ptu := rfl
@[simp] theorem Channel.modCan_attn (x : Channel) (f : Can → Can) : (x.modCan f).attn = x.attn := rfl
@[simp] theorem Channel.modCan_arrs (x : Channel) (f : Can → Can) : (x.modCan f).arrs = x.arrs := rfl
@[simp] theorem Channel.modCan_scan (x : Channel) (f : Can → Can) : (x.modCan f).scan = x.scan := rfl
@[simp] theorem Channel.modCan_win (x : Channel) (f : Can → Can) : (x.modCan f).win = x.win := rfl
@[simp] theorem Channel.modCan_joint (x : Channel) (f : Can → Can) : (x.modCan f).joint = x.joint := rfl
@[simp] theorem Channel.modCan_issued (x : Channel) (f : Can → Can) : (x.modCan f).issued = x.issued := rfl
@[simp] theorem Channel.modCan_restore (x : Channel) (f : Can → Can) : (x.modCan f).restore = x.restore := rfl
@[simp] theorem Channel.modCan_raised (x : Channel) (f : Can → Can) : (x.modCan f).raised = x.raised := rfl
@[simp] theorem Channel.modCan_aside (x : Channel) (f : Can → Can) : (x.modCan f).aside = x.aside := rfl
@[simp] theorem Channel.modCan_servo (x : Channel) (f : Can → Can) : (x.modCan f).servo = x.servo := rfl
@[simp] theorem Channel.modCan_drv (x : Channel) (f : Can → Can) : (x.modCan f).drv = x.drv := rfl
@[simp] theorem Channel.modCan_alm (x : Channel) (f : Can → Can) : (x.modCan f).alm = x.alm := rfl
@[simp] theorem Channel.modCan_frz (x : Channel) (f : Can → Can) : (x.modCan f).frz = x.frz := rfl
@[simp] theorem Channel.modCan_link (x : Channel) (f : Can → Can) : (x.modCan f).link = x.link := rfl
@[simp] theorem Channel.modCan_cas (x : Channel) (f : Can → Can) : (x.modCan f).cas = x.cas := rfl
@[simp] theorem Channel.modCan_intake (x : Channel) (f : Can → Can) : (x.modCan f).intake = x.intake := rfl
@[simp] theorem Channel.modCan_draws (x : Channel) (f : Can → Can) : (x.modCan f).draws = x.draws := rfl
@[simp] theorem Channel.modCan_odd (x : Channel) (f : Can → Can) : (x.modCan f).odd = x.odd := rfl
@[simp] theorem Channel.modCan_hostWr (x : Channel) (f : Can → Can) : (x.modCan f).hostWr = x.hostWr := rfl

@[simp] theorem Channel.modCas_regs (x : Channel) (f : Cas → Cas) : (x.modCas f).regs = x.regs := rfl
@[simp] theorem Channel.modCas_latch (x : Channel) (f : Cas → Cas) : (x.modCas f).latch = x.latch := rfl
@[simp] theorem Channel.modCas_stage (x : Channel) (f : Cas → Cas) : (x.modCas f).stage = x.stage := rfl
@[simp] theorem Channel.modCas_ownLatch (x : Channel) (f : Cas → Cas) : (x.modCas f).ownLatch = x.ownLatch := rfl
@[simp] theorem Channel.modCas_ownStage (x : Channel) (f : Cas → Cas) : (x.modCas f).ownStage = x.ownStage := rfl
@[simp] theorem Channel.modCas_fenced (x : Channel) (f : Cas → Cas) : (x.modCas f).fenced = x.fenced := rfl
@[simp] theorem Channel.modCas_seq (x : Channel) (f : Cas → Cas) : (x.modCas f).seq = x.seq := rfl
@[simp] theorem Channel.modCas_pm (x : Channel) (f : Cas → Cas) : (x.modCas f).pm = x.pm := rfl
@[simp] theorem Channel.modCas_cmd (x : Channel) (f : Cas → Cas) : (x.modCas f).cmd = x.cmd := rfl
@[simp] theorem Channel.modCas_spad (x : Channel) (f : Cas → Cas) : (x.modCas f).spad = x.spad := rfl
@[simp] theorem Channel.modCas_acc (x : Channel) (f : Cas → Cas) : (x.modCas f).acc = x.acc := rfl
@[simp] theorem Channel.modCas_rings (x : Channel) (f : Cas → Cas) : (x.modCas f).rings = x.rings := rfl
@[simp] theorem Channel.modCas_dram (x : Channel) (f : Cas → Cas) : (x.modCas f).dram = x.dram := rfl
@[simp] theorem Channel.modCas_front (x : Channel) (f : Cas → Cas) : (x.modCas f).front = x.front := rfl
@[simp] theorem Channel.modCas_dma (x : Channel) (f : Cas → Cas) : (x.modCas f).dma = x.dma := rfl
@[simp] theorem Channel.modCas_ptu (x : Channel) (f : Cas → Cas) : (x.modCas f).ptu = x.ptu := rfl
@[simp] theorem Channel.modCas_attn (x : Channel) (f : Cas → Cas) : (x.modCas f).attn = x.attn := rfl
@[simp] theorem Channel.modCas_arrs (x : Channel) (f : Cas → Cas) : (x.modCas f).arrs = x.arrs := rfl
@[simp] theorem Channel.modCas_scan (x : Channel) (f : Cas → Cas) : (x.modCas f).scan = x.scan := rfl
@[simp] theorem Channel.modCas_win (x : Channel) (f : Cas → Cas) : (x.modCas f).win = x.win := rfl
@[simp] theorem Channel.modCas_joint (x : Channel) (f : Cas → Cas) : (x.modCas f).joint = x.joint := rfl
@[simp] theorem Channel.modCas_issued (x : Channel) (f : Cas → Cas) : (x.modCas f).issued = x.issued := rfl
@[simp] theorem Channel.modCas_restore (x : Channel) (f : Cas → Cas) : (x.modCas f).restore = x.restore := rfl
@[simp] theorem Channel.modCas_raised (x : Channel) (f : Cas → Cas) : (x.modCas f).raised = x.raised := rfl
@[simp] theorem Channel.modCas_aside (x : Channel) (f : Cas → Cas) : (x.modCas f).aside = x.aside := rfl
@[simp] theorem Channel.modCas_servo (x : Channel) (f : Cas → Cas) : (x.modCas f).servo = x.servo := rfl
@[simp] theorem Channel.modCas_drv (x : Channel) (f : Cas → Cas) : (x.modCas f).drv = x.drv := rfl
@[simp] theorem Channel.modCas_alm (x : Channel) (f : Cas → Cas) : (x.modCas f).alm = x.alm := rfl
@[simp] theorem Channel.modCas_frz (x : Channel) (f : Cas → Cas) : (x.modCas f).frz = x.frz := rfl
@[simp] theorem Channel.modCas_link (x : Channel) (f : Cas → Cas) : (x.modCas f).link = x.link := rfl
@[simp] theorem Channel.modCas_can (x : Channel) (f : Cas → Cas) : (x.modCas f).can = x.can := rfl
@[simp] theorem Channel.modCas_intake (x : Channel) (f : Cas → Cas) : (x.modCas f).intake = x.intake := rfl
@[simp] theorem Channel.modCas_draws (x : Channel) (f : Cas → Cas) : (x.modCas f).draws = x.draws := rfl
@[simp] theorem Channel.modCas_odd (x : Channel) (f : Cas → Cas) : (x.modCas f).odd = x.odd := rfl
@[simp] theorem Channel.modCas_hostWr (x : Channel) (f : Cas → Cas) : (x.modCas f).hostWr = x.hostWr := rfl

/-! ## Updates of a sequencer -/

@[simp] theorem Seq.ws_a (q : Seq) (i : BitVec 5) (v : Dword) : (q.ws i v).a = q.a := by
  unfold Seq.ws; split <;> rfl
@[simp] theorem Seq.ws_p (q : Seq) (i : BitVec 5) (v : Dword) : (q.ws i v).p = q.p := by
  unfold Seq.ws; split <;> rfl
@[simp] theorem Seq.ws_v (q : Seq) (i : BitVec 5) (v : Dword) : (q.ws i v).v = q.v := by
  unfold Seq.ws; split <;> rfl
@[simp] theorem Seq.ws_t (q : Seq) (i : BitVec 5) (v : Dword) : (q.ws i v).t = q.t := by
  unfold Seq.ws; split <;> rfl
@[simp] theorem Seq.ws_outst (q : Seq) (i : BitVec 5) (v : Dword) : (q.ws i v).outst = q.outst := by
  unfold Seq.ws; split <;> rfl
@[simp] theorem Seq.ws_pc (q : Seq) (i : BitVec 5) (v : Dword) : (q.ws i v).pc = q.pc := by
  unfold Seq.ws; split <;> rfl
@[simp] theorem Seq.ws_calls (q : Seq) (i : BitVec 5) (v : Dword) : (q.ws i v).calls = q.calls := by
  unfold Seq.ws; split <;> rfl
@[simp] theorem Seq.ws_reps (q : Seq) (i : BitVec 5) (v : Dword) : (q.ws i v).reps = q.reps := by
  unfold Seq.ws; split <;> rfl
@[simp] theorem Seq.ws_key (q : Seq) (i : BitVec 5) (v : Dword) : (q.ws i v).key = q.key := by
  unfold Seq.ws; split <;> rfl
@[simp] theorem Seq.ws_vpend (q : Seq) (i : BitVec 5) (v : Dword) : (q.ws i v).vpend = q.vpend := by
  unfold Seq.ws; split <;> rfl
@[simp] theorem Seq.ws_stall (q : Seq) (i : BitVec 5) (v : Dword) : (q.ws i v).stall = q.stall := by
  unfold Seq.ws; split <;> rfl
@[simp] theorem Seq.ws_held (q : Seq) (i : BitVec 5) (v : Dword) : (q.ws i v).held = q.held := by
  unfold Seq.ws; split <;> rfl

@[simp] theorem Seq.wa_s (q : Seq) (i : BitVec 4) (v : Dword) : (q.wa i v).s = q.s := rfl
@[simp] theorem Seq.wa_p (q : Seq) (i : BitVec 4) (v : Dword) : (q.wa i v).p = q.p := rfl
@[simp] theorem Seq.wa_v (q : Seq) (i : BitVec 4) (v : Dword) : (q.wa i v).v = q.v := rfl
@[simp] theorem Seq.wa_t (q : Seq) (i : BitVec 4) (v : Dword) : (q.wa i v).t = q.t := rfl
@[simp] theorem Seq.wa_outst (q : Seq) (i : BitVec 4) (v : Dword) : (q.wa i v).outst = q.outst := rfl
@[simp] theorem Seq.wa_pc (q : Seq) (i : BitVec 4) (v : Dword) : (q.wa i v).pc = q.pc := rfl
@[simp] theorem Seq.wa_calls (q : Seq) (i : BitVec 4) (v : Dword) : (q.wa i v).calls = q.calls := rfl
@[simp] theorem Seq.wa_reps (q : Seq) (i : BitVec 4) (v : Dword) : (q.wa i v).reps = q.reps := rfl
@[simp] theorem Seq.wa_key (q : Seq) (i : BitVec 4) (v : Dword) : (q.wa i v).key = q.key := rfl
@[simp] theorem Seq.wa_vpend (q : Seq) (i : BitVec 4) (v : Dword) : (q.wa i v).vpend = q.vpend := rfl
@[simp] theorem Seq.wa_stall (q : Seq) (i : BitVec 4) (v : Dword) : (q.wa i v).stall = q.stall := rfl
@[simp] theorem Seq.wa_held (q : Seq) (i : BitVec 4) (v : Dword) : (q.wa i v).held = q.held := rfl

@[simp] theorem Seq.wp_s (q : Seq) (i : BitVec 3) (v : Mask) : (q.wp i v).s = q.s := by
  unfold Seq.wp; split <;> rfl
@[simp] theorem Seq.wp_a (q : Seq) (i : BitVec 3) (v : Mask) : (q.wp i v).a = q.a := by
  unfold Seq.wp; split <;> rfl
@[simp] theorem Seq.wp_v (q : Seq) (i : BitVec 3) (v : Mask) : (q.wp i v).v = q.v := by
  unfold Seq.wp; split <;> rfl
@[simp] theorem Seq.wp_t (q : Seq) (i : BitVec 3) (v : Mask) : (q.wp i v).t = q.t := by
  unfold Seq.wp; split <;> rfl
@[simp] theorem Seq.wp_outst (q : Seq) (i : BitVec 3) (v : Mask) : (q.wp i v).outst = q.outst := by
  unfold Seq.wp; split <;> rfl
@[simp] theorem Seq.wp_pc (q : Seq) (i : BitVec 3) (v : Mask) : (q.wp i v).pc = q.pc := by
  unfold Seq.wp; split <;> rfl
@[simp] theorem Seq.wp_calls (q : Seq) (i : BitVec 3) (v : Mask) : (q.wp i v).calls = q.calls := by
  unfold Seq.wp; split <;> rfl
@[simp] theorem Seq.wp_reps (q : Seq) (i : BitVec 3) (v : Mask) : (q.wp i v).reps = q.reps := by
  unfold Seq.wp; split <;> rfl
@[simp] theorem Seq.wp_key (q : Seq) (i : BitVec 3) (v : Mask) : (q.wp i v).key = q.key := by
  unfold Seq.wp; split <;> rfl
@[simp] theorem Seq.wp_vpend (q : Seq) (i : BitVec 3) (v : Mask) : (q.wp i v).vpend = q.vpend := by
  unfold Seq.wp; split <;> rfl
@[simp] theorem Seq.wp_stall (q : Seq) (i : BitVec 3) (v : Mask) : (q.wp i v).stall = q.stall := by
  unfold Seq.wp; split <;> rfl
@[simp] theorem Seq.wp_held (q : Seq) (i : BitVec 3) (v : Mask) : (q.wp i v).held = q.held := by
  unfold Seq.wp; split <;> rfl

@[simp] theorem Seq.wv_s (q : Seq) (i : BitVec 4) (v : VReg) : (q.wv i v).s = q.s := rfl
@[simp] theorem Seq.wv_a (q : Seq) (i : BitVec 4) (v : VReg) : (q.wv i v).a = q.a := rfl
@[simp] theorem Seq.wv_p (q : Seq) (i : BitVec 4) (v : VReg) : (q.wv i v).p = q.p := rfl
@[simp] theorem Seq.wv_t (q : Seq) (i : BitVec 4) (v : VReg) : (q.wv i v).t = q.t := rfl
@[simp] theorem Seq.wv_outst (q : Seq) (i : BitVec 4) (v : VReg) : (q.wv i v).outst = q.outst := rfl
@[simp] theorem Seq.wv_pc (q : Seq) (i : BitVec 4) (v : VReg) : (q.wv i v).pc = q.pc := rfl
@[simp] theorem Seq.wv_calls (q : Seq) (i : BitVec 4) (v : VReg) : (q.wv i v).calls = q.calls := rfl
@[simp] theorem Seq.wv_reps (q : Seq) (i : BitVec 4) (v : VReg) : (q.wv i v).reps = q.reps := rfl
@[simp] theorem Seq.wv_key (q : Seq) (i : BitVec 4) (v : VReg) : (q.wv i v).key = q.key := rfl
@[simp] theorem Seq.wv_vpend (q : Seq) (i : BitVec 4) (v : VReg) : (q.wv i v).vpend = q.vpend := rfl
@[simp] theorem Seq.wv_stall (q : Seq) (i : BitVec 4) (v : VReg) : (q.wv i v).stall = q.stall := rfl
@[simp] theorem Seq.wv_held (q : Seq) (i : BitVec 4) (v : VReg) : (q.wv i v).held = q.held := rfl

@[simp] theorem Seq.wt_s (q : Seq) (k : BitVec 4) (v : BitVec 16) : (q.wt k v).s = q.s := by
  unfold Seq.wt; split <;> rfl
@[simp] theorem Seq.wt_a (q : Seq) (k : BitVec 4) (v : BitVec 16) : (q.wt k v).a = q.a := by
  unfold Seq.wt; split <;> rfl
@[simp] theorem Seq.wt_p (q : Seq) (k : BitVec 4) (v : BitVec 16) : (q.wt k v).p = q.p := by
  unfold Seq.wt; split <;> rfl
@[simp] theorem Seq.wt_v (q : Seq) (k : BitVec 4) (v : BitVec 16) : (q.wt k v).v = q.v := by
  unfold Seq.wt; split <;> rfl
@[simp] theorem Seq.wt_outst (q : Seq) (k : BitVec 4) (v : BitVec 16) : (q.wt k v).outst = q.outst := by
  unfold Seq.wt; split <;> rfl
@[simp] theorem Seq.wt_pc (q : Seq) (k : BitVec 4) (v : BitVec 16) : (q.wt k v).pc = q.pc := by
  unfold Seq.wt; split <;> rfl
@[simp] theorem Seq.wt_calls (q : Seq) (k : BitVec 4) (v : BitVec 16) : (q.wt k v).calls = q.calls := by
  unfold Seq.wt; split <;> rfl
@[simp] theorem Seq.wt_reps (q : Seq) (k : BitVec 4) (v : BitVec 16) : (q.wt k v).reps = q.reps := by
  unfold Seq.wt; split <;> rfl
@[simp] theorem Seq.wt_key (q : Seq) (k : BitVec 4) (v : BitVec 16) : (q.wt k v).key = q.key := by
  unfold Seq.wt; split <;> rfl
@[simp] theorem Seq.wt_vpend (q : Seq) (k : BitVec 4) (v : BitVec 16) : (q.wt k v).vpend = q.vpend := by
  unfold Seq.wt; split <;> rfl
@[simp] theorem Seq.wt_stall (q : Seq) (k : BitVec 4) (v : BitVec 16) : (q.wt k v).stall = q.stall := by
  unfold Seq.wt; split <;> rfl
@[simp] theorem Seq.wt_held (q : Seq) (k : BitVec 4) (v : BitVec 16) : (q.wt k v).held = q.held := by
  unfold Seq.wt; split <;> rfl

@[simp] theorem Seq.setOut_s (q : Seq) (k : BitVec 4) (n : Nat) : (q.setOut k n).s = q.s := rfl
@[simp] theorem Seq.setOut_a (q : Seq) (k : BitVec 4) (n : Nat) : (q.setOut k n).a = q.a := rfl
@[simp] theorem Seq.setOut_p (q : Seq) (k : BitVec 4) (n : Nat) : (q.setOut k n).p = q.p := rfl
@[simp] theorem Seq.setOut_v (q : Seq) (k : BitVec 4) (n : Nat) : (q.setOut k n).v = q.v := rfl
@[simp] theorem Seq.setOut_t (q : Seq) (k : BitVec 4) (n : Nat) : (q.setOut k n).t = q.t := rfl
@[simp] theorem Seq.setOut_pc (q : Seq) (k : BitVec 4) (n : Nat) : (q.setOut k n).pc = q.pc := rfl
@[simp] theorem Seq.setOut_calls (q : Seq) (k : BitVec 4) (n : Nat) : (q.setOut k n).calls = q.calls := rfl
@[simp] theorem Seq.setOut_reps (q : Seq) (k : BitVec 4) (n : Nat) : (q.setOut k n).reps = q.reps := rfl
@[simp] theorem Seq.setOut_key (q : Seq) (k : BitVec 4) (n : Nat) : (q.setOut k n).key = q.key := rfl
@[simp] theorem Seq.setOut_vpend (q : Seq) (k : BitVec 4) (n : Nat) : (q.setOut k n).vpend = q.vpend := rfl
@[simp] theorem Seq.setOut_stall (q : Seq) (k : BitVec 4) (n : Nat) : (q.setOut k n).stall = q.stall := rfl
@[simp] theorem Seq.setOut_held (q : Seq) (k : BitVec 4) (n : Nat) : (q.setOut k n).held = q.held := rfl

@[simp] theorem Seq.begin_s (q : Seq) (k : BitVec 4) : (q.begin k).s = q.s := rfl
@[simp] theorem Seq.begin_a (q : Seq) (k : BitVec 4) : (q.begin k).a = q.a := rfl
@[simp] theorem Seq.begin_p (q : Seq) (k : BitVec 4) : (q.begin k).p = q.p := rfl
@[simp] theorem Seq.begin_v (q : Seq) (k : BitVec 4) : (q.begin k).v = q.v := rfl
@[simp] theorem Seq.begin_t (q : Seq) (k : BitVec 4) : (q.begin k).t = q.t := rfl
@[simp] theorem Seq.begin_pc (q : Seq) (k : BitVec 4) : (q.begin k).pc = q.pc := rfl
@[simp] theorem Seq.begin_calls (q : Seq) (k : BitVec 4) : (q.begin k).calls = q.calls := rfl
@[simp] theorem Seq.begin_reps (q : Seq) (k : BitVec 4) : (q.begin k).reps = q.reps := rfl
@[simp] theorem Seq.begin_key (q : Seq) (k : BitVec 4) : (q.begin k).key = q.key := rfl
@[simp] theorem Seq.begin_vpend (q : Seq) (k : BitVec 4) : (q.begin k).vpend = q.vpend := rfl
@[simp] theorem Seq.begin_stall (q : Seq) (k : BitVec 4) : (q.begin k).stall = q.stall := rfl
@[simp] theorem Seq.begin_held (q : Seq) (k : BitVec 4) : (q.begin k).held = q.held := rfl

@[simp] theorem Seq.strike_s (q : Seq) (k : BitVec 4) : (q.strike k).s = q.s := rfl
@[simp] theorem Seq.strike_a (q : Seq) (k : BitVec 4) : (q.strike k).a = q.a := rfl
@[simp] theorem Seq.strike_p (q : Seq) (k : BitVec 4) : (q.strike k).p = q.p := rfl
@[simp] theorem Seq.strike_v (q : Seq) (k : BitVec 4) : (q.strike k).v = q.v := rfl
@[simp] theorem Seq.strike_t (q : Seq) (k : BitVec 4) : (q.strike k).t = q.t := rfl
@[simp] theorem Seq.strike_pc (q : Seq) (k : BitVec 4) : (q.strike k).pc = q.pc := rfl
@[simp] theorem Seq.strike_calls (q : Seq) (k : BitVec 4) : (q.strike k).calls = q.calls := rfl
@[simp] theorem Seq.strike_reps (q : Seq) (k : BitVec 4) : (q.strike k).reps = q.reps := rfl
@[simp] theorem Seq.strike_key (q : Seq) (k : BitVec 4) : (q.strike k).key = q.key := rfl
@[simp] theorem Seq.strike_vpend (q : Seq) (k : BitVec 4) : (q.strike k).vpend = q.vpend := rfl
@[simp] theorem Seq.strike_stall (q : Seq) (k : BitVec 4) : (q.strike k).stall = q.stall := rfl
@[simp] theorem Seq.strike_held (q : Seq) (k : BitVec 4) : (q.strike k).held = q.held := rfl

@[simp] theorem Seq.step_s (q : Seq) (pc : BitVec 15) : (q.step pc).s = q.s := rfl
@[simp] theorem Seq.step_a (q : Seq) (pc : BitVec 15) : (q.step pc).a = q.a := rfl
@[simp] theorem Seq.step_p (q : Seq) (pc : BitVec 15) : (q.step pc).p = q.p := rfl
@[simp] theorem Seq.step_v (q : Seq) (pc : BitVec 15) : (q.step pc).v = q.v := rfl
@[simp] theorem Seq.step_t (q : Seq) (pc : BitVec 15) : (q.step pc).t = q.t := rfl
@[simp] theorem Seq.step_outst (q : Seq) (pc : BitVec 15) : (q.step pc).outst = q.outst := rfl
@[simp] theorem Seq.step_calls (q : Seq) (pc : BitVec 15) : (q.step pc).calls = q.calls := rfl
@[simp] theorem Seq.step_key (q : Seq) (pc : BitVec 15) : (q.step pc).key = q.key := rfl
@[simp] theorem Seq.step_vpend (q : Seq) (pc : BitVec 15) : (q.step pc).vpend = q.vpend := rfl
@[simp] theorem Seq.step_held (q : Seq) (pc : BitVec 15) : (q.step pc).held = q.held := rfl

/-! ## Reads after updates -/

/-- A table read at another key than the one written, whatever the two defaults. -/
theorem sget_sset_other {α : Type} [DecidableEq α] (d e : α) (m : Sparse α) {k j : Nat} (h : j ≠ k) (v : α) :
    sget e (sset d m k v) j = sget e m j := by
  induction m with
  | nil => unfold sset; split <;> simp [sget, Ne.symm h]
  | cons y r ih =>
    obtain ⟨i, w⟩ := y
    unfold sset
    split
    · split
      · next hk => subst hk; simp [sget, Ne.symm h, ih]
      · simp only [sget, ih]
    · split
      · simp [sget, Ne.symm h]
      · split
        · next hk => subst hk; simp [sget, Ne.symm h]
        · simp only [sget, ih]

/-- An entry of a register file or of the channels after a write. -/
theorem vget_set {α : Type} {n : Nat} (m : Vector α n) (k : Nat) (hk : k < n) (v : α) (i : Fin n) :
    (m.set k v hk).get i = if k = i.val then v else m.get i := by
  show (m.set k v hk)[i.val] = if k = i.val then v else m[i.val]
  rw [Vector.getElem_set]

@[simp] theorem State.chan_setChan_same (s : State) (c : ChId) (x : Channel) : (s.setChan c x).chan c = x := by
  simp [State.chan, State.setChan, vget_set]

theorem State.chan_setChan_ne (s : State) {c d : ChId} (h : d ≠ c) (x : Channel) : (s.setChan c x).chan d = s.chan d := by
  have : c.val ≠ d.val := fun e => h (Fin.ext e.symm)
  simp [State.chan, State.setChan, vget_set, this]

@[simp] theorem State.chan_modChan_same (s : State) (c : ChId) (f : Channel → Channel) : (s.modChan c f).chan c = f (s.chan c) :=
  s.chan_setChan_same c _

theorem State.chan_modChan_ne (s : State) {c d : ChId} (h : d ≠ c) (f : Channel → Channel) : (s.modChan c f).chan d = s.chan d :=
  s.chan_setChan_ne h _

@[simp] theorem State.setChan_setChan (s : State) (c : ChId) (x y : Channel) : (s.setChan c x).setChan c y = s.setChan c y := by
  simp [State.setChan, Vector.set_set]

@[simp] theorem State.modChan_modChan (s : State) (c : ChId) (f g : Channel → Channel) :
    (s.modChan c f).modChan c g = s.modChan c (g ∘ f) := by
  simp [State.modChan]

theorem State.others_modChan (s : State) (c : ChId) (f : Channel → Channel) : ∀ d : ChId, d ≠ c → (s.modChan c f).chan d = s.chan d :=
  fun _ h => s.chan_modChan_ne h f

@[simp] theorem State.reg_setReg_same (s : State) (o : Nat) (v : Word) : (s.setReg o v).reg o = v := sget_sset_same _ _ _ _

theorem State.reg_setReg_ne (s : State) {o p : Nat} (h : p ≠ o) (v : Word) : (s.setReg o v).reg p = s.reg p :=
  sget_sset_other _ _ _ h _

@[simp] theorem Channel.reg_setReg_same (x : Channel) (o : Nat) (v : Word) : (x.setReg o v).reg o = v := sget_sset_same _ _ _ _

theorem Channel.reg_setReg_ne (x : Channel) {o p : Nat} (h : p ≠ o) (v : Word) : (x.setReg o v).reg p = x.reg p :=
  sget_sset_other _ _ _ h _

@[simp] theorem State.reg_modChan (s : State) (c : ChId) (f : Channel → Channel) (o : Nat) : (s.modChan c f).reg o = s.reg o := rfl
@[simp] theorem State.reg_setChan (s : State) (c : ChId) (x : Channel) (o : Nat) : (s.setChan c x).reg o = s.reg o := rfl
@[simp] theorem State.chan_setReg (s : State) (o : Nat) (v : Word) (c : ChId) : (s.setReg o v).chan c = s.chan c := rfl
@[simp] theorem State.chan_setReg64 (s : State) (o : Nat) (v : Dword) (c : ChId) : (s.setReg64 o v).chan c = s.chan c := rfl
@[simp] theorem State.chan_hostWrite (s : State) (a : Nat) (bs : List Byte) (c : ChId) : (s.hostWrite a bs).chan c = s.chan c := rfl

@[simp] theorem State.reg64_setReg64_same (s : State) (o : Nat) (v : Dword) : (s.setReg64 o v).reg64 o = v := by
  unfold State.reg64 State.setReg64
  rw [State.reg_setReg_same, State.reg_setReg_ne _ (by omega), State.reg_setReg_same]
  ext k hk
  simp only [BitVec.getElem_append, BitVec.getElem_extractLsb']
  split
  · simp [BitVec.getLsbD_eq_getElem, hk]
  · simp [show 32 + (k - 32) = k by omega, BitVec.getLsbD_eq_getElem, hk]

@[simp] theorem Channel.reg64_setReg64_same (x : Channel) (o : Nat) (v : Dword) : (x.setReg64 o v).reg64 o = v := by
  unfold Channel.reg64 Channel.setReg64
  rw [Channel.reg_setReg_same, Channel.reg_setReg_ne _ (by omega), Channel.reg_setReg_same]
  ext k hk
  simp only [BitVec.getElem_append, BitVec.getElem_extractLsb']
  split
  · simp [BitVec.getLsbD_eq_getElem, hk]
  · simp [show 32 + (k - 32) = k by omega, BitVec.getLsbD_eq_getElem, hk]

/-- The same for a register number. -/
theorem vget_setBv {α : Type} {w : Nat} (m : Vector α (2 ^ w)) (i j : BitVec w) (v : α) :
    (m.set i.toNat v i.isLt).get j.toFin = if j = i then v else m.get j.toFin := by
  rw [vget_set]
  have e : (i.toNat = j.toFin.val) = (j = i) := propext ⟨fun h => BitVec.eq_of_toNat_eq h.symm, fun h => by rw [h]; rfl⟩
  simp only [e]

theorem Seq.rs_ws (q : Seq) (i j : BitVec 5) (v : Dword) : (q.ws i v).rs j = if i = 0 then q.rs j else if j = i then v else q.rs j := by
  unfold Seq.rs Seq.ws
  by_cases hi : i = 0
  · simp [hi]
  · by_cases hj : j = 0
    · have : j ≠ i := fun e => hi (e ▸ hj)
      subst hj
      simp only [hi, this, if_false, if_true]
    · simp only [hi, hj, if_false]
      exact vget_setBv _ i j v

theorem Seq.ra_wa (q : Seq) (i j : BitVec 4) (v : Dword) : (q.wa i v).ra j = if j = i then v else q.ra j := by
  exact vget_setBv _ i j v

theorem Seq.rp_wp (q : Seq) (i j : BitVec 3) (v : Mask) : (q.wp i v).rp j = if i = 0 then q.rp j else if j = i then v else q.rp j := by
  unfold Seq.rp Seq.wp
  by_cases hi : i = 0
  · simp [hi]
  · by_cases hj : j = 0
    · have : j ≠ i := fun e => hi (e ▸ hj)
      subst hj
      simp only [hi, this, if_false, if_true]
    · simp only [hi, hj, if_false]
      exact vget_setBv _ i j v

theorem Seq.rt_wt (q : Seq) (i j : BitVec 4) (v : BitVec 16) : (q.wt i v).rt j = if i = 15 then q.rt j else if j = i then v else q.rt j := by
  unfold Seq.rt Seq.wt
  by_cases hi : i = 15
  · simp [hi]
  · by_cases hj : j = 15
    · have : j ≠ i := fun e => hi (e ▸ hj)
      subst hj
      simp only [hi, this, if_false, if_true]
    · simp only [hi, hj, if_false]
      exact vget_setBv _ i j v

theorem Seq.out_setOut (q : Seq) (i j : BitVec 4) (n : Nat) : (q.setOut i n).out j = if j = i then n else q.out j := by
  exact vget_setBv _ i j n

@[simp] theorem Channel.ring_setRing_same (x : Channel) (r : BitVec 6) (d : RingD) : (x.setRing r d).ring r = d := by
  simp [Channel.ring, Channel.setRing, vget_set]

/-- A register that is hard-wired: s0 reads 0, p0 reads all ones, t15 reads 0, whatever is written. -/
@[simp] theorem Seq.hard_wired (q : Seq) : q.rs 0 = 0 ∧ q.rp 0 = BitVec.allOnes 128 ∧ q.rt 15 = 0 := ⟨rfl, rfl, rfl⟩

end Sys2Proof.Machine
end

