-- ==== Sys2Proof/Laws/Issue.lean ====
section
/-!
SUPPORT. What the shared operations can do, each said once: issuing an instruction, taking an exception, a token, an
interrupt, a cause, a scratchpad write.
-/

namespace Sys2Proof.Machine

open Sys2Proof

/-! ## Issue -/

/-- A guard that passes is not the one that never executes. -/
theorem never_of_guard {q : Seq} {pg : BitVec 3} {pn : Bool} (h : q.guard pg pn = true) : never pg pn = false := by
  unfold never Seq.guard Seq.rp at *
  by_cases hp : pg = 0
  · subst hp; cases pn <;> simp_all
  · simp only [Bool.and_eq_false_iff, beq_eq_false_iff_ne]; exact .inl hp

/-- Everything that issuing an instruction can come to. -/
theorem State.issue_cases (s : State) (c : ChId) (w : Dword) (legal never skip : Bool) (body : State → Issue) :
    let out := s.issue c w legal never skip body
    let pc := (s.chan c).seq.pc
    out = s ∨ out = s.modChan c (·.raise 0x06) ∨ (∃ e o, out = s.except c e o false) ∨
    ((never || skip) = true ∧ out = s.modChan c (fun x => x.modSeq (·.step pc))) ∨
    (∃ t, body s = .done t ∧ out = t.modChan c (fun x => x.modSeq (·.step pc))) ∨ body s = .went out ∨
    ∃ r, body s = .stall r ∧ out = s.modChan c (fun x => x.modSeq (fun q => { q with stall := r, held := w })) := by
  intro out pc
  have h : out = s.issue c w legal never skip body := rfl
  unfold State.issue at h
  simp only at h
  split at h
  · exact .inl h
  split at h
  · exact .inr (.inl h)
  split at h
  · exact .inr (.inr (.inl ⟨_, _, h⟩))
  split at h
  · exact .inr (.inr (.inl ⟨_, _, h⟩))
  split at h
  · next hs => exact .inr (.inr (.inr (.inl ⟨hs, h⟩)))
  split at h
  · next t ht => exact .inr (.inr (.inr (.inr (.inl ⟨t, ht, h⟩))))
  · next t ht => exact .inr (.inr (.inr (.inr (.inr (.inl (h ▸ ht))))))
  · exact .inr (.inr (.inl ⟨_, _, h⟩))
  · next r hr => exact .inr (.inr (.inr (.inr (.inr (.inr ⟨r, hr, h⟩)))))

/-- A legal instruction that the sequencer can issue and whose guard passes comes to what its body says. -/
theorem State.issue_ready {s : State} {c : ChId} {w : Dword} (h : s.ready c w) (body : State → Issue) :
    s.issue c w true false false body = match body s with
      | .done t => t.modChan c (fun x => x.modSeq (·.step (s.chan c).seq.pc))
      | .went t => t
      | .exc e => s.except c e ⟨(s.chan c).seq.pc, w⟩ false
      | .stall r => s.modChan c (fun x => x.modSeq (fun q => { q with stall := r, held := w })) := by
  obtain ⟨h1, h2, h3, h4⟩ := h
  unfold State.issue
  have h2' : ((s.chan c).seq.stall != .none && (s.chan c).seq.held != w) = false := by
    rcases h2 with h2 | h2 <;> simp [h2]
  simp only [h1, h2', h4]
  simp [h3]
  all_goals rfl

/-- An instruction whose effect is a change of the sequencer's registers alone. -/
theorem State.issue_seqDone {s : State} {c : ChId} {w : Dword} (h : s.ready c w) (g : Seq → Seq) (hp : ∀ q : Seq, (g q).pc = q.pc) :
    s.issue c w true false false (fun s => seqDone s c g) = s.retire c g := by
  rw [State.issue_ready h]
  simp [seqDone, State.retire, State.modChan, Channel.modSeq, hp]

/-- The formats that are skipped as a whole issue alike once their guard passes. -/
theorem issueS_on {s : State} {c : ChId} {f : FmtS} (hg : s.guardOn c f.pg f.pn) (opc : Byte) (b : State → Issue) :
    issueS s c opc f true b = s.issue c (wordS opc f) true false false b := by
  unfold issueS; rw [never_of_guard hg, show (s.chan c).seq.guard f.pg f.pn = true from hg]; rfl
theorem issueB_on {s : State} {c : ChId} {f : FmtB} (hg : s.guardOn c f.pg f.pn) (opc : Byte) (b : State → Issue) (hr : f.rsv = 0) :
    issueB s c opc f true b = s.issue c (wordB opc f) true false false b := by
  unfold issueB; rw [never_of_guard hg, show (s.chan c).seq.guard f.pg f.pn = true from hg, hr]; rfl
theorem issueM_on {s : State} {c : ChId} {f : FmtM} (hg : s.guardOn c f.pg f.pn) (opc : Byte) (b : State → Issue) :
    issueM s c opc f true b = s.issue c (wordM opc f) true false false b := by
  unfold issueM; rw [never_of_guard hg, show (s.chan c).seq.guard f.pg f.pn = true from hg]; rfl
theorem issueY_on {s : State} {c : ChId} {f : FmtY} (hg : s.guardOn c f.pg f.pn) (opc : Byte) (b : State → Issue) :
    issueY s c opc f true b = s.issue c (wordY opc f) true false false b := by
  unfold issueY; rw [never_of_guard hg, show (s.chan c).seq.guard f.pg f.pn = true from hg]; rfl

/-! ## Interrupts and causes -/

/-- A vector signalled sets its pending bit, or writes host memory, and nothing else. -/
theorem State.signal_cases (s : State) (v : Nat) :
    s.signal v = { s with pba := setBit s.pba v true } ∨ ∃ a bs, s.signal v = s.hostWrite a bs := by
  unfold State.signal
  split
  · exact .inl rfl
  · exact .inr ⟨_, _, rfl⟩

@[simp] theorem State.signal_chans (s : State) (v : Nat) : (s.signal v).chans = s.chans := by
  rcases s.signal_cases v with h | ⟨a, bs, h⟩ <;> rw [h] <;> rfl
@[simp] theorem State.signal_regs (s : State) (v : Nat) : (s.signal v).regs = s.regs := by
  rcases s.signal_cases v with h | ⟨a, bs, h⟩ <;> rw [h] <;> rfl
@[simp] theorem State.signal_sup (s : State) (v : Nat) : (s.signal v).sup = s.sup := by
  rcases s.signal_cases v with h | ⟨a, bs, h⟩ <;> rw [h] <;> rfl
@[simp] theorem State.signal_msix (s : State) (v : Nat) : (s.signal v).msix = s.msix := by
  rcases s.signal_cases v with h | ⟨a, bs, h⟩ <;> rw [h] <;> rfl
@[simp] theorem State.signal_pending (s : State) (v : Nat) : (s.signal v).pending = s.pending := by
  rcases s.signal_cases v with h | ⟨a, bs, h⟩ <;> rw [h] <;> rfl
@[simp] theorem State.signal_chan (s : State) (v : Nat) (c : ChId) : (s.signal v).chan c = s.chan c := by
  rw [State.chan, State.signal_chans, State.chan]

/-- A cause already pending changes nothing; another sets its bit, and may be signalled. -/
theorem State.cause_cases (s : State) (v : Nat) :
    s.cause v = s ∨ s.cause v = s.orReg GLB_IRQ_STAT (BitVec.ofNat 32 (2 ^ (v - 32))) ∨
    s.cause v = (s.orReg GLB_IRQ_STAT (BitVec.ofNat 32 (2 ^ (v - 32)))).signal v := by
  unfold State.cause
  split
  · exact .inl rfl
  · simp only
    split
    · exact .inr (.inr rfl)
    · exact .inr (.inl rfl)

@[simp] theorem State.cause_chans (s : State) (v : Nat) : (s.cause v).chans = s.chans := by
  rcases s.cause_cases v with h | h | h <;> rw [h] <;> simp
@[simp] theorem State.cause_sup (s : State) (v : Nat) : (s.cause v).sup = s.sup := by
  rcases s.cause_cases v with h | h | h <;> rw [h] <;> simp
@[simp] theorem State.cause_pending (s : State) (v : Nat) : (s.cause v).pending = s.pending := by
  rcases s.cause_cases v with h | h | h <;> rw [h] <;> simp

theorem State.cause_reg (s : State) (v : Nat) {o : Nat} (ho : o ≠ GLB_IRQ_STAT) : (s.cause v).reg o = s.reg o := by
  rcases s.cause_cases v with h | h | h <;> rw [h]
  · exact s.reg_setReg_ne ho _
  · rw [State.reg, State.signal_regs]; exact s.reg_setReg_ne ho _

/-! ## Exceptions -/

/-- Taking an exception records it and stops the command, or, in a Hail run, raises 0x0B; without a command that runs or has
ended it does nothing. -/
theorem State.except_cases (s : State) (c : ChId) (e : Exc) (o : Org) (imprecise : Bool) :
    s.except c e o imprecise = s ∨
    ∃ r, (s.chan c).cmd.run = some r ∧ (r.phase = .running ∨ r.phase = .ended) ∧
      s.except c e o imprecise = (s.excRecord c e o imprecise r.cmd.seq).modChan c (fun x =>
        if r.cmd.hail then x.raise 0x0B else x.stopRun 0x02 ((excWord e o.word imprecise).extractLsb' 0 16)) := by
  unfold State.except
  split
  · exact .inl rfl
  · next r hr =>
    split
    · next hp => exact .inr ⟨r, hr, hp, rfl⟩
    · exact .inl rfl

/-- Error bits change the channel, and may signal its vector. -/
theorem State.chError_cases (s : State) (c : ChId) (bits : Word) :
    s.chError c bits = s.modChan c (fun x => x.orReg CH_STATUS bits) ∨
    s.chError c bits = (s.modChan c (fun x => x.orReg CH_STATUS bits)).signal (2 * c.val + 1) := by
  unfold State.chError
  simp only
  split
  · exact .inr rfl
  · exact .inl rfl

@[simp] theorem State.chError_regs (s : State) (c : ChId) (bits : Word) : (s.chError c bits).regs = s.regs := by
  rcases s.chError_cases c bits with h | h <;> rw [h] <;> simp

theorem State.chError_others (s : State) {c d : ChId} (h : d ≠ c) (bits : Word) : (s.chError c bits).chan d = s.chan d := by
  rcases s.chError_cases c bits with e | e <;> rw [e] <;> simp [State.chan_modChan_ne s h]

/-- An exception of one channel leaves the others as they were. -/
theorem State.except_others (s : State) {c d : ChId} (h : d ≠ c) (e : Exc) (o : Org) (imprecise : Bool) :
    (s.except c e o imprecise).chan d = s.chan d := by
  rcases s.except_cases c e o imprecise with h1 | ⟨r, _, _, h1⟩ <;> rw [h1]
  unfold State.excRecord
  rw [State.chan_modChan_ne _ h, State.chError_others _ h, State.chan_modChan_ne _ h]

@[simp] theorem State.except_regs (s : State) (c : ChId) (e : Exc) (o : Org) (imprecise : Bool) :
    (s.except c e o imprecise).regs = s.regs := by
  rcases s.except_cases c e o imprecise with h1 | ⟨r, _, _, h1⟩ <;> rw [h1]
  simp [State.excRecord]

/-! ## Tokens -/

/-- A token that does not pass 65,535 strikes one operation and increments its counter, t15 apart. -/
theorem State.tokenIn_plain (s : State) (c : ChId) (k : BitVec 4) (o : Org) (h : k = 15 ∨ (s.chan c).seq.rt k ≠ 0xFFFF) :
    s.tokenIn c k o = s.modChan c (fun x => (x.modSeq (fun q => (q.strike k).wt k ((q.strike k).rt k + 1))).endStamp s.now) := by
  have : ¬(k ≠ 15 ∧ (s.chan c).seq.rt k = 0xFFFF) := by rintro ⟨a, b⟩; rcases h with h | h <;> contradiction
  unfold State.tokenIn
  simp only [this, if_false]

/-- A token of one channel leaves the others as they were. -/
theorem State.tokenIn_others (s : State) {c d : ChId} (h : d ≠ c) (k : BitVec 4) (o : Org) : (s.tokenIn c k o).chan d = s.chan d := by
  unfold State.tokenIn
  simp only
  split
  · rw [State.except_others _ h, State.chan_modChan_ne _ h]
  · rw [State.chan_modChan_ne _ h]

/-- The stamp of END changes the command alone. -/
theorem Channel.endStamp_cases (x : Channel) (t : Dword) :
    x.endStamp t = x ∨ ∃ r, x.cmd.run = some r ∧ x.endStamp t = { x with cmd := { x.cmd with run := some { r with endT := t } } } := by
  unfold Channel.endStamp
  split
  · next r hr =>
    split
    · exact .inr ⟨r, hr, rfl⟩
    · exact .inl rfl
  · exact .inl rfl

/-! ## Exception causes -/

/-- A body behind its causes runs when none holds, and else takes one that holds. -/
theorem guarded_cases (cs : List (Bool × Exc)) (k : Issue) :
    (lowest cs = none ∧ guarded cs k = k) ∨ ∃ e, lowest cs = some e ∧ guarded cs k = .exc e := by
  unfold guarded
  split
  · next e he => exact .inr ⟨e, he, rfl⟩
  · next he => exact .inl ⟨he, rfl⟩

/-- No cause is taken exactly when none holds. -/
theorem lowest_none_iff (cs : List (Bool × Exc)) : lowest cs = none ↔ ∀ p ∈ cs, p.1 = false := by
  induction cs with
  | nil => simp [lowest]
  | cons p r ih =>
    obtain ⟨b, e⟩ := p
    cases b <;> simp only [lowest] <;> cases h : lowest r <;> simp_all
    split <;> simp

/-- The cause taken holds. -/
theorem lowest_mem {cs : List (Bool × Exc)} {e : Exc} (h : lowest cs = some e) : (true, e) ∈ cs := by
  induction cs generalizing e with
  | nil => simp [lowest] at h
  | cons p r ih =>
    obtain ⟨b, f⟩ := p
    unfold lowest at h
    split at h
    · cases b <;> simp_all
    · next e' he =>
      split at h
      · next hb => simp at hb h; simp [← h, hb.1]
      · have : e' = e := by simpa using h
        exact List.mem_cons_of_mem _ (this ▸ ih he)

end Sys2Proof.Machine
end

