-- ==== Sys2Proof/Laws/Canonical.lean ====
section
/-!
SUPPORT. The canonical form of the memories: every operation that writes one keeps it, and so does the reset state.
-/

namespace Sys2Proof.Machine

open Sys2Proof

/-! ## The device -/

/-- The reset state's memories are in canonical form, each channel's included. -/
theorem reset_canon : State.reset.Canon := by decide +kernel
theorem reset_chan_canon (c : ChId) : Mem.wf (State.reset.chan c).spad.mem ∧ Mem.wf (State.reset.chan c).dram.mem := by
  revert c; decide +kernel

theorem State.setReg_canon {s : State} (h : s.Canon) (o : Nat) (v : Word) : (s.setReg o v).Canon :=
  ⟨h.1, h.2.1, kwf_sset o v h.2.2.1, h.2.2.2⟩
theorem State.setReg64_canon {s : State} (h : s.Canon) (o : Nat) (v : Dword) : (s.setReg64 o v).Canon :=
  State.setReg_canon (State.setReg_canon h _ _) _ _
theorem State.orReg_canon {s : State} (h : s.Canon) (o : Nat) (v : Word) : (s.orReg o v).Canon := State.setReg_canon h _ _
theorem State.clrReg_canon {s : State} (h : s.Canon) (o : Nat) (v : Word) : (s.clrReg o v).Canon := State.setReg_canon h _ _
theorem State.setChan_canon {s : State} (h : s.Canon) (c : ChId) (x : Channel) : (s.setChan c x).Canon := h
theorem State.modChan_canon {s : State} (h : s.Canon) (c : ChId) (f : Channel → Channel) : (s.modChan c f).Canon := h
theorem State.hostWrite_canon {s : State} (h : s.Canon) (a : Nat) (bs : List Byte) : (s.hostWrite a bs).Canon :=
  ⟨wrBytes_wf a bs h.1, h.2⟩

theorem State.signal_canon {s : State} (h : s.Canon) (v : Nat) : (s.signal v).Canon := by
  rcases s.signal_cases v with e | ⟨a, bs, e⟩ <;> rw [e]
  · exact h
  · exact State.hostWrite_canon h a bs

theorem State.cause_canon {s : State} (h : s.Canon) (v : Nat) : (s.cause v).Canon := by
  rcases s.cause_cases v with e | e | e <;> rw [e]
  · exact h
  · exact State.orReg_canon h _ _
  · exact State.signal_canon (State.orReg_canon h _ _) _

theorem State.chError_canon {s : State} (h : s.Canon) (c : ChId) (bits : Word) : (s.chError c bits).Canon := by
  rcases s.chError_cases c bits with e | e <;> rw [e]
  · exact h
  · exact State.signal_canon (State.modChan_canon h _ _) _

theorem State.except_canon {s : State} (h : s.Canon) (c : ChId) (e : Exc) (o : Org) (i : Bool) : (s.except c e o i).Canon := by
  rcases s.except_cases c e o i with h1 | ⟨r, _, _, h1⟩ <;> rw [h1]
  · exact h
  · exact State.modChan_canon (State.chError_canon (State.modChan_canon h _ _) _ _) _ _

theorem State.tokenIn_canon {s : State} (h : s.Canon) (c : ChId) (k : BitVec 4) (o : Org) : (s.tokenIn c k o).Canon := by
  unfold State.tokenIn
  simp only
  split
  · exact State.except_canon (State.modChan_canon h _ _) _ _ _ _
  · exact State.modChan_canon h _ _

/-- Issuing keeps the form when the instruction's own effect does. -/
theorem State.issue_canon {s : State} (h : s.Canon) (c : ChId) (w : Dword) (legal never skip : Bool) (body : State → Issue)
    (hd : ∀ t, body s = .done t → t.Canon) (hw : ∀ t, body s = .went t → t.Canon) :
    (s.issue c w legal never skip body).Canon := by
  rcases s.issue_cases c w legal never skip body with e | e | ⟨x, o, e⟩ | ⟨_, e⟩ | ⟨t, ht, e⟩ | ht | ⟨r, _, e⟩
  · rw [e]; exact h
  · rw [e]; exact State.modChan_canon h _ _
  · rw [e]; exact State.except_canon h _ _ _ _
  · rw [e]; exact State.modChan_canon h _ _
  · rw [e]; exact State.modChan_canon (hd t ht) _ _
  · exact hw _ ht
  · rw [e]; exact State.modChan_canon h _ _

theorem State.flashWr_canon {s : State} (h : s.Canon) (a : Nat) (bs : List Byte) : (s.flashWr a bs).Canon :=
  ⟨h.1, wrBytes_wf a _ h.2.1, h.2.2⟩
theorem State.flashErase_canon {s : State} (h : s.Canon) (a n : Nat) : (s.flashErase a n).Canon :=
  ⟨h.1, swf_sclear a n h.2.1, h.2.2⟩
theorem State.flashLost_canon {s : State} (h : s.Canon) (a n : Nat) : (s.flashLost a n).Canon := State.flashWr_canon h a _

theorem State.msixWrite_canon {s : State} (h : s.Canon) (k : Nat) (v : Word) : (s.msixWrite k v).Canon := by
  have d : (if (k % 16 / 4 == 3) = true then (1 : Word) else 0) = msixReset (k / 4 * 4) := by
    unfold msixReset
    have : (k % 16 / 4 == 3) = (k / 4 * 4 % 16 == 12) := by
      rw [Bool.eq_iff_iff, beq_iff_eq, beq_iff_eq]; omega
    rw [this]
  have hm : ∀ (w : Word) (p : Dword),
      State.Canon { s with msix := sset (if k % 16 / 4 == 3 then 1 else 0) s.msix (k / 4 * 4) w, pba := p } := fun w p =>
    ⟨h.1, h.2.1, h.2.2.1, by rw [d]; exact kwf_sset _ _ h.2.2.2⟩
  unfold State.msixWrite
  simp only
  split
  · exact State.signal_canon (hm _ _) _
  · exact hm _ _

/-- A fold of operations that keep the form keeps it. -/
theorem foldl_canon {α : Type} (f : State → α → State) (l : List α) {s : State} (h : s.Canon) (hf : ∀ u a, u.Canon → (f u a).Canon) :
    (l.foldl f s).Canon := by
  induction l generalizing s with
  | nil => exact h
  | cons a l ih => exact ih (hf _ _ h)

/-! ## A channel's scratchpad and DRAM -/

/-- Decoding touches no memory. -/
theorem Channel.spadDecode_mem (x : Channel) (l : List (Nat × Nat)) : (x.spadDecode l).1.spad.mem = x.spad.mem := by
  induction l generalizing x with
  | nil => rfl
  | cons p r ih =>
    obtain ⟨w, k⟩ := p
    unfold Channel.spadDecode
    simp only [ih]
    split
    · rfl
    · unfold Channel.spadCorrected; simp only; split <;> (try split) <;> (try split) <;> rfl

theorem Channel.dramDecode_mem (x : Channel) (l : List (Nat × Nat)) : (x.dramDecode l).1.dram.mem = x.dram.mem := by
  induction l generalizing x with
  | nil => rfl
  | cons p r ih =>
    obtain ⟨w, k⟩ := p
    unfold Channel.dramDecode
    simp only [ih]
    split <;> rfl

theorem Channel.spadWriteRow_wf {x : Channel} (h : Mem.wf x.spad.mem) (a : Nat) (bs : List (Option Byte)) (hold : Bool) :
    Mem.wf (x.spadWriteRow a bs hold).1.spad.mem := by
  unfold Channel.spadWriteRow
  simp only
  split
  · rw [Channel.spadDecode_mem]; exact h
  · refine wrSome_wf _ _ ?_; rw [Channel.spadDecode_mem]; exact h

theorem Channel.spadWriteRows_wf (hold : Bool) (n : Nat) {x : Channel} (h : Mem.wf x.spad.mem) (a : Nat) (bs : List (Option Byte)) :
    Mem.wf (Channel.spadWriteRows hold n x a bs).1.spad.mem := by
  induction n generalizing x a bs with
  | zero => exact h
  | succ n ih =>
    unfold Channel.spadWriteRows
    split
    · exact h
    · exact ih (Channel.spadWriteRow_wf h _ _ _) _ _

/-- A scratchpad write keeps the canonical form. -/
theorem Channel.spadWrite_wf {x : Channel} (h : Mem.wf x.spad.mem) (a : Nat) (bs : List Byte) : Mem.wf (x.spadWrite a bs).spad.mem :=
  Channel.spadWriteRows_wf _ _ h _ _

/-- The check buffers leave everything else of the DRAM as it was. -/
theorem Dram.touchRead_same (d : Dram) (r b : Nat) :
    (d.touchRead r b).mem = d.mem ∧ (d.touchRead r b).err = d.err ∧ (d.touchRead r b).queue = d.queue := by
  unfold Dram.touchRead; split <;> simp
theorem Dram.touchWrite_same (d : Dram) (r b : Nat) :
    (d.touchWrite r b).mem = d.mem ∧ (d.touchWrite r b).err = d.err ∧ (d.touchWrite r b).queue = d.queue := by
  unfold Dram.touchWrite; split <;> simp

/-- A merge read touches no memory. -/
theorem Channel.dramMerge_mem (x : Channel) (b : Nat) : (x.dramMerge b).1.dram.mem = x.dram.mem := by
  unfold Channel.dramMerge
  simp only [Dram.touchRead_same, Channel.dramDecode_mem]

theorem Channel.dramWriteBurst_wf {x : Channel} (h : Mem.wf x.dram.mem) (a : Nat) (bs : List Byte) :
    Mem.wf (x.dramWriteBurst a bs).dram.mem := by
  have hq : Mem.wf (if bs.length == 64 then (x, false) else x.dramMerge (a / 64)).1.dram.mem := by
    split
    · exact h
    · rw [Channel.dramMerge_mem]; exact h
  unfold Channel.dramWriteBurst
  simp only
  generalize (if bs.length == 64 then (x, false) else x.dramMerge (a / 64)) = q at hq ⊢
  split
  · exact hq
  · exact wrBytes_wf _ _ hq

theorem Channel.dramWriteRun_wf (n : Nat) {x : Channel} (h : Mem.wf x.dram.mem) (a : Nat) (bs : List Byte) :
    Mem.wf (Channel.dramWriteRun n x a bs).dram.mem := by
  induction n generalizing x a bs with
  | zero => exact h
  | succ n ih =>
    unfold Channel.dramWriteRun
    split
    · exact h
    · exact ih (Channel.dramWriteBurst_wf h _ _) _ _

/-- A DRAM write keeps the canonical form. -/
theorem Channel.dramWrite_wf {x : Channel} (h : Mem.wf x.dram.mem) (a : Nat) (bs : List Byte) : Mem.wf (x.dramWrite a bs).dram.mem :=
  Channel.dramWriteRun_wf _ h _ _

end Sys2Proof.Machine
end

