-- ==== Sys2Proof/Laws/Clean.lean ====
section
/-!
SUPPORT. Scratchpad and DRAM without error marks: a write writes its bytes and a read reads them, and nothing else changes
but what the operation counts.
-/

namespace Sys2Proof.Machine

open Sys2Proof

theorem wrSome_append (m : Mem) (a : Nat) (l r : List (Option Byte)) :
    wrSome m a (l ++ r) = wrSome (wrSome m a l) (a + l.length) r := by
  induction l generalizing m a with
  | nil => simp [wrSome]
  | cons o l ih =>
    cases o with
    | none => simp [wrSome, ih, Nat.add_assoc, Nat.add_comm 1]
    | some b => simp [wrSome, ih, Nat.add_assoc, Nat.add_comm 1]

/-- A write of every byte of a run is the plain write. -/
theorem wrSome_map (m : Mem) (a : Nat) (bs : List Byte) : wrSome m a (bs.map some) = wrBytes m a bs := by
  induction bs generalizing m a with
  | nil => rfl
  | cons b r ih => simp only [List.map_cons, wrSome, ih]; rfl

theorem wrBytes_append (m : Mem) (a : Nat) (l r : List Byte) : wrBytes m a (l ++ r) = wrBytes (wrBytes m a l) (a + l.length) r := by
  rw [← wrSome_map, List.map_append, wrSome_append, wrSome_map, wrSome_map, List.length_map]

/-! ## Scratchpad -/

theorem Channel.spadRead_clean {x : Channel} (h : x.spad.err = []) (a n : Nat) : x.spadRead a n = (rdBytes x.spad.mem a n, x, false) := by
  simp [Channel.spadRead, h, Channel.spadDecode]

/-- A row written: the memory, and the merge buffer that a held partial write takes. -/
theorem Channel.spadWriteRow_clean {x : Channel} (h : x.spad.err = []) (a : Nat) (bs : List (Option Byte)) (hold : Bool) :
    ∃ dz mg, x.spadWriteRow a bs hold =
      ({ x with spad := { x.spad with mem := wrSome x.spad.mem a bs, err := [], drizzle := dz, merge := mg } }, true) ∧
      (hold = false → mg = x.spad.merge) := by
  simp only [Channel.spadWriteRow, h, List.filter_nil, Channel.spadDecode]
  exact ⟨_, _, rfl, fun e => by simp [e]⟩

theorem Channel.spadWriteRows_clean (hold : Bool) : ∀ (n : Nat) (x : Channel) (a : Nat) (bs : List (Option Byte)),
    x.spad.err = [] → bs.length < n →
    ∃ dz mg, Channel.spadWriteRows hold n x a bs =
      ({ x with spad := { x.spad with mem := wrSome x.spad.mem a bs, err := [], drizzle := dz, merge := mg } }, true) ∧
      (hold = false → mg = x.spad.merge)
  | 0, _, _, _, _, hl => absurd hl (Nat.not_lt_zero _)
  | n + 1, x, a, bs, h, hl => by
    unfold Channel.spadWriteRows
    split
    · next hb =>
      have hb : bs = [] := by simpa using hb
      subst hb
      exact ⟨x.spad.drizzle, x.spad.merge, by rw [← h]; rfl, fun _ => rfl⟩
    · next hb =>
      have hb : 0 < bs.length := by cases bs <;> simp_all
      obtain ⟨dz, mg, e, hm⟩ := x.spadWriteRow_clean h a (bs.take (128 - a % 128)) hold
      simp only [e]
      obtain ⟨dz', mg', e', hm'⟩ := spadWriteRows_clean hold n
        { x with spad := { x.spad with mem := wrSome x.spad.mem a (bs.take (128 - a % 128)), err := [], drizzle := dz, merge := mg } }
        (a + (128 - a % 128)) (bs.drop (128 - a % 128)) rfl (by rw [List.length_drop]; omega)
      refine ⟨dz', mg', ?_, fun hh => (hm' hh).trans (hm hh)⟩
      rw [e']
      have : wrSome x.spad.mem a bs =
          wrSome (wrSome x.spad.mem a (bs.take (128 - a % 128))) (a + (128 - a % 128)) (bs.drop (128 - a % 128)) := by
        by_cases hs : 128 - a % 128 ≤ bs.length
        · conv => lhs; rw [← List.take_append_drop (128 - a % 128) bs]
          rw [wrSome_append, List.length_take, Nat.min_eq_left hs]
        · rw [List.take_of_length_le (by omega), List.drop_eq_nil_of_le (by omega)]; rfl
      rw [this]; rfl

/-- An engine's scratchpad write. -/
theorem Channel.spadWrite_clean {x : Channel} (h : x.spad.err = []) (a : Nat) (bs : List Byte) :
    ∃ dz, x.spadWrite a bs = { x with spad := { x.spad with mem := wrBytes x.spad.mem a bs, err := [], drizzle := dz } } := by
  obtain ⟨dz, mg, e, hm⟩ := Channel.spadWriteRows_clean false (bs.length + 1) x a (bs.map some) h (by simp)
  refine ⟨dz, ?_⟩
  unfold Channel.spadWrite
  rw [e, hm rfl, wrSome_map]

/-! ## DRAM -/

theorem Dram.touchRun_same (w : Bool) : ∀ (n : Nat) (d : Dram) (b : Nat),
    (d.touchRun w b n).mem = d.mem ∧ (d.touchRun w b n).err = d.err ∧ (d.touchRun w b n).queue = d.queue
  | 0, _, _ => ⟨rfl, rfl, rfl⟩
  | n + 1, d, b => by
    unfold Dram.touchRun
    have h := touchRun_same w n (if w then d.touchWrite (b / 16) (b % 16) else d.touchRead (b / 16) (b % 16)) (b + 1)
    cases w
    · simpa [d.touchRead_same] using h
    · simpa [d.touchWrite_same] using h

/-- A DRAM read. -/
theorem Channel.dramRead_clean {x : Channel} (h : x.dram.err = []) (a n : Nat) :
    ∃ d, x.dramRead a n = (rdBytes x.dram.mem a n, { x with dram := d }, false) ∧ d.mem = x.dram.mem ∧ d.err = [] ∧ d.queue = x.dram.queue := by
  unfold Channel.dramRead
  split
  · next hn =>
    have hn : n = 0 := by simpa using hn
    subst hn
    exact ⟨x.dram, rfl, rfl, h, rfl⟩
  · simp only [h, List.filter_nil, Channel.dramDecode]
    obtain ⟨h1, h2, h3⟩ := x.dram.touchRun_same false ((a + n - 1) / 64 + 1 - a / 64) (a / 64)
    refine Dram.touchRun_same false _ x.dram _ |> fun t => ⟨_, rfl, t.1, t.2.1.trans h, t.2.2⟩

theorem Channel.dramWriteBurst_clean {x : Channel} (h : x.dram.err = []) (a : Nat) (bs : List Byte) :
    ∃ d, x.dramWriteBurst a bs = { x with dram := d } ∧ d.mem = wrBytes x.dram.mem a bs ∧ d.err = [] ∧ d.queue = x.dram.queue := by
  unfold Channel.dramWriteBurst
  obtain ⟨d, e, h1, h2, h3⟩ : ∃ d, (if bs.length == 64 then (x, false) else x.dramMerge (a / 64)) = ({ x with dram := d }, false) ∧
      d.mem = x.dram.mem ∧ d.err = [] ∧ d.queue = x.dram.queue := by
    split
    · exact ⟨x.dram, rfl, rfl, h, rfl⟩
    · obtain ⟨m1, m2, m3⟩ := x.dram.touchRead_same (a / 64 / 16) (a / 64 % 16)
      exact ⟨_, by simp only [Channel.dramMerge, h, List.filter_nil, Channel.dramDecode], m1, m2.trans h, m3⟩
  simp only [e]
  refine ⟨_, rfl, by rw [h1], by simp [h2], (d.touchWrite_same _ _).2.2.trans h3⟩

theorem Channel.dramWriteRun_clean : ∀ (n : Nat) (x : Channel) (a : Nat) (bs : List Byte), x.dram.err = [] → bs.length < n →
    ∃ d, Channel.dramWriteRun n x a bs = { x with dram := d } ∧ d.mem = wrBytes x.dram.mem a bs ∧ d.err = [] ∧ d.queue = x.dram.queue
  | 0, _, _, _, _, hl => absurd hl (Nat.not_lt_zero _)
  | n + 1, x, a, bs, h, hl => by
    unfold Channel.dramWriteRun
    split
    · next hb =>
      have hb : bs = [] := by simpa using hb
      subst hb
      exact ⟨x.dram, rfl, rfl, h, rfl⟩
    · next hb =>
      have hb : 0 < bs.length := by cases bs <;> simp_all
      obtain ⟨d, e, h1, h2, h3⟩ := x.dramWriteBurst_clean h a (bs.take (64 - a % 64))
      rw [e]
      obtain ⟨d', e', h1', h2', h3'⟩ := dramWriteRun_clean n { x with dram := d } (a + (64 - a % 64)) (bs.drop (64 - a % 64)) h2
        (by rw [List.length_drop]; omega)
      refine ⟨d', e', ?_, h2', h3'.trans h3⟩
      rw [h1', h1]
      by_cases hs : 64 - a % 64 ≤ bs.length
      · conv => rhs; rw [← List.take_append_drop (64 - a % 64) bs]
        rw [wrBytes_append, List.length_take, Nat.min_eq_left hs]
      · rw [List.take_of_length_le (by omega), List.drop_eq_nil_of_le (by omega)]; rfl

/-- A DRAM write: its bytes are written, and only the check buffers follow. -/
theorem Channel.dramWrite_clean {x : Channel} (h : x.dram.err = []) (a : Nat) (bs : List Byte) :
    ∃ d, x.dramWrite a bs = { x with dram := d } ∧ d.mem = wrBytes x.dram.mem a bs ∧ d.err = [] ∧ d.queue = x.dram.queue :=
  Channel.dramWriteRun_clean _ x a bs h (by omega)

end Sys2Proof.Machine
end

