-- ==== Sys2Proof/WellFormed.lean ====
section
/-!
DEFINITION. Well-formed commands: what the hardware can be given but the operands' types do not say. The machine itself does
not ask: every command, well-formed or not, has a next state.
-/

namespace Sys2Proof

/-- What is wrong with a command. -/
inductive Ill where
  /-- A register access that is not aligned to 4 bytes, or whose word of a pair is the other one (R11, R450). -/
  | address
  /-- A host access longer than the port carries: reads of 4,096 bytes, writes of 512 (R445). -/
  | access
  /-- A CAN frame longer than 64 bytes (R403). -/
  | canLength
  /-- A CSI-2 long packet longer than its 16-bit word count (R265). -/
  | csiLength
  /-- A cascade packet whose payload is not 0 or 128 to 1,024 bytes in multiples of 128, or whose TYPE is reserved (R372). -/
  | packet
  /-- A drive frame whose block count gives another length than the frame has (R317). -/
  | driveLength
  /-- A start whose fuses are no grade's, or that does not say the serial's 16 bytes and the DRAM of 16 channels (R1, R2, R464). -/
  | boot
  /-- A regulator reading that does not give 16 channels' currents (R474). -/
  | readings
deriving DecidableEq, Repr

/-- A register address, aligned. -/
def alignedTo (a n : Nat) : Bool := a % n == 0

/-- Live masks of the grades (R1, R2): channels 0, 4, 8 and 12, and 16, 14 or 12 in all. -/
def maskOfGrade (fuse : BitVec 16) : Bool :=
  let n := ((List.range 16).filter fuse.getLsbD).length
  fuse.getLsbD 0 && fuse.getLsbD 4 && fuse.getLsbD 8 && fuse.getLsbD 12 && (n == 12 || n == 14 || n == 16)

/-- A packet's payload and TYPE. -/
def Pkt.ok (p : Pkt) : Bool :=
  decide (p.data.length ≤ 1024) && alignedTo p.data.length 128 && decide (1 ≤ p.typ.toNat) && decide (p.typ.toNat ≤ 7)

/-- The check on a command: what is wrong with it, if anything. A command not named here is well-formed by its types. -/
def Instr.ill (i : Instr) : Option Ill :=
  let need (b : Bool) (e : Ill) : Option Ill := if b then none else some e
  match i with
  | .pairLowRead _ a => need (alignedTo a.addr.toNat 4) .address
  | .pairHighRead _ a => need (alignedTo a.addr.toNat 4) .address
  | .pairLowWrite _ a _ => need (alignedTo a.toNat 8) .address
  | .pairHighWrite _ a _ => need (a.toNat % 8 == 4) .address
  | .registerWrite _ a _ => need (alignedTo a.toNat 4) .address
  | .broadcastWrite _ o _ => need (alignedTo o.toNat 4) .address
  | .broadcastRead _ o => need (alignedTo o.toNat 4) .address
  | .bar2Read _ _ n => need (decide (1 ≤ n) && decide (n ≤ 4096)) .access
  | .bar2Write _ _ d => need (decide (1 ≤ d.length) && decide (d.length ≤ 512)) .access
  | .bar4Read _ _ n => need (decide (1 ≤ n) && decide (n ≤ 4096)) .access
  | .bar4Write _ _ d => need (decide (1 ≤ d.length) && decide (d.length ≤ 512)) .access
  | .canFrameReceive _ _ _ d _ _ => need (decide (d.length ≤ 64)) .canLength
  | .csiImageLine _ _ d _ => need (decide (d.length < 65536)) .csiLength
  | .csiEmbeddedLine _ _ d _ => need (decide (d.length < 65536)) .csiLength
  | .casPacketReceive _ p _ => need p.ok .packet
  | .drvSampleFrame _ _ n f _ => need (f.length == n.toNat) .driveLength
  | .deviceStart b => need (maskOfGrade b.fuse && b.serial.length == 16 && b.dram.length == 16) .boot
  | .regulatorReading ma _ => need (ma.length == 16) .readings
  | _ => none

/-- The command is well-formed. -/
def Instr.wf (i : Instr) : Bool := i.ill.isNone

end Sys2Proof
end

