-- ==== Sys2Proof/Tests/Slice0.lean ====
section
/-!
SUPPORT. The model's own tests: a smoke test of the check on commands, a witness for the hypotheses of each statement, and a
few results worked out by hand from the manual.
-/

namespace Sys2Proof.Tests

set_option Elab.async false

open Sys2Proof Sys2Proof.Machine

theorem witness_QueueKept : exec (.tsqHeadWrite 3) State.reset = .next (State.reset.reply .unsupported []) := by rfl

theorem witness_IdleStepPassesOneFc :
    State.reset.pending = [] ∧ State.reset.sup.comOff = false ∧ State.reset.tc.set = none ∧ State.reset.tc.step = 0 := by
  decide +kernel

theorem witness_StepKeepsCanonicalForm : (State.reset.Canon ∧ ∀ c, (State.reset.chan c).Canon) ∧ step State.reset = .next State.reset.tick := by
  exact ⟨by decide +kernel, rfl⟩

/-- No store waits while no merge buffer is taken. -/
theorem mergeBusy_of_free (x : Channel) (h : x.spad.merge = []) (a : Nat) (bs : List (Option Byte)) : x.mergeBusy a bs = false := by
  simp [Channel.mergeBusy, h]

/-- A run of the host ring's command 0. -/
def tRun : RunCmd := { cmd := ⟨1, 1, 0, 0, 0, 0, 0, 0, 0, 0⟩, phase := .running }

/-- Channel 0, live, as `f` leaves it. -/
def tChan (f : Channel → Channel) : State := (State.reset.setReg GLB_CHLIVE 1).modChan 0 f

/-- A channel that runs a program: program memory holds an image of 4,096 words, and the sequencer stands at index 16. -/
def runs (x : Channel) : Channel :=
  { x with cmd := { x.cmd with run := some tRun }, pm := { x.pm with images := [(0, 4096)] }, seq := { x.seq with pc := 16 } }

/-- The reset state with channel 0 running a program. -/
def tS : State := tChan runs

/-- An instruction of format S that names s1 as its destination and has an immediate 1 as its second operand. -/
def fS : FmtS := ⟨0, false, 1, 0, 0, true, 0, 1⟩
/-- An instruction of format S with fields of zeros. -/
def fS0 : FmtS := ⟨0, false, 0, 0, 0, false, 0, 0⟩
def fB0 : FmtB := ⟨0, false, 0, 0, 0, 0, 0⟩
def fV0 : FmtV := ⟨0, false, 0, 0, 0, 0, false, 0, 0, 0, 0⟩
def fD0 : FmtD := ⟨0, false, 0, 0, 0, 0, 0, 0⟩
def fM0 : FmtM := ⟨0, false, 0, 0, 0, 0, 0, 0, 0⟩
def fY0 : FmtY := ⟨0, false, 0, 0, 0, 0⟩

/-- The next state of an outcome. -/
def nx (o : Host.Outcome State Fault Refusal) : State := match o with | .next t => t | _ => State.reset

theorem witness_ScalarArithmeticResults : tS.guardOn 0 fS.pg fS.pn ∧ okB fS = true ∧ fS.mod = 0 ∧ tS.ready 0 (wordS 0x02 fS) ∧
    tS.ready 0 (wordS 0x0D fS) ∧ tS.ready 0 (wordS 0x05 { fS with mod := 1 }) := by decide +kernel

/-- R48: a scalar sum wraps: 2⁶⁴ − 1 + 1 = 0. -/
theorem test_add_wraps : ((nx (exec (.scalarAdd 0 { fS with sa := 2 }) (tS.modChan 0 (fun x => x.modSeq (fun q =>
    (q.ws 1 5).ws 2 0xFFFFFFFFFFFFFFFF))))).chan 0).seq.rs 1 = 0 := by decide +kernel

/-- R47: the high half of (−1) × (−1) is 0 signed and 2⁶⁴ − 2 unsigned. -/
theorem test_mulh : mulHigh 0 0xFFFFFFFFFFFFFFFF 0xFFFFFFFFFFFFFFFF = 0 ∧
    mulHigh 1 0xFFFFFFFFFFFFFFFF 0xFFFFFFFFFFFFFFFF = 0xFFFFFFFFFFFFFFFE := by decide +kernel

theorem witness_ScalarOtherResults : tS.guardOn 0 0 false ∧ okNoB fS0 = true ∧ okP fS0.sd = true ∧ okA fS0.sd = true ∧
    tS.ready 0 (wordS 0x01 fS0) ∧ tS.ready 0 (wordS 0x0F { fS0 with mod := 3 }) ∧ okB fS0 = true := by decide +kernel

/-- R497: the leading and trailing zeros of 0 are 64 each; 8 has 60 leading and 3 trailing zeros and one set bit. -/
theorem test_bit_counts : bitCount 0 0 = 64 ∧ bitCount 1 0 = 64 ∧ bitCount 0 8 = 60 ∧ bitCount 1 8 = 3 ∧ bitCount 2 8 = 1 := by
  decide +kernel

theorem witness_ScalarMemoryResults : tS.guardOn 0 0 false ∧ okA fS0.sa = true ∧
    effAddr ((tS.chan 0).seq.ra (aOf fS0.sa)) ({ fS0 with imm := 0x1FFFFF8 }).imm.toInt = ((0x1FFFFF8 : Nat) : Int) ∧
    tS.ready 0 (wordS 0x11 fS0) ∧ tS.ready 0 (wordS 0x12 fS0) ∧
    (tS.chan 0).mergeBusy 0x1FFFFF8 ((leBytes 8 0).map some) = false ∧ (tS.chan 0).spad.err = [] := by decide +kernel

theorem witness_BranchResults : tS.guardOn 0 0 false ∧ (tS.chan 0).seq.reps = [] ∧ (tS.chan 0).pm.loaded 16 = true ∧
    ((tS.chan 0).seq.pc.toNat : Int) + fB0.off.toInt = ((16 : BitVec 15).toNat : Int) ∧ tS.ready 0 (wordB 0x20 fB0) ∧
    tS.ready 0 (wordB 0x26 fB0) ∧ (tS.chan 0).seq.calls.length < 16 := by decide +kernel

theorem witness_BranchRet : (tChan (fun x => runs { x with seq := { x.seq with calls := [20] } }) |>.chan 0).seq.calls = [20] := by
  decide +kernel

/-- R41: the last instruction of a repeat body leads back to its first while iterations are left, and on after the last. -/
theorem test_repeat : nextPc 20 [⟨2, 18, 20⟩] = (18, [⟨1, 18, 20⟩]) ∧ nextPc 20 [⟨1, 18, 20⟩] = (21, []) := by decide +kernel

theorem witness_SkippedInstructions : ¬ tS.guardOn 0 0 true ∧ okNoB { fS0 with pn := true } = true ∧
    tS.ready 0 (wordS 0xD5 { fS0 with pn := true }) ∧ tS.ready 0 (wordV 0x30 { fV0 with pn := true }) := by decide +kernel

theorem witness_IllegalWordRaisesIllegal : opcodeDefined (opcOf 0xFF00000000000000) = false ∧
    tS.ready 0 0xFF00000000000000 ∧ (tS.chan 0).cmd.run = some tRun ∧ tRun.cmd.hail = false := by decide +kernel

theorem test_IllegalWordRaisesIllegal :
    ((nx (exec (.undefinedOpcode 0 0xFF10000000000000) tS)).chan 0).reg CH_EXC_CODE = 0xFF01 ∧
    ((nx (exec (.undefinedOpcode 0 0xFF10000000000000) tS)).chan 0).cmd.run =
      some { tRun with phase := .stopping, status := 2, code := 0xFF01 } := by decide +kernel

theorem witness_VectorIntegerArithmetic : fV0.fmt = 0 ∧ fV0.ss = 0 ∧ fV0.imm = 0 ∧ fV0.mod = 0 ∧ fV0.vc = 0 ∧
    tS.readyV 0 0x30 fV0 ∧ tS.readyV 0 0x33 fV0 := by decide +kernel

/-- R155: 2³¹ − 1 plus 1 clamps, and a product of 2¹⁶ by −2¹⁶ clamps to −2³¹. -/
theorem test_vector_clamps : clampInt (2147483647 + 1) = ⟨0x7FFFFFFF, 1, false⟩ ∧ clampInt (65536 * -65536) = ⟨0x80000000, 1, false⟩ := by
  decide +kernel

theorem witness_VectorFloatArithmetic : ({ fV0 with fmt := 1 }).fmt ≠ 0 ∧ tS.readyV 0 0x30 { fV0 with fmt := 1 } ∧
    tS.readyV 0 0x34 fV0 ∧ tS.readyV 0 0x39 { fV0 with fmt := 2 } := by decide +kernel

/-- R154: 1 + 1 = 2 in fp32; the largest fp32 plus itself overflows to an infinity and sets OVF. R157: RCP of 0 is an infinity. -/
theorem test_float_add : (arithLane 1 .rne (fun _ _ _ => 0) (fun a b _ => a.add b) 0x3F800000 0x3F800000 0) = ⟨0x40000000, 0, false⟩ ∧
    (arithLane 1 .rne (fun _ _ _ => 0) (fun a b _ => a.add b) 0x7F7FFFFF 0x7F7FFFFF 0) = ⟨0x7F800000, 2, false⟩ ∧
    (rcpValue 1 (fp32.decode 0)).w = 0x7F800000 := by decide +kernel

/-- R156: MIN(−0, +0) = −0 in either order. -/
theorem test_min_zero : (minmaxLane 1 false 0x80000000 0).w = 0x80000000 ∧ (minmaxLane 1 false 0 0x80000000).w = 0x80000000 := by
  decide +kernel

theorem witness_VectorMoveResults : tS.readyV 0 0x36 fV0 ∧ tS.readyV 0 0x37 { fV0 with mod := 4 } ∧
    tS.readyV 0 0x38 { fV0 with mod := 13 } ∧ tS.readyV 0 0x44 { fV0 with mod := 4 } ∧ ({ fV0 with mod := 13 } : FmtV).mod.getLsbD 3 = true := by
  decide +kernel

/-- R497: a shift by 32 or more gives 0, or 32 copies of the sign bit; R163: 200 saturates to 127 as int8. -/
theorem test_lane_shift_and_cvt : shiftLane 0 0xFFFFFFFF 32 = 0 ∧ shiftLane 2 0x80000000 200 = 0xFFFFFFFF ∧
    convertTgt 4 .rne (FV.ofInt 200) = ⟨127, 8, true⟩ := by decide +kernel

theorem witness_VectorReductionResults : tS.readyV 0 0x3C fV0 ∧ tS.readyV 0 0x3E { fV0 with vd := 1 } ∧
    tS.readyV 0 0x43 { fV0 with mod := 4 } ∧ tS.readyV 0 0x46 { fV0 with imm := 127 } ∧
    lanesOf ((tS.chan 0).seq.lanes 1 false) = [] := by decide +kernel

/-- R48: the empty maximum of int32 is −2³¹, of fp32 −∞. -/
theorem test_empty_rmax : maxOver 0 [] = 0x80000000 ∧ maxOver 1 [] = 0xFF800000 := by decide +kernel

theorem witness_VectorMemoryResults : okMem fV0 = true ∧ ((tS.chan 0).seq.ra 0).toNat < 0x2000000 ∧ tS.readyV 0 0x40 fV0 ∧
    tS.readyV 0 0x41 fV0 ∧ (((tS.chan 0).seq.ra 0).toNat : Int) + ({ fV0 with imm := 0xFFFF } : FmtV).imm.toInt * 512 = -512 ∧
    (∀ bs, (tS.chan 0).mergeBusy 0 bs = false) ∧ (tS.chan 0).spad.err = [] := by
  refine ⟨by decide +kernel, by decide +kernel, by decide +kernel, by decide +kernel, by decide +kernel, fun bs => ?_, by decide +kernel⟩
  exact mergeBusy_of_free _ (by decide +kernel) _ _

/-- A TILE.MAC or TILE.LOAD of both arrays, with its record at address 0. -/
def fD3 : FmtD := { fD0 with unit := 3 }

theorem witness_TileInstructionsQueue : (tS.chan 0).arrRoom 3 = true ∧ tS.readyD 0 0x50 fD3 ∧ tS.readyD 0 0x56 fD3 ∧
    macMod fD3.mod true false = true ∧ accForm { fD0 with unit := 1, count := 1 } = true ∧
    tS.ready 0 (wordD 0x58 { fD0 with unit := 1, count := 4096 }) ∧ (tS.chan 0).seq.vpend.getLsbD 0 = false := by decide +kernel

/-- tS with a halo record at address 0 (halo 0, ring 1, rows of 128 bytes) and an empty ring 1. -/
def tHalo (armed : Bool) : State := tChan (fun x =>
  let x := runs x
  let x := x.setRing 1 { base := 0x1000, size := 0x1000, valid := true, prod := if armed then some (.halo, 1) else none,
                         cons := if armed then some (.halo, 1) else none }
  let x := { x with spad := { x.spad with mem := wrBytes [] 0 [0, 1, 0, 0, 128] } }
  if armed then x.setHalo 0 { ring := 1, armed := true } else x)

theorem witness_WindowInstructionsQueue : (tS.chan 0).win.queue = [] ∧ tS.readyD 0 0x60 fD3 ∧ tS.readyD 0 0x63 fD0 ∧
    (let t := tHalo false; let b := rdBytes (t.chan 0).spad.mem 0 64
     t.readyD 0 0x64 { fD0 with mod := 1 } ∧ field b 0 1 = 0 ∧ field b 1 1 = 1 ∧ zeroBytes b 2 4 = true ∧ zeroBytes b 13 64 = true ∧
     field b 4 4 = 128 ∧ field b 12 1 = 0 ∧ ((t.chan 0).ring 1).valid = true ∧ ((t.chan 0).ring 1).prod = none ∧
     ((t.chan 0).ring 1).cons = none ∧ ((t.chan 0).ring 1).fill = 0 ∧ ((t.chan 0).halo 0).armed = false ∧ (t.chan 0).spad.err = []) ∧
    (let t := tHalo true; ((t.chan 0).halo 0).armed = true ∧ ((t.chan 0).ring 1).prod = some (.halo, 1) ∧ t.readyD 0 0x64 fD0) := by
  decide +kernel

theorem test_halo : ((nx (exec (.convHaloArm 0 { fD0 with mod := 1 }) (tHalo false))).chan 0).halo 0 = { ring := 1, armed := true, rowb := 128 } ∧
    (((nx (exec (.convHaloDisarm 0 fD0) (tHalo true))).chan 0).ring 1).prod = none := by decide +kernel

theorem witness_AttentionInstructionsQueue :
    (let t := tChan (fun x => (runs x).setReg PTU_CTRL 1)
     (t.chan 0).bit PTU_CTRL 0 = true ∧ (t.chan 0).attn.queue = [] ∧ (t.chan 0).ptu.queue = [] ∧ (t.chan 0).arrRoom 3 = true ∧
     t.readyD 0 0x70 fD0 ∧ t.readyD 0 0x75 { fD0 with mod := 2 }) := by decide +kernel

/-- tS with the 64 bytes `b` at address 0. -/
def tRec (b : List Byte) : State := tChan (fun x => { runs x with spad := { x.spad with mem := wrBytes [] 0 b } })

theorem witness_ScanInstructionsQueue :
    (tS.chan 0).scan.queue = [] ∧ (tS.chan 0).scan.fence = [] ∧ (tS.chan 0).spad.err = [] ∧
    (let t := tRec [0, 0, 0, 0, 0, 0, 1]; let b := rdBytes (t.chan 0).spad.mem 0 64; let g : FmtD := { fD0 with count := 1 }
     lowest (scanRecCauses (mkDIns t 0 0x82 g 0) b) = none ∧ t.readyD 0 0x82 g ∧ t.readyD 0 0x82 fD0 ∧ ((t.chan 0).slot (field b 0 1)).state ≠ 3 ∧
     (t.chan 0).scan.queue = [] ∧ (t.chan 0).spad.err = []) ∧
    (let b := rdBytes (tS.chan 0).spad.mem 0 64
     lowest (scanRecCauses (mkDIns tS 0 0x82 { fD0 with count := 1, mod := 1 } 0) b) = none ∧ lowest (stepCauses b) = none ∧
     ((tS.chan 0).bindSides .scan .scan (stepRings b).1 (stepRings b).2 {}).2.bad = false ∧
     lowest (scanRecCauses (mkDIns tS 0 0x81 fD0 0) b) = none ∧ lowest (scanRecCauses (mkDIns tS 0 0x83 fD0 0) b) = none ∧
     tS.readyD 0 0x80 fD0) := by decide +kernel

/-- tS with 1 GiB of DRAM, ring 1 of 4 KiB with 256 bytes in it, s1 = 128, s2 = 0, and a1 = 128. -/
def tMove : State := tChan (fun x =>
  let x := (runs x).setReg64 DRAM_TOP 0x40000000
  let x := x.setRing 1 { base := 0x1000, size := 0x1000, head := 256, valid := true }
  { x with seq := ((x.seq.ws 1 128).ws 3 (128 + 0x200000000)).wa 1 128 |>.ws 4 256 })

def fM1 : FmtM := { fM0 with src := 1, sl := 1, ring := 1 }

theorem witness_FrontAndRingInstructions :
    (let x := tMove.chan 0; let d := x.ring 1
     x.fits true (x.seq.ra 1).toNat 128 ∧ d.valid = true ∧ d.prod = none ∧ d.cons = none ∧ x.front.queue = [] ∧
     (x.seq.rs 1).toNat = 128 ∧ 128 ≤ d.free ∧ 128 ≤ d.fill ∧ tMove.ready 0 (wordM 0x88 fM1) ∧ tMove.ready 0 (wordM 0x93 { fM1 with src := 0 }) ∧
     tMove.guardOn 0 0 false ∧ getField (x.seq.rs 3) 31 0 = 128 ∧ getField (x.seq.rs 3) 63 32 = 2 ∧
     getField (x.seq.rs 4) 31 0 = 256 ∧ getField (x.seq.rs 4) 63 32 = 0) := by decide +kernel

theorem test_moves : ((nx (exec (.moveFront 0 fM1) tMove)).chan 0).front.queue.length = 1 ∧
    (((nx (exec (.moveFront 0 fM1) tMove)).chan 0).ring 1).prod = some (.front, 1) ∧
    (((nx (exec (.moveRadv 0 { fM1 with src := 0, mod := 1 }) tMove)).chan 0).ring 1).fill = 128 := by decide +kernel

theorem witness_DmaInstructions :
    (let x := tMove.chan 0
     x.bit DMA_CTRL 0 = true ∧ x.dma.queue = [] ∧ x.fits true 128 128 ∧ x.fits false 0 128 ∧ bindOk (x.ring 1).prod .dma = true ∧
     (x.ring 1).valid = true ∧ tMove.ready 0 (wordM 0x8A { fM1 with mod := 16 }) ∧ ({ fM1 with mod := 16 } : FmtM).mod.getLsbD 4 = true ∧
     tMove.ready 0 (wordM 0x8B fM1)) := by decide +kernel

theorem test_dma : ((nx (exec (.moveDma 0 { fM1 with ring := 0, mod := 0 }) tMove)).chan 0).dma.queue.length = 1 ∧
    ((nx (exec (.movePlist 0 fM1) tMove)).chan 0).dma.queue.length = 1 := by decide +kernel

theorem witness_LinkInstructions :
    (let x := tMove.chan 0
     x.linkFull = false ∧ x.cmd.run = some tRun ∧ tMove.guardOn 0 0 false ∧ (x.seq.ra 0).toNat < 512 ∧
     (x.seq.rs 1).toNat % 128 = 0 ∧ getField (x.seq.rs 1) 63 57 = 0 ∧ getField (x.seq.rs 1) 56 32 % 64 = 0 ∧
     (x.ring 1).valid = true ∧ bindOk (x.ring 1).cons .link = true ∧ tMove.ready 0 (wordM 0x8C { fM1 with ring := 0 }) ∧
     tMove.ready 0 (wordM 0x8D { fM1 with ring := 0 })) := by decide +kernel

theorem test_link : ((nx (exec (.moveHalo 0 { fM1 with src := 0, mod := 1 }) tMove)).chan 0).link.xfers.length = 1 ∧
    ((nx (exec (.moveRsA 0 { fM1 with ring := 0 }) tMove)).chan 0).link.colls.length = 1 := by decide +kernel

/-- Channel 0 waiting at barrier 5 of channel 0 alone since fc 0, at fc 24. -/
def tBar : State := { (tChan (fun x => let x := runs x
  { x with link := { x.link with bar := some (5, 1, 0) }, seq := { x.seq with stall := .bar } })) with fc := 24 }

theorem witness_SyncInstructions : tS.guardOn 0 0 false ∧ tS.ready 0 (wordY 0xA0 fY0) ∧ (tS.chan 0).seq.quiet = true ∧
    (let t := tChan (fun x => let x := runs x
      { x with seq := { x.seq with outst := x.seq.outst.set 1 1 }, intake := { x.intake with past := [(0, 3)] } })
     (t.chan 0).seq.out 1 = 1 ∧ (t.chan 0).intake.batches = [] ∧ (t.chan 0).waitingBids.contains 0 = false ∧ (t.chan 0).intake.past.find? (fun p => p.1.toNat == 0) = some (0, 3) ∧ t.ready 0 (wordY 0xA0 { fY0 with cnt := 1, tk := 1 })) ∧
    (let t := (tS.setReg GLB_CHLIVE 1)
     t.ready 0 (wordY 0xA2 { fY0 with imm := 1 }) ∧ t.bit GLB_CHLIVE 0 = true ∧ (t.chan 0).link.bar = none) ∧
    (let t := tChan (fun x => let x := runs x; { x with seq := { x.seq with stall := .time 0 } })
     (t.chan 0).issues = true ∧ (0 : Dword).toNat ≤ t.now.toNat) ∧
    (tBar.atBar 0 5 1 = true ∧ (∀ d : ChId, (1 : BitVec 16).getLsbD d.val = true → d = 0) ∧ 0 + 24 ≤ tBar.fc) := by decide +kernel

theorem test_bar : ((nx (exec (.barrierRelease 0) tBar)).chan 0).link.bar = none ∧
    ((nx (exec (.barrierRelease 0) tBar)).chan 0).seq.pc = 17 := by decide +kernel

/-- tS with axis 0 enabled in the bank in force of a running servo engine. -/
def tServo : State := tChan (fun x =>
  let x := (runs x).setReg SERVO_CTRL 1
  x.modServo (fun v => { v with banks := #v[wrBytes [] 0 [10, 0, 0, 0, 0, 0, 0, 0, 0, 0, 0, 0, 1, 0, 0, 0] |> fun m => wrBytes m 64 [1], []] }))

/-- tS with the CAN controller in normal mode, slot 0 enabled, and a record of identifier 5 with 8 data bytes at address 0. -/
def tCan (posted : Bool) : State := tChan (fun x =>
  let x := (((runs x).setReg CAN_CTRL 1).setReg (CAN_SLOTEN 0) 1)
  let x := { x with spad := { x.spad with mem := wrBytes [] 0 [5, 0, 0, 0, 8] } }
  if posted then x.putSlot 0 (some ⟨0, { rcd := rdBytes x.spad.mem 0 72, tok := none }, none⟩) else x)

theorem witness_ServoAndBusInstructions :
    (tServo.guardOn 0 0 false ∧ (tServo.chan 0).axisOk 0 = true ∧ tServo.ready 0 (wordS 0xB0 fS0) ∧ tServo.ready 0 (wordS 0xB1 fS0) ∧
      tServo.ready 0 (wordS 0xB2 fS0) ∧ ((tServo.chan 0).servo.axis 0).stage = [] ∧ ((tServo.chan 0).servo.axis 0).pend = [] ∧
      (tServo.chan 0).cmd.run = some tRun) ∧
    (let x := (tCan false).chan 0; let m := rdBytes x.spad.mem 0 72
     (tCan false).ready 0 (wordS 0xC0 fS0) ∧ x.spad.err = [] ∧ x.slotEn 0 = true ∧ x.canMode = 1 ∧
     field m 0 4 = 5 ∧ field m 4 1 = 8 ∧ zeroBytes m 5 8 = true ∧ x.can.off = false ∧ x.canSlot 0 = none ∧
     (tCan false).ready 0 (wordS 0xC1 fS0) ∧ x.seq.rt 0 ≠ 0xFFFF ∧ x.bit CAN_CTRL 4 = false) ∧
    (let x := (tCan true).chan 0; ∃ old, x.canSlot 0 = some ⟨0, old, none⟩ ∧ old.begun = false) ∧
    (let x := (tCan true).chan 0; ∃ old held, (x.putSlot 0 (some ⟨0, { rcd := [], tok := none, begun := true },
      some { rcd := [], tok := none }⟩)).canSlot 0 = some ⟨0, old, some held⟩ ∧ old.begun = true) := by
  refine ⟨by decide +kernel, by decide +kernel, ⟨_, rfl, rfl⟩, ⟨_, _, rfl, rfl⟩⟩

theorem test_bus : ((nx (exec (.busSend 0 fS0) (tCan false))).chan 0).canSlot 0 ≠ none ∧
    ((nx (exec (.busCancel 0 { fS0 with sd := 1 }) (tCan true))).chan 0).seq.rs 1 = 1 ∧
    ((nx (exec (.busCancel 0 { fS0 with sd := 1 }) (tCan true))).chan 0).canSlot 0 = none := by decide +kernel

theorem witness_SystemInstructions : tS.guardOn 0 0 false ∧ (tS.chan 0).cmd.run = some tRun ∧ tS.ready 0 (wordS 0xD0 fS0) ∧
    tS.ready 0 (wordS 0xD3 { fS0 with imm := 0x13000, mod := 1 }) ∧ csrBad 0x1102c true = false ∧ tS.csrHidden 0 0x1102c = false ∧
    tS.csrHidden 1 0xB0100 = true ∧ (tS.chan 0).bit FRZ_STAT 0 = false ∧ tRun.cmd.hail = false := by
  decide +kernel

theorem test_trap : ((nx (exec (.sysTrap 0 fS0) tS)).chan 0).reg CH_EXC_CODE = 0xD50E := by decide +kernel

/-- R62: a ring of 2⁶ = 64 entries takes a TAIL 64 ahead of HEAD, not 65. -/
theorem test_doorbell : let s := (tChan (fun x => x.setReg CH_CMD_SIZE 6)).setReg GLB_STATE 1
    s.hostUp = true ∧
    ((nx (exec (.chCmdTailWrite 0 64) s)).chan 0).reg CH_CMD_TAIL = 64 ∧
    ((nx (exec (.chCmdTailWrite 0 65) s)).chan 0).reg CH_CMD_TAIL = 0 ∧
    ((nx (exec (.chCmdTailWrite 0 65) s)).chan 0).bit CH_STATUS 4 = true := by decide +kernel

/-- A command ring of 64 records at 0x1000 with a good RUN record of number 1 in it, and DRAM at the channel. -/
def tRing : State :=
  let m : List Byte := leBytes 8 1 ++ [1, 0, 0, 0] ++ List.replicate 48 0
  let s := tChan (fun x => (((((x.setReg CH_CTRL 1).setReg64 CH_CMD_BASE 0x1000).setReg CH_CMD_SIZE 6).setReg CH_CMD_TAIL 1).setReg64
    DRAM_TOP 0x40000000).setReg64 CH_WB_ADDR 0x8000)
  (s.hostWrite 0x1000 (m ++ leBytes 4 (crc32 m).toNat)).setReg GLB_STATE 1

theorem witness_RecordsAreAccepted : tRing.hostUp = true ∧ (let x := tRing.chan 0
     x.fenced = false ∧ x.bit CH_CTRL 0 = true ∧ x.reg CH_CMD_HEAD ≠ x.reg CH_CMD_TAIL ∧ x.cmd.table.length < 8 ∧ x.cmd.fetch = none ∧
     x.cmd.arrived = none ∧ x.dram.err = [] ∧ x.dram.hold = 0) ∧
    (let t := nx (exec (.recordFetch 0) tRing); let x := t.chan 0; let b := rdBytes t.hostMem 0x1000 64
     x.cmd.fetch = some 0 ∧ rcdCrcOk b = true ∧ (cmdOf b).seq = x.reg64 CH_SEQ_NEXT ∧ (cmdOf b).seq ≠ 0 ∧ rcdCrcOk (0xFF :: b.drop 1) = false) ∧
    (let t := nx (exec (.recordArrival 0) (nx (exec (.recordFetch 0) tRing))); let x := t.chan 0
     (x.cmd.arrived.map (fun q => q.2.length)) = some 64 ∧ freeSlot x.cmd.table < 8) := by decide +kernel

theorem test_accept : let t := nx (exec (.journalWriteDone 0) (nx (exec (.recordArrival 0) (nx (exec (.recordFetch 0) tRing)))))
    (t.chan 0).reg64 CH_CMD_ACK = 1 ∧ (t.chan 0).reg64 CH_SEQ_NEXT = 2 ∧ rdBytes t.hostMem 0x8000 1 = [1] := by decide +kernel

/-- A head command of kind `k`, with a one-word kernel at index 8 and its header before it (MAGIC 0x4B53, LEN 1). -/
def tHead (k : Byte) (dl : Bool) : State := tChan (fun x =>
  let x := x.setReg64 DRAM_TOP 0x40000000
  { x with cmd := { x.cmd with accepted := [⟨1, k, 0, if dl then 1 else 0, 8, 0, 0, 0, 0, 0⟩] }
           pm := { words := [(0, 0x14B53), (8, 0x2600000000000000)], images := [(0, 9)] } })

theorem witness_CommandsStart :
    (let s := tHead 1 false; let x := s.chan 0; let m : Cmd := ⟨1, 1, 0, 0, 8, 0, 0, 0, 0, 0⟩
     x.cmd.accepted = m :: [] ∧ x.alm.running = false ∧ s.seqFree 0 = true ∧ x.cmd.side = none ∧ x.rcdCode m = 0 ∧ s.expired m = false ∧
     x.startCheck (m.prog.toNat % 0x8000) none 0 m.budget.toNat true = 0) ∧
    (let s := tHead 5 false; s.seqFree 0 = true ∧ (s.chan 0).rcdCode ⟨1, 5, 0, 0, 8, 0, 0, 0, 0, 0⟩ = 0) ∧
    (tHead 1 true).expired ⟨1, 1, 0, 1, 8, 0, 0, 0, 0, 0⟩ = true := by decide +kernel

theorem test_start_and_run : let t := nx (exec (.kindRun 0) (nx (exec (.commandStart 0) (tHead 1 false))))
    (t.chan 0).seq.pc = 8 ∧ (t.chan 0).seq.rs 3 = 1 ∧ ((t.chan 0).cmd.run.map (·.phase)) = some .running := by decide +kernel

/-- Channel 0 with the command of kind `k` and rule or length `n` beside the sequencer, as `f` leaves it. -/
def tSide (k : Byte) (n : Word) (f : Channel → Channel) : State := tChan (fun x =>
  f { x with cmd := { x.cmd with side := some { cmd := ⟨1, k, 0, 0, 0, 5, 0, n, 0, 0⟩ } } })

/-- An Almanac image: frames of 1,000 µs with one Hail entry, whose standing record 0 runs the kernel at index 8. -/
def tAlmBank : Mem :=
  [(4, 0xE8), (5, 3), (8, 1), (1152, 8), (1154, 1), (4098, 0x20), (4099, 0x10), (4100, 100)]

/-- Program memory with a one-word kernel at index 8. -/
def tKernel : PMem := { words := [(0, 0x14B53), (8, 0x2600000000000000)], images := [(0, 9)] }

/-- The image LOAD_ALM reads is the bank itself. -/
theorem tAlm_image : wrBytes [] 0 ((rdBytes tAlmBank 0 4112).take 0x11000) = tAlmBank := by
  rw [List.take_of_length_le (by rw [length_rdBytes]; decide)]
  exact wrBytes_rdBytes [] 4112 0 tAlmBank (by simp) (by decide) (by decide)

def tLoadAlm : State := tSide 3 4112 (fun x => { x with pm := tKernel, dram := { x.dram with mem := tAlmBank } })

theorem tAlm_good : (tLoadAlm.chan 0).loadCode tAlmBank 4112 = 0 := by decide +kernel

theorem witness_KindsWithoutSequencer :
    (let x := (tSide 2 16 id).chan 0; x.progBusy 5 2 = false ∧ x.dram.err = [] ∧ x.dram.hold = 0 ∧ x.halted = false ∧ x.fenced = false ∧ x.aside = []) ∧
    (let x := (tSide 4 0 (fun x => { x with alm := { x.alm with running := true, loaded := #v[true, true] } })).chan 0
     x.alm.running = true ∧ x.alm.armed = none ∧ x.alm.loaded.get x.alm.inactive = true ∧ x.strands (x.alm.bank x.alm.inactive) = false) ∧
    (tSide 4 1 id).now.toNat < (5 : Dword).toNat ∧
    (let x := tLoadAlm.chan 0
     x.dram.err = [] ∧ x.dram.hold = 0 ∧ x.halted = false ∧ x.alm.armed = none ∧ x.loadCode (wrBytes [] 0 ((rdBytes tAlmBank 0 4112).take 0x11000)) 4112 = 0) := by
  refine ⟨by decide +kernel, by decide +kernel, by decide +kernel, by decide +kernel, by decide +kernel, by decide +kernel, by decide +kernel, ?_⟩
  rw [tAlm_image]; exact tAlm_good

theorem test_load_prog : let t := nx (exec (.kindLoadProg 0) (tSide 2 8 (fun x => { x with dram := { x.dram with mem := wrBytes [] 0 [1, 2] } })))
    sget 0 (t.chan 0).pm.words 5 = 0x201 ∧ (t.chan 0).pm.loaded 5 = true := by decide +kernel

/-- A finished command of number 1 that waits for its commit in a ring of 64. -/
def tDone (inTable : Bool) : State := tChan (fun x =>
  let x := (x.setReg CH_CPL_SIZE 6).setReg64 CH_WB_ADDR 0x8000
  { x with cmd := { x.cmd with done := [{ tRun with phase := .finished }], table := if inTable then [⟨1, 0, .finished⟩] else [] } })

theorem witness_CommandsEnd :
    (let s := tChan (fun x => let x := runs x; { x with cmd := { x.cmd with run := some { tRun with limit := 5, acs := 5 } } }); let x := s.chan 0
     x.cmd.run = some { tRun with limit := 5, acs := 5 } ∧ x.halted = false ∧ x.fenced = false ∧ tRun.cmd.hail = false) ∧
    (let x := (tChan (fun x => let x := runs x; { x with cmd := { x.cmd with run := some { tRun with phase := .stopping, status := 2 } } })).chan 0
     x.frontRests = true ∧ tRun.retried = false ∧ tRun.thaw = none ∧ tRun.src = .ring) ∧
    (let x := (tDone true).chan 0; x.cplFull = false ∧ x.cmd.table.any (fun e => e.seq == tRun.cmd.seq) = true ∧
     x.commitSeq = some tRun.cmd.seq.toNat ∧ tRun.cmd.flags.getLsbD 1 = false ∧ x.cmd.done = [{ tRun with phase := .finished }]) ∧
    ((tDone false).chan 0).cmd.table.any (fun e => e.seq == tRun.cmd.seq) = false := by decide +kernel

theorem test_commit : let t := nx (exec (.commandCommit 0) (tDone true))
    (t.chan 0).reg CH_CPL_PROD = 1 ∧ rdBytes t.hostMem 0 1 = [1] ∧ rdBytes t.hostMem 0x8008 1 = [1] := by decide +kernel

/-- A running device with channel 0 live and idle, as `f` leaves the channel. -/
def tUp (f : Channel → Channel) : State := (((tChan f).setReg GLB_STATE 1).setReg GLB_CHLIVE 1)

theorem witness_RegisterAccesses :
    (let s := tUp id
     s.reaches .host 0x10 0 0x10 ∧ s.reaches (.csr 0) 0x10 0 0x10 ∧ s.reaches .host 0x14 0 0x14 ∧ s.reaches .host 0 0 0 ∧
     pairOf (winRow CH_CMD_BASE) = some false ∧ pairOf (winRow (CH_CMD_BASE + 4)) = some true ∧ pinOff 0x14 = none ∧
     s.chAccepts 0 .host CH_CMD_BASE = true ∧ (s.chan 0).idle = true ∧ pairOf (winRow 0x1102c) = none ∧
     s.reaches .host 0x1102c 0 0x1102c ∧ s.chAccepts 0 .host 0x1102c = true ∧
     ((chRow 0x1102c).map (fun r => r.ro || r.wo)) = some false ∧ ((chRow 0x10).map (·.ro)) = some false ∧
     windowOf 0x3300050 = .common ∧ ((glRow 0x3300050).map (fun r => r.pair || r.ro || r.wo)) = some false ∧
     (s.glAct .host 0x3300050 5).isNone = true ∧
     (nx (exec (.registerWrite .host 0x1102c 5) s)).hostFirst 0 (.csr 0) 0x1102c = true) ∧
    (∀ u : State, (u.chAct 0 .host 0x1102c 5).isNone = true) := by
  refine ⟨by decide +kernel, fun u => rfl⟩

theorem witness_RecordsAreAccepted_sig : (tUp id).hostUp = true ∧ (tUp id).live 0 = true := by decide +kernel

/-- R11: the low word is staged, the high word sets both; a low read latches the high word. -/
theorem test_pair : let s := nx (exec (.pairHighWrite .host 0x14 2) (nx (exec (.pairLowWrite .host 0x10 7) (tUp id))))
    (s.chan 0).reg64 CH_CMD_BASE = 0x200000007 ∧
    (nx (exec (.pairHighRead .host ⟨0x14, 1⟩) (nx (exec (.pairLowRead .host ⟨0x10, 15⟩) s)))).answer = some ⟨.ok, [2]⟩ := by decide +kernel

theorem witness_HostPortRequests :
    (let s := tUp (fun x => x.setReg64 DRAM_TOP 0x40000000)
     s.hostUp = true ∧ s.members none = [0] ∧ s.members (some 0) = [] ∧ s.apOpen 0 = true ∧ s.apOpen 1 = false ∧
     s.bar4Addr 0 0x100 = some 0x100 ∧ (s.chan 0).dramTop = 0x40000000 ∧ s.bar4Addr 0 0x40000000 = some 0x40000000 ∧
     (s.chan 0).spad.err = [] ∧ (s.chan 0).dram.err = [] ∧ (s.chan 0).dram.hold = 0 ∧ pairOf (winRow 0x11030) = none ∧ pinOff 0x11030 = none ∧
     ((chRow 0x11030).map (fun r => r.ro || r.wo)) = some false) ∧
    (∀ (u : State) (c : ChId), u.chAccepts c .host 0x11030 = true ∧ (u.chAct c .host 0x11030 5).isNone = true) := by
  refine ⟨by decide +kernel, fun u c => ⟨rfl, rfl⟩⟩

theorem test_host_port : let s := tUp (fun x => x.setReg64 DRAM_TOP 0x40000000)
    (nx (exec (.bar2Read 0 8 2) (nx (exec (.bar2Write 0 9 [7]) s)))).answer = some ⟨.ok, [0, 7]⟩ ∧
    (nx (exec (.bar4Read 0 64 2) (nx (exec (.bar4Write 0 65 [7]) s)))).answer = some ⟨.ok, [0, 7]⟩ ∧
    (nx (exec (.steeringEntryWrite 3 1 0x81) s)).reg (STEER 3 1) = 0xC1 ∧
    (nx (exec (.broadcastWrite none 0x11030 5) s)).members none = [0] ∧
    ((nx (exec (.broadcastWrite none 0x11030 5) s)).chan 0).reg 0x11030 = 5 := by decide +kernel

/-- Channel 0 with its DRAM trained, the marks `e` on codewords and the queue `q` of Drizzle. -/
def tDriz (e : Sparse Nat) (q : List Nat) : State := tChan (fun x =>
  let x := (x.setReg DRAM_TRAIN 1).setReg SPAD_SCRUB 0x80000001
  { x with spad := { x.spad with err := e, drizzle := q }, dram := { x.dram with queue := [⟨1, false, 64, none⟩], refreshes := 255 }
           acc := x.acc.set 0 { drizzle := [3], err := [(384, 1)] } })

theorem witness_MemoryEvents :
    (let s := tDriz [(5, 1)] [5]; let x := s.chan 0
     s.parked 0 = false ∧ x.bit SPAD_SCRUB 31 = true ∧ x.spad.drizzle = [5] ∧ sget 0 x.spad.err 5 = 1 ∧ getField (x.reg SPAD_SCRUB) 15 0 ≠ 0 ∧
     (x.acc.get 0).drizzle = [3] ∧ x.dram.queue = [⟨1, false, 64, none⟩] ∧ x.dram.hold = 0 ∧ x.dram.err = [] ∧ x.bit DRAM_TRAIN 0 = true) ∧
    (sget 0 ((tDriz [(5, 2)] [5]).chan 0).spad.err 5 = 2) ∧ ((tDriz [] []).chan 0).spad.err = [] ∧
    (let x := (tDriz [(5, 1)] []).chan 0; x.spad.err = [(5, 1)] ∧ 5 / 256 = x.spad.sweepRow.toNat ∧ x.spad.drizzle = []) := by
  decide +kernel

theorem test_memory_events :
    ((nx (exec (.drizzleSweepVisit 0) (tDriz [(5, 1)] []))).chan 0).spad.drizzle = [5] ∧
    ((nx (exec (.drizzleWriteback 0) (tDriz [(5, 2)] [5]))).chan 0).raised = [4] ∧
    ((nx (exec (.dramRefresh 0 false true) (tDriz [] []))).chan 0).dram.hold = 284 ∧
    ((nx (exec (.dramRequestServe 0) (tDriz [] []))).chan 0).front.ret.length = 1 := by decide +kernel

/-- A running channel whose stream 1 fills ring 1 of 4 KiB, with a second half returned and one step claimed. -/
def tStream (f : FrontStream → FrontStream) : State := tChan (fun x =>
  let x := (runs x).setRing 1 { base := 0x1000, size := 0x1000, valid := true, prod := some (.front, 1) }
  let x := { x with front := { x.front with ret := [⟨1, true, List.replicate 64 7, false⟩] } }
  x.setFstream 1 (f { busy := true, tk := 2, ring := 1, src := 0x200, rem := 0, claim := 128, infl := 1, half := List.replicate 64 3 }))

theorem witness_FrontEvents :
    (let x := (tStream id).chan 0; let f := x.fstream 1
     f.busy = true ∧ f.cancelling = false ∧ x.spad.err = [] ∧ f.half.length = 64 ∧ (x.ring f.ring).head.toNat % 4096 + 128 ≤ 4096 ∧
     f.rem = 0 ∧ (x.ring f.ring).head + 128 = f.claim ∧ (tStream id).room 0 f.tk) ∧
    (let x := (tStream (fun f => { f with rem := 256 })).chan 0; let f := x.fstream 1
     0 < credits (x.ring f.ring) f ∧ x.front.infl ≤ 46 ∧ x.dram.queue = [] ∧
     (∀ m : BitVec 4, x.requests m = true → m = 1)) ∧
    (let x := (tStream (fun f => { f with cancelling := true, infl := 0, ctk := some 3 })).chan 0
     (x.fstream 1).infl = 0 ∧ (x.fstream 1).ctk = some 3) ∧
    (let t := nx (exec (.moveFcancel 0 { fM1 with ctx := 1, src := 0, sl := 0, ring := 0 }) tMove)
     (t.chan 0).front.queue.map (·.cancel) = [true] ∧ ((t.chan 0).fstream 1).busy = false ∧ t.room 0 0) ∧
    (let t := nx (exec (.moveFront 0 fM1) tMove); (t.chan 0).front.queue.length = 1 ∧ (t.chan 0).freezing = false ∧
     (∀ n : Fin 16, ((t.chan 0).front.streams.get n).busy = false)) := by decide +kernel

theorem test_front_events : let t := nx (exec (.frontBurstReturn 0) (tStream id))
    rd8 (t.chan 0).spad.mem 0x103F = 3 ∧ rd8 (t.chan 0).spad.mem 0x1040 = 7 ∧ (t.chan 0).seq.rt 2 = 1 ∧ ((t.chan 0).ring 1).fill = 128 := by
  decide +kernel

/-- A running channel whose DMA context 1 moves 5 bytes of the scratchpad from 3 to 0x100, as far as `f` says. -/
def tDma (f : Dma → Dma) : State := tChan (fun x =>
  let x := (runs x).setReg DMA_CTRL 1
  let x := { x with spad := { x.spad with mem := wrBytes [] 3 [1, 2, 3, 4, 5] } }
  let x := x.setDctx 1 { active := some ⟨0, false, false, 3, 0x100, 5, 0, 3, 0, 2, ⟨16, 0⟩⟩ }
  { x with dma := f x.dma })

theorem witness_DmaEvents :
    (let x := (tDma (fun d => { d with running := some 1 })).chan 0
     x.engineWork = true ∧ x.bit DMA_CTRL 0 = true ∧ x.dma.running = some 1 ∧ (x.dctx 1).done = 0 ∧ x.spad.err = [] ∧ x.dram.err = [] ∧ x.dma.stuck = false ∧
     (x.dctx 1).active = some ⟨0, false, false, 3, 0x100, 5, 0, 3, 0, 2, ⟨16, 0⟩⟩ ∧ x.dmaHeld ≠ []) ∧
    (tDma id).room 0 2 ∧
    (let x := (tDma id).chan 0; x.dma.running = none ∧ x.dmaAhead 0 = false ∧ x.dma.gap = 0 ∧ (x.dctx 1).active ≠ none ∧
     (∀ j, j ≠ 1 → (x.dctx j).active = none)) ∧
    (let x := (tDma (fun d => { d with gap := 4 })).chan 0; (tDma id).fc < x.dma.gap) ∧
    (let x := (tDma (fun d => { d with queue := [(1, ⟨1, false, false, 3, 0x200, 5, 0, 3, 0, 2, ⟨17, 0⟩⟩)] })).chan 0
     (x.dctx 1).shadow = none) ∧ (tMove.chan 0).dma.queue = [] := by decide +kernel

theorem test_dma_moves : let t := nx (exec (.dmaTransferComplete 0) (tDma (fun d => { d with running := some 1 })))
    rdBytes (t.chan 0).spad.mem 0x100 6 = [1, 2, 3, 4, 5, 0] ∧ (t.chan 0).seq.rt 2 = 1 ∧ (t.chan 0).dma.running = none := by
  decide +kernel

/-- An instruction of an array with a record. -/
def tIns (opc : Byte) (count : Nat) (rcd : List Byte) : ArrIns :=
  { opc := opc, mod := 0, desc := 0, count := count, unit := 1, tk := 2, org := ⟨16, 0⟩, no := 0, rcd := rcd }

/-- A running channel whose array 0 holds, in int8 mode, the weights 2 and 3 in column 0 of two rows; entry 0 holds 10. -/
def tArr (f : Arr → Arr) : State := tChan (fun x =>
  let x := runs x
  let x := { x with spad := { x.spad with mem := wrBytes [] 0 [5, 7] }, acc := x.acc.set 0 { mem := [(0, 10)] } }
  x.setArr 0 (f { loaded := true, mode := 0, rows := 2, cols := 1, w := [(0, 2), (128, 3)] }))

/-- A record of 64 zero bytes. -/
def zRec : List Byte := List.replicate 64 0

theorem witness_ArrayEvents :
    (let x := (tArr id).chan 0; x.arrGo = true ∧ x.spad.err = [] ∧ (x.accOf 0).err = [] ∧ (x.arr 0).slot = none ∧ (x.arr 0).queue = []) ∧
    (let x := (tArr (fun a => { a with queue := [tIns 0x59 1 []] })).chan 0
     x.arrWaits 0 (tIns 0x59 1 []) = false ∧ x.touchesSlot 0 (tIns 0x59 1 []) = false ∧ x.arrWaits 0 (tIns 0x58 1 []) = false ∧
     arrHasRec 0x59 = false ∧ arrHasRec 0x58 = false) ∧
    ((((tArr id).chan 0).arr 0).mismatch (tIns 0x51 1 zRec) = false) ∧
    (let i := { tIns 0x57 128 [] with desc := 0x200 }
     let x := (tArr (fun a => { a with queue := [i] })).chan 0; let b := rdBytes x.spad.mem 0x200 64
     recRing i b = none ∧ lowest (recCauses i b) = none) ∧
    (let i := tIns 0x56 1 zRec
     let x := (tArr (fun a => { a with queue := [i] })).chan 0
     x.accEarlier 0 0 = false ∧ x.convEarlier 0 0 = false ∧ bitOf (field zRec 10 1) 3 = false ∧ x.tileEarlier 0 0 false = false ∧
     x.touchesSlot 0 i = false ∧ (∀ h ∈ List.replicate 1 (byteAt zRec 11), -32 ≤ h.toInt ∧ h.toInt ≤ 31) ∧ (tArr id).room 0 2) ∧
    (let d : DrainSlot := ⟨tIns 0x56 1 zRec, [0], [], some [[1, 0, 0, 0]]⟩
     ((tArr (fun a => { a with slot := some d })).chan 0).drainOuts d = some [[1, 0, 0, 0]] ∧ drainBytes d.ins zRec = 4) ∧
    (⟨0, 1, false, 5, 5, 0⟩ : CheckWin).rel 1 = .pass ∧ (⟨0, 1, false, 5, 6, 0⟩ : CheckWin).rel 1 = .fail ∧
    (⟨0, 1, true, 0x7F800000, 0, 0⟩ : CheckWin).rel 1 = .skip := by decide +kernel

/-- R124, R134: 5·2 + 7·3 added onto 10. -/
theorem test_mac :
    let t := nx (exec (.arrayInstrStart 0 0 .none) (tArr (fun a => { a with run := some (tIns 0x51 1 zRec) })))
    sget 0 ((t.chan 0).accOf 0).mem 0 = 41 := by decide +kernel

/-- A drain of entry 0 as one 32-bit word. -/
theorem test_drain :
    let i := { tIns 0x56 1 [] with desc := 0x200 }
    let t := nx (exec (.drainComplete 0 0) (nx (exec (.drainSlotEnter 0 0) (tArr (fun a => { a with queue := [i] })))))
    rdBytes (t.chan 0).spad.mem 0 4 = [10, 0, 0, 0] ∧ (t.chan 0).seq.rt 2 = 1 := by decide +kernel

/-- A CONV.POOL of one pixel with a 1 × 1 window; with `halo`, its row 0 comes from halo 0. -/
def tPassIns (halo : Bool) : DIns :=
  let b : List Byte := rdBytes (wrBytes (wrBytes [] 16 [1, 0, 1, 0, 1, 0]) 28 [1, 1, 1, 1]) 0 128
  let b := (b.set 52 1).set 62 1
  { opc := 0x63, mod := 0, desc := 0, count := 1, tk := 2, org := ⟨16, 0⟩, rcd := if halo then (b.set 61 4).set 22 1 else b }

/-- A running channel with that pass in slot 0. -/
def tPass (halo : Bool) : State := tChan (fun x =>
  let x := runs x
  { x with win := { x.win with slots := #v[some (tPassIns halo), none], halos := x.win.halos.set 0 { armed := true, waiting := true } } })

theorem witness_ConvPassEvents :
    (let x := (tPass false).chan 0; let i := tPassIns false
     x.win.queue = [] ∧ x.engineWork = true ∧ (tPass false).room 0 2 ∧ x.win.slots.get 0 = some i ∧ x.win.slots.get 1 = none ∧
     x.convWaits i = false ∧ (x.rowsReady i.rcd i.count).1 = true ∧ (x.halo 0).waiting = true ∧ x.haloStalls 0 = false ∧
     (match x.runPool i with | .go y => decide (y.win = x.win ∧ y.seq = x.seq) | .part _ _ => false | .exc _ _ => false) = true ∧
     (let z := x.setHalo 0 { x.halo 0 with waiting := false }
      match z.runPool i with | .go y => decide (y.win = z.win ∧ y.seq = x.seq) | .part _ _ => false | .exc _ _ => false) = true) ∧
    (let x := (tPass true).chan 0
     x.rowsReady (tPassIns true).rcd 1 = (false, some 0) ∧ x.haloStalls 0 = true) := by decide +kernel

/-- A CONV.WIN of one pixel with a 1 × 1 kernel over two channels, 5 and 7 at 0x100, one column with the weights 2 and 3 at 0x40, into entry
4 of array 0. -/
def tWinIns : DIns :=
  let b : List Byte := rdBytes (wrBytes (wrBytes (wrBytes [] 0 [0, 1]) 16 [1, 0, 1, 0, 2, 0]) 28 [1, 1, 1, 1]) 0 128
  let b := ((b.set 40 0x40).set 54 4).set 52 1
  { opc := 0x60, mod := 0, desc := 0, count := 1, unit := 1, tk := 2, org := ⟨16, 0⟩, rcd := b.set 62 1 }

def tWin : State := tChan (fun x =>
  let x := runs x
  { x with win := { x.win with slots := #v[some tWinIns, none] }, spad := { x.spad with
      mem := wrBytes (wrBytes (wrBytes [] 0x40 [2]) 0xC0 [3]) 0x100 [5, 7] } })

theorem witness_ConvResults :
    (let x := tWin.chan 0; let b := tWinIns.rcd
     x.convWaits tWinIns = false ∧ (x.rowsReady b 1).1 = true ∧ cLayout b = 0 ∧ cE2 b = 2 ∧ cIRing b = false ∧ x.spad.err = [] ∧
     unitArrs tWinIns.unit = [0] ∧ cTiles b false = [⟨0, 2, [0]⟩] ∧ cPixels b 1 = [(0, 0)] ∧ field b 36 4 = 0 ∧ cWRing b = false ∧
     cMode b = 0 ∧ cCols b ≤ 128 ∧ (x.accOf 0).err = [] ∧ inPad b (tapAt b 0 0 0) = false ∧
     cRow0 b ≤ (tapAt b 0 0 0).1.toNat ∧ (tapAt b 0 0 0).1.toNat < cRow0 b + cRows b) ∧
    (let x := (tPass false).chan 0; let b := (tPassIns false).rcd
     cLayout b = 0 ∧ cE2 b = 2 ∧ cIRing b = false ∧ x.spad.err = [] ∧ cPixels b 1 = [(0, 0)] ∧ cOW b = 1 ∧ cPMode b % 4 ≠ 2 ∧
     bitOf (cPMode b) 3 = false ∧ cKH b * cKW b = 1 ∧ cRow0 b ≤ (tapAt b 0 0 0).1.toNat ∧
     (tapAt b 0 0 0).1.toNat < cRow0 b + cRows b) := by decide +kernel

/-- R176, R181: 5·2 + 7·3. -/
theorem test_win : sget 0 (((nx (exec (.convPassComplete 0 0 0 .none) tWin)).chan 0).accOf 0).mem 512 = 31 := by decide +kernel

theorem test_pass : ((nx (exec (.convPassComplete 0 0 0 .none) (tPass false))).chan 0).seq.rt 2 = 1 := by decide +kernel

def tXferIns : Xfer :=
  { halo := false, ch := 1, dev := 0, slot := 2, row := 0, len := 128, src := 0x80, ring := none, tk := 2, org := ⟨16, 0⟩ }

/-- Channel 0 sends 128 bytes to slot 2 of channel 1, which is open to it with ring 3; the transfer is as `f` leaves it. -/
def tXfer (f : Xfer → Xfer) : State :=
  let v : Xfer := f tXferIns
  let s := tChan (fun x => { (runs x) with link := { x.link with xfers := [v] }, spad := { x.spad with mem := wrBytes [] 0x80 [9] } })
  ((s.setReg GLB_CHLIVE 3).modChan 1 (fun x =>
    (x.setReg (LINK_OPEN 2) 0x2003).setRing 3 { base := 0x1000, size := 0x1000, valid := true, prod := some (.link, 1) }))

theorem witness_RingStopEvents :
    (let s := tXfer id; s.passes 1 = false ∧ s.passes 0 = false ∧ s.ownDev = 0 ∧ (s.chan 1).slotOpen 2 0 0 = true ∧ (s.chan 1).slotOpen 1 0 0 = false ∧
     ((tXfer id).chan 0).engineGo = true ∧ s.dropStop 0 tXferIns = none ∧ s.nextTransit 0 1 = none ∧ 128 ≤ ((s.chan 1).ring 3).free ∧ s.room 0 2 ∧
     ((s.chan 1).reg (LINK_OPEN 0)).getLsbD 13 = false ∧ ((s.chan 1).ring 0).valid = false) ∧
    (let s := { (tXfer id) with fc := 9000 }; s.segWaits 0 true = true ∧ (s.chan 0).link.credR + 9000 ≤ s.fc) ∧
    (let p : Pkt := { (tXfer id).mkPkt 1 1 1 0 0 0 0 0 0 0 [] with sdev := 2 }
     let s := (tXfer id).modChan 0 (fun x => { x with link := { x.link with transit := [⟨p, 1⟩] } })
     s.nextTransit 0 1 = some (0, ⟨p, 1⟩) ∧ p.ddev.toNat = s.ownDev) ∧
    (let s := (tXfer id).setReg GLB_CHLIVE 1
     s.dropStop 0 tXferIns = some 1) ∧
    (let s := tXfer (fun v => { v with dev := 1, pos := 128 }); (1 : Nat) ≠ s.ownDev ∧ (s.chan 0).engineGo = true ∧ s.room 0 2) := by decide +kernel

theorem test_ring_block : let s := nx (exec (.ringBlockReceive 1 0 0) (tXfer id))
    let t := nx (exec (.moveRingComplete 0 .landed) (nx (exec (.ringStepReceive 1 0 false) s)))
    rd8 (t.chan 1).spad.mem 0x1000 = 9 ∧ (t.chan 0).seq.rt 2 = 1 ∧ (t.chan 0).link.xfers = [] := by decide +kernel

/-- Channel 1 waits for rank 0 in an all-gather of 4-byte blocks at 0x100, which channel 0 has sent; `n` blocks have landed. -/
def tColl (n : List Nat) : State :=
  let i : Coll := { rs := false, arrival := false, tag := 1, src := 0, dst := 0x100, b := 4, desc := 0, tk := 2, org := ⟨16, 0⟩, started := true,
                    rank := 1, members := [0, 1], got := n }
  let s := tChan (fun x => { x with link := { x.link with outbox := [⟨1, 0, 1, false, 0, [1, 2, 3, 4], ⟨16, 0⟩, true⟩] } })
  (s.setReg GLB_CHLIVE 3).modChan 1 (fun x => { (runs x) with link := { x.link with colls := [i] } })

theorem witness_CollectiveEvents :
    (let s := tColl [1]; let x := s.chan 1
     x.engineGo = true ∧ x.spad.err = [] ∧ s.passes 1 = false ∧ s.deadStop true 0 1 = none ∧ s.ownDev = 0 ∧ s.room 1 2 ∧ x.link.colls.length = 1 ∧
     (s.chan 0).link.outbox = [⟨1, 0, 1, false, 0, [1, 2, 3, 4], ⟨16, 0⟩, true⟩]) ∧
    ([0x11, 0] : List Byte).any (fun e => getField e 6 4 != (tColl []).ownDev) = true ∧
    ((tColl [1, 0]).chan 1).link.colls.map (fun i => decide (i.got.length = i.members.length)) = [true] := by decide +kernel

theorem test_collective : let t := nx (exec (.collectiveComplete 1 1 .landed) (nx (exec (.collectiveBlockReceive 1 0 0 false) (tColl [1]))))
    rdBytes (t.chan 1).spad.mem 0x100 5 = [1, 2, 3, 4, 0] ∧ (t.chan 1).seq.rt 2 = 1 ∧ (t.chan 1).link.colls = [] := by decide +kernel

/-- A running channel whose PTU has ATTN.PIN or ATTN.REF of the one entry at 0 in its queue: page 5, allocated, of frame 2. -/
def tPtu (opc : Byte) : State := tChan (fun x =>
  let x := (((runs x).setReg PTU_CTRL 1).setReg PTU_NDESC 8).setReg64 DRAM_TOP 0x40000000
  let x := (x.setReg64 PTU_DESC_BASE 0x10000).setReg64 PTU_SHIFT_BASE 0x20000
  { x with spad := { x.spad with mem := wrBytes [] 0 [5] }
           dram := { x.dram with mem := wrLe (wrBytes [] 8192 [1, 2, 3]) (0x10000 + 8 * 5) 8 (2 + 2 ^ 21 + 2 ^ 59) }
           ptu := { x.ptu with queue := [{ opc := opc, mod := 0, desc := 0, count := 1, tk := 2, org := ⟨16, 0⟩, rcd := List.replicate 64 0, n := 1 }]
                               copies := [⟨5, 6, 0, 2, 0⟩] } })

theorem witness_PageEvents :
    (let x := (tPtu 0x73).chan 0; let d := x.pdesc 5
     x.bit PTU_CTRL 0 = true ∧ x.engineGo = true ∧ x.ptu.walk = [] ∧ x.dram.hold = 0 ∧ x.dram.queue = [] ∧ x.ptu.releases = [] ∧ x.attn.queue = [] ∧ x.spad.err = [] ∧ x.dram.err = [] ∧
     entHandle (leNat (rdBytes x.spad.mem 0 4)) = 5 ∧ 5 < getField (x.reg PTU_NDESC) 21 0 ∧ x.dramOk (pdPpn d * 4096) 4096 = true ∧
     pdAlloc d = true ∧ pdGen d = entGen 5 ∧ getField d 63 60 = 0 ∧ pdPin d < 255 ∧ pdRef d < 65535 ∧ (tPtu 0x73).room 0 2 ∧
     pdPpn (x.pdesc 6) * 4096 + 4096 ≤ (x.reg64 PTU_SHIFT_BASE).toNat + 128 * 6) ∧
    (let y := (tPtu 0x73).chan 0
     let x := { y with ptu := { y.ptu with queue := [], walk := [⟨0, .pin 5, 0⟩] }, raised := [1] }
     x.engineGo = false ∧ (x.pdesc 5) = y.pdesc 5) ∧
    (let x := (tChan (fun x => { x.setReg PTU_CTRL 1 with ptu := { x.ptu with releases := [⟨5, 6, 0, 2, 0⟩] } })).chan 0
     x.bit PTU_CTRL 0 = true ∧ x.engineGo = false ∧ x.ptu.releases = [⟨5, 6, 0, 2, 0⟩]) ∧
    (State.reset.chan 0).bit PTU_CTRL 0 = false := by decide +kernel

/-- A running channel with ATTN.TABLE of operation `m` of one entry in its queue: 16 bytes at 0x100, into entry 0. -/
def tTable (m : BitVec 10) : State := tChan (fun x =>
  let x := runs x
  { x with spad := { x.spad with mem := wrBytes (wrBytes [] 0 [0, 1]) 0x100 [9, 8, 7] }
           attn := { x.attn with queue := [{ opc := 0x76, mod := m, desc := 0, count := 1, tk := 2, org := ⟨16, 0⟩ }] } })

/-- A running channel whose ATTN.APPEND puts token 0 of a sequence of D = 64 in int8, of one KV head, into page 5 of frame 2. -/
def tAppend : State :=
  let i : DIns := { opc := 0x71, mod := 0, desc := 0, count := 1, tk := 2, org := ⟨16, 0⟩, no := 3, rcd := (List.replicate 64 0).set 5 1 }
  (tPtu 0x73).modChan 0 (fun x =>
    let x := x.setReg64 PTU_SEQ_BASE 0x30000
    let m := wrLe (wrLe (wrLe x.dram.mem 0x30000 8 0x40000) 0x30010 1 1) 0x40000 4 5
    let x := x.setDctx 1 { active := some ⟨3, true, false, 0, 0, 0, 0, 0, 0, 2, ⟨16, 0⟩⟩ }
    { x with spad := { x.spad with mem := wrBytes (wrBytes (wrBytes [] 0 [1, 2]) 64 [3, 4]) 0x100 [5, 6] }
             dram := { x.dram with mem := m }, dma := { x.dma with running := some 1 }, ptu := {}
             attn := { x.attn with queue := [i] } })

/-- A running channel whose ATTN.PAGE of one query vector, D = 64, has its blocks behind it: maximum `m`, sum 2.0, accumulator 6.0. -/
def tPageIns : DIns :=
  { opc := 0x70, mod := 0, desc := 0, count := 1, tk := 2, org := ⟨16, 0⟩
    rcd := (((List.replicate 64 0).set 9 1).set 19 1).set 21 1 }

def tPageRun (m : Word) : State := tChan (fun x =>
  let x := (runs x).setReg NUM_LIB 1
  { x with acc := x.acc.set 1 { mem := [(0, 0x40C00000)] }, spad := { x.spad with mem := wrBytes [] 0x100 [1] }
           attn := { x.attn with queue := [tPageIns], lens := [(4, 1)], page := some { rows := [(m, 0x40000000)], looked := true } } })

theorem witness_AttentionResults :
    (let x := (tTable 1).chan 0; let b := rdBytes x.spad.mem 0 64
     x.engineWork = true ∧ x.spad.err = [] ∧ (tTable 1).room 0 2 ∧ zeroBytes b 8 64 = true ∧ field b 0 4 = 0x100 ∧ field b 4 4 = 0) ∧
    (let x := tAppend.chan 0
     x.engineWork = true ∧ x.spad.err = [] ∧ x.dram.hold = 0 ∧ x.dram.queue = [] ∧ x.dram.err = [] ∧ x.dmaActive.isSome = true ∧
     x.seqField 0 16 1 = 1 ∧ x.seqField 0 12 4 = 0 ∧ geomD (x.seqField 0 17 1) = 64 ∧ pageT 64 0 = 32 ∧
     entHandle (x.dle (x.seqField 0 0 8) 4) = 5 ∧ pdPpn (x.pdesc 5) * 4096 = 8192 ∧ (x.reg64 PTU_SHIFT_BASE).toNat = 0x20000 ∧
     x.seqAt 0 = 0x30000) ∧
    (let x := (tPageRun 0).chan 0
     x.engineWork = true ∧ (x.apJobs tPageIns) = [⟨0, 0, 0, 1⟩] ∧ x.apLk ⟨0, 0, 0, 1⟩ = 0 ∧ x.winsOf 1 0 = false ∧ (x.accOf 1).err = [] ∧
     (∀ n : Fin 8, (x.dma.ctx.get n).active = none ∧ (x.dma.ctx.get n).shadow = none) ∧ apD tPageIns.rcd = 64 ∧
     bitOf (field tPageIns.rcd 18 1) 5 = false) := by decide +kernel

theorem test_table : ((nx (exec (.attnInstrComplete 0 false 0 .none) (tTable 1))).chan 0).attn.bias = [(0, 0x70809)] ∧
    rdBytes ((nx (exec (.attnInstrComplete 0 false 0 .none) (tTable 2))).chan 0).attn.lens 0 3 = [9, 8, 7] := by decide +kernel

theorem test_append : let m := ((nx (exec (.attnInstrComplete 0 false 0 .none) tAppend)).chan 0).dram.mem
    rdBytes m 8192 2 = [1, 2] ∧ rdBytes m (8192 + 2048) 2 = [3, 4] ∧ rd8 m 0x20280 = 5 ∧ rd8 m 0x202C0 = 6 ∧
    rdLe m 0x3000C 4 = 1 := by decide +kernel

/-- R236: 6.0 over 2.0; and a vector without keys. -/
theorem test_page :
    let t := nx (exec (.attnInstrComplete 0 false 0 .none) (tPageRun 0))
    let u := nx (exec (.attnInstrComplete 0 false 0 .none) (tPageRun 0xFF800000))
    rdBytes (t.chan 0).spad.mem 0x100 4 = [0, 0, 0x40, 0x40] ∧ rd8 (u.chan 0).spad.mem 0x100 = 0 ∧ (u.chan 0).reg ATT_EMPTY = 1 ∧
    (t.chan 0).seq.rt 2 = 1 := by decide +kernel

theorem test_ptu : let t := nx (exec (.ptuOperation 0) (tPtu 0x73))
    pdPin ((t.chan 0).pdesc 5) = 1 ∧ pdRef (((nx (exec (.ptuOperation 0) (tPtu 0x72))).chan 0).pdesc 5) = 2 ∧
    ((nx (exec (.attnInstrComplete 0 true 0 .none) t)).chan 0).seq.rt 2 = 1 := by decide +kernel

/-- A running channel with SCAN.SLOT of operation `m` on slot 3, two rows at entry 5 of array 0, in the queue or in the fence. -/
def tScan (m : BitVec 10) (fence : Bool) : State := tChan (fun x =>
  let x := runs x
  let i : DIns := { opc := 0x82, mod := m, desc := 0, count := 1, tk := 2, org := ⟨16, 0⟩, rcd := [3, 0, 0, 0, 5, 0, 2, 0] }
  let x := { x with acc := x.acc.set 0 { mem := [(640, 7), (896, 9)] } }
  if fence then { x with scan := { x.scan with fence := [i] } } else { x with scan := { x.scan with queue := [i] } })

theorem witness_ScanEvents :
    (let s := tScan 0 false; let x := s.chan 0
     let i : DIns := { opc := 0x82, mod := 0, desc := 0, count := 1, tk := 2, org := ⟨16, 0⟩, rcd := [3, 0, 0, 0, 5, 0, 2, 0] }
     x.scan.queue = [i] ∧ i.binds.bad = false ∧ x.engineWork = true ∧ (∀ k : Fin 2, (x.accOf k).err = []) ∧ x.mustFence i = false ∧ x.scanWaits i = false ∧ s.room 0 2 ∧ (x.slot 3).state ≠ 1 ∧
     x.slotOwns 0 5 2 = false ∧ (x.slot 3).ckpt = false ∧ (x.slot 3).gen = BitVec.ofNat 16 (field i.rcd 16 2)) ∧
    (let x := (tScan 0 true).chan 0; x.scan.fence.length = 1 ∧ (x.slot 3).state ≠ 1) ∧
    (let t := nx (exec (.scanInstrComplete 0 .none) (tScan 0 false)); ((t.chan 0).slot 3).state = 1) := by decide +kernel

/-- A running channel with a SCAN instruction on slot 3, one row of integer words at entry 5 of array 0, point 2, in the queue. -/
def tScanIns (opc : Byte) (b : List Byte) : DIns := { opc := opc, mod := 0, desc := 0, count := 1, tk := 2, org := ⟨16, 0⟩, rcd := b }

def tScanRow (i : DIns) : State := tChan (fun x =>
  let x := (runs x).setSlot 3 { state := 1, base := 5, points := [(0, 2)] }
  { x with acc := x.acc.set 0 { mem := [(640, 8)] }, scan := { x.scan with slots := (x.setSlot 3 { state := 1, base := 5, points := [(0, 2)] }).scan.slots, queue := [i] }
           spad := { x.spad with mem := wrBytes [] 0x100 [3] } })

/-- MODE A, DMODE 0, OMODE 1, int32 outputs at 0x400. -/
def tStepIns : DIns := tScanIns 0x80 (((((List.replicate 64 0).set 0 3).set 1 9).set 5 1).set 25 4)
/-- GUARD 1. -/
def tNormIns : DIns := tScanIns 0x81 (((List.replicate 64 0).set 0 3).set 4 1)
/-- SRC 0x100. -/
def tInitIns : DIns := tScanIns 0x83 (((List.replicate 64 0).set 0 3).set 9 1)

theorem witness_ScanResults :
    (∀ i ∈ [tStepIns, tNormIns, tInitIns], let s := tScanRow i; let x := s.chan 0
     x.engineWork = true ∧ x.mustFence i = false ∧ x.scanWaits i = false ∧ x.spad.err = [] ∧ (∀ k : Fin 2, (x.accOf k).err = []) ∧ s.room 0 2 ∧
     field i.rcd 0 1 = 3 ∧ (x.slot 3).state = 1 ∧ (x.slot 3).rows = 1 ∧ (x.slot 3).point 0 = 2) ∧
    (let r := stepRec tStepIns.rcd
     r.add = true ∧ r.dmode = 0 ∧ r.omode = 1 ∧ r.rsrc = 0 ∧ r.esrc = 0 ∧ r.csrc = 0 ∧ r.flags = 0 ∧ r.normk = 0 ∧ r.isrc = 0x100 ∧
     lowest (((tScanRow tStepIns).chan 0).chunkCauses tStepIns r) = none) ∧
    field tNormIns.rcd 6 2 = 0 ∧ field tInitIns.rcd 8 4 = 0x100 ∧ field tInitIns.rcd 12 4 = 0 := by decide +kernel

/-- R248: 8 + 3·2²; R257: 8·2²⁶ is the largest below 2³⁰ at 28; R261: 3. -/
theorem test_scan_rows :
    let o (i : DIns) := (nx (exec (.scanInstrComplete 0 .none) (tScanRow i))).chan 0
    sget 0 ((o tStepIns).acc.get 0).mem 640 = 20 ∧ rdBytes (o tStepIns).spad.mem 0x400 4 = [5, 0, 0, 0] ∧
    ((o tNormIns).slot 3).point 0 = 28 ∧ sget 0 ((o tNormIns).acc.get 0).mem 640 = 8 * 2 ^ 26 ∧
    sget 0 ((o tInitIns).acc.get 0).mem 640 = 3 ∧ (o tInitIns).seq.rt 2 = 1 := by decide +kernel

theorem test_scan_slot : let t := nx (exec (.scanInstrComplete 0 .none) (tScan 0 false))
    sget 0 ((t.chan 0).acc.get 0).mem 640 = 0 ∧ sget 0 ((t.chan 0).acc.get 0).mem 896 = 9 ∧ (t.chan 0).seq.rt 2 = 1 := by
  decide +kernel

/-- Channel 0 with raw stream 0 on: RAW8, 128 × 3, ring 1 of 4 KiB, guard ring 2; its frame is `f`, CFG has the bits `m` besides. -/
def tCam (m : Word) (f : Raw) : State := tChan (fun x =>
  let x := (((x.setReg IN_CTRL 9).setReg (IN_S_CFG 0) (0xA81 ||| m)).setReg (IN_S_SIZE 0) 0x30080).setReg (IN_S_RING 0) 0x81
  let x := (x.setRing 1 { base := 0x1000, size := 0x1000, valid := true }).setRing 2 { base := 0x2000, size := 0x1000, valid := true }
  x.modRaw 0 (fun _ => f))

theorem witness_CameraEvents :
    (let s := tCam 0 { active := true }; let x := s.chan 0
     s.parked 0 = false ∧ x.csiRuns 0 = true ∧ x.csiRuns 1 = false ∧ x.bit IN_CTRL 0 = true ∧ x.inH 0 = 3 ∧ lineBytes (x.inDt 0) (x.inW 0) = 128 ∧
     x.inRuns 0 0 = true ∧ x.inLevels 0 = 1 ∧ 128 ≤ (x.ring (x.inRing 0 0)).free ∧ 32 ≤ (x.ring (x.inGuard 0)).free ∧ x.inCfg 0 0 0 = 1 ∧
     x.inCfg 1 0 0 = 0 ∧ x.inConfigOk 1 = false) ∧
    (((tCam 0x300000 { active := true }).chan 0).inCfg 0 20 20 = 1 ∧ ((tCam 0x300000 { active := true }).chan 0).inCfg 0 21 21 = 1) ∧
    (let x := ((tCam 0 {}).chan 0).setReg (IN_S_CFG 0) 0xA80; x.inCfg 0 0 0 = 0 ∧ x.inConfigOk 0 = true) ∧
    ((tCam 0 {}).chan 0).intake.raw.get 0 = {} := by decide +kernel

theorem test_camera_row : let s := tCam 0 { active := true, ended := true, lines := List.replicate 3 (List.replicate 128 7, false) }
    rd8 ((nx (exec (.intakeRowOutput 0 0) s)).chan 0).spad.mem 0x1005 = 7 := by decide +kernel

/-- Channel 0 with compressed stream 0 of 8 × 8 on, and a batch of one slot, resolved as `w` says; frame 5 has arrived. -/
def tBatch (host : Bool) (w : Option SlotRes) (dl : Dword := 5) : State := tChan (fun x =>
  let x := ((x.setReg IN_CTRL 9).setReg (IN_S_CFG 0) (if host then 0x80003 else 3)).setReg (IN_S_SIZE 0) 0x80008
  let x := ((x.setReg (IN_S_DECMAX 0) 100).setReg (IN_S_OSIZE 0) 0x10001).setReg IN_BRING 0x41
  let x := x.setRing 1 { base := 0x1000, size := 0x1000, head := 128, valid := true, cons := some (.intake, 1) }
  let x := x.modComp 0 (fun v => { v with frames := [{ frame := 5, total := 1, capture := 0, fcrc := 0, stamp := 0, pos := 0, len := 64,
                                                        got := [], isOpen := false, gone := false }], next := 1 })
  { x with intake := { x.intake with batches := [{ bid := 9, deadline := dl, odst := 0, opitch := 128, gdst := 0x800,
                                                   slots := [{ stream := 0, sample := 0, ord := 0, res := w }] }]
                                     resolved := if w.isSome then [(9, 0)] else [] } })

def tBatchRes : SlotRes := { flags := 2, buf := none, cam := 0, capture := 0, src := 0, damage := 0 }

theorem witness_BatchEvents :
    (let s := tBatch false none; let x := s.chan 0
     s.parked 0 = false ∧ x.fenced = false ∧ x.bit IN_BRING 6 = true ∧ (x.ring 1).fill = 128 ∧ x.spad.err = [] ∧ x.dram.err = [] ∧
     x.batchOk (rdBytes x.spad.mem 0x1000 128) = false ∧ x.bit IN_CTRL 3 = true ∧ x.intake.decode = none ∧ x.unresolved.length = 1 ∧
     (x.unresolved.map (fun e => (x.slotFrame e.2.2).isSome && x.inRuns e.2.2.stream 1)) = [true] ∧ x.bufRead 0 0 = false ∧ x.bufRead 0 1 = false ∧
     x.dram.hold = 0 ∧ (∀ b ∈ x.intake.batches, s.now < b.deadline) ∧ (0 : Dword) ≤ s.now) ∧
    (let x := (tBatch true none).chan 0; x.inRuns 0 1 = true ∧ x.inCfg 0 19 19 = 1 ∧ (x.intake.comp.get 0).host = [] ∧ (x.intake.comp.get 0).postOrd 5 = some (some 0) ∧ (x.intake.comp.get 0).postOrd 6 = some none ∧
     (x.unresolved.find? (fun e => e.2.2.stream == 0)).isSome = true) ∧
    (let s := { nx (exec (.jpegDecodeStart 0) (tBatch false none)) with fc := 100 }
     (s.chan 0).intake.decode = some (9, 0, 0) ∧ ((s.chan 0).bslot 9 0).isSome = true ∧ ((s.chan 0).reg (IN_S_DECMAX 0)).toNat = 100) ∧
    (let x := (tBatch false (some tBatchRes)).chan 0; x.intake.resolved = [(9, 0)]) := by decide +kernel

/-- A descriptor of one slot, in the ring of a channel whose stream takes it. -/
theorem test_batch_ok : let x := ((tBatch false none).chan 0)
    x.batchOk (rdBytes (wrBytes [] 0 [1, 0, 0, 0, 1, 0, 0, 0, 0, 0, 0, 0, 0, 0, 0, 0, 0, 0, 0, 0, 128]) 0 128) = true := by decide +kernel

theorem test_deadline : ((nx (exec (.batchDeadline 0) (tBatch false none 0))).chan 0).unresolved = [] := by decide +kernel

theorem test_assembly : let t := nx (exec (.slotAssemblyComplete 0) (tBatch false (some tBatchRes)))
    (t.chan 0).intake.past = [(9, 1)] ∧ rdBytes (t.chan 0).spad.mem 0x800 6 = [9, 0, 0, 0, 0, 0] := by decide +kernel

/-- Channel 0 in a tick: one axis with one loop, OUTMIN −1 and OUTMAX 1, the link UP, a valid sample frame waiting. -/
def tTick (g : Servo → Servo) : State := tChan (fun x =>
  let x := x.setReg SERVO_CTRL 1
  let m := wrBytes (wrBytes (wrBytes (wrBytes [] 0 [10, 0, 0, 0, 4, 0, 0, 0, 100, 0, 0, 0, 1, 0, 1]) 64 [1])
    72 [0, 0, 255, 255, 0, 0, 1, 0]) 128 [1, 1, 0]
  let x := { x with drv := { state := .up } }
  x.modServo (fun v => g { v with banks := #v[m, []], phase := .started, fc0 := 0,
                                  arrived := [(wrBytes [] 12 [1] |> fun f => rdBytes (wrBytes f 40 [1]) 0 48, 7, 0)] }))

theorem witness_ServoEvents :
    (let s := { tTick id with fc := 10 }; let v := (s.chan 0).servo; let fr := (v.arrived.getD 0 ([], 0, 0)).1
     s.parked 0 = false ∧ v.phase = .started ∧ bWaits v.bank = false ∧ v.fc0 + bTeval v.bank ≤ s.fc ∧ 0 < v.fc0 + bTeval v.bank ∧ (s.chan 0).bit SERVO_STAT 1 = false ∧ (s.chan 0).bit SERVO_RING 6 = false ∧
     liveAxes v.bank = [0] ∧ v.fc0 + bTeval v.bank + v.cost v.bank + 24 ≤ v.fc0 + bTout v.bank ∧ bitOf (field fr 10 1) 0 = false ∧ 0 < field fr 12 1 ∧
     bitOf (field ((fr.drop 16).take 32) 24 2) 0 = true ∧ loopEn v.bank 0 0 = true ∧ loopNosel v.bank 0 0 = false ∧
     bInt v.bank (axAt 0 + 8) ≤ bInt v.bank (axAt 0 + 12) ∧ bNax v.bank = 1 ∧ v.periodNs ≠ 0 ∧ s.gridNow ≤ nsOf ((s.chan 0).reg64 SERVO_T0)) ∧
    (let s := { tTick (fun v => { v with phase := .evaluated }) with fc := 76 }; let v := (s.chan 0).servo
     v.fc0 + bTout v.bank ≤ s.fc + 24 ∧ (v.axis 0).fin = false) ∧
    (let s := tTick (fun v => { v with next := some (0, 4), armed := true })
     (0 : Nat) ≤ s.nowNs ∧ (s.chan 0).reg64 SERVO_SWTIME ≤ shortOf 0) ∧
    (let f := rdBytes (wrBytes (wrBytes [] 12 [1]) 40 [1]) 0 48; let fr := f ++ leBytes 4 (crc32 f).toNat
     let s := { tTick (fun v => { v with phase := .waiting 0 0, arrived := [] }) with fc := 10 }; let v := (s.chan 0).servo
     fr.length = 20 + 32 * bNax v.bank ∧ field fr 12 1 = bNax v.bank ∧ field fr 48 4 = (crc32 (fr.take 48)).toNat ∧ bitOf (field (fr.take 48) 10 1) 0 = false ∧
     bitOf (field (((fr.take 48).drop 16).take 32) 24 2) 0 = true ∧ s.fc + v.cost v.bank + 24 < v.fc0 + bTout v.bank ∧ (s.chan 0).drvLoops = false ∧ (s.chan 0).drv.state = .up) ∧
    (let v := ((tTick id).chan 0).servo; v.armCode v.otherBank = 1) ∧
    (let v := ((tTick (fun v => { v with active := 1, banks := #v[v.bank, []] })).chan 0).servo; v.armCode v.otherBank = 0) := by
  decide +kernel

/-- A proportional loop of gain 0 gives 0, within the bounds; the frame that follows carries ENABLE. -/
theorem test_servo_frame :
    let t := nx (exec (.servoHandoff 0 0) { nx (exec (.servoEvalStart 0 0 0 false) { tTick id with fc := 10 }) with fc := 76 })
    (t.chan 0).drv.frame.length = 36 ∧ (t.chan 0).drv.frame.getD 24 0 = 1 ∧ (t.chan 0).reg DRV_TXFR = 1 := by decide +kernel

/-- Channel 0 with the drive link on, in training as `d` says. -/
def tDrv (d : Drv) : State := tChan (fun x => { (x.setReg DRV_CFG 1) with drv := d })

/-- A sample frame of no axes. -/
def tSmp : List Byte := withCrc (List.replicate 16 0)

theorem witness_DriveLinkEvents : (tDrv {}).parked 0 = false ∧ ((tDrv {}).chan 0).bit DRV_CFG 0 = true ∧
    0 + 1000000 * 2 ^ 32 ≤ ({ tDrv { state := .seek } with time := { tDrv {} |>.time with sec := 1 } } : State).nowFine ∧
    (let x := (tDrv { state := .up, lock := true }).chan 0
     x.drvLoops = false ∧ x.servo.phase = .idle ∧
     (20 : BitVec 16).toNat = 20 + 32 * bNax x.servo.bank ∧ tSmp.length = 20 ∧ field tSmp 12 1 = bNax x.servo.bank ∧
     field tSmp 16 4 = (crc32 (tSmp.take 16)).toNat ∧ field (List.replicate 20 (0 : Byte)) 16 4 ≠ (crc32 (List.replicate 16 0)).toNat) := by
  decide +kernel

/-- The order of training (R322). -/
theorem test_training :
    let s := tDrv { state := .locked }
    let s := nx (exec (.drvEchoReceive 0 1 2 30000) (nx (exec (.drvTrnReceive 0 2 0xD1) s)))
    ((nx (exec (.drvTrnReceive 0 3 0xD1) s)).chan 0).drv.state = .up ∧ (s.chan 0).reg DRV_RTT = 8880 := by decide +kernel

/-- Channel 0 with a running Almanac of frame 1,000 µs whose bank holds one entry: type, SRC and OFFSET as `w` says, class 0. -/
def tAlm (w : Word) (f : Channel → Channel) : State := tChan (fun x =>
  let x := (x.setReg64 DRAM_TOP 0x40000000).setReg PTU_FREE_HEAD 0
  let bank := wrBytes (wrBytes [] 4 (leBytes 4 1000 ++ [1])) 4096 (leBytes 4 w.toNat ++ leBytes 4 1000)
  let bank := wrBytes bank 1152 [8]
  f { x with alm := { x.alm with running := true, active := 0, banks := #v[bank, wrBytes [] 0 [9]], loaded := #v[true, true] }, pm := tKernel })

/-- A RUN command of class 0 for the kernel of `tKernel`. -/
def tHeadCmd : Cmd := ⟨1, 1, 0, 0, 8, 0, 0, 0, 0, 0⟩

/-- The command waits at the head. -/
def tHeads (x : Channel) : Channel := { x with cmd := { x.cmd with accepted := [tHeadCmd] } }

/-- The time base stands `n` ms after second 0. -/
def atMs (n : Nat) (s : State) : State := { s with time := { s.time with ns := BitVec.ofNat 30 (1000000 * n) } }

theorem witness_AlmanacEvents :
    (let s := atMs 1 (tAlm 0 id); let x := s.chan 0
     s.parked 0 = false ∧ x.alm.running = true ∧ x.cmd.run = none ∧ x.alm.armed = none ∧ x.frame0 + bkFrame x.bank ≤ s.nowNs ∧
     s.protDue 0 = some 1 ∧ bkNent x.bank - x.alm.ahead = 1) ∧
    (let s := tAlm 0x100000 tHeads; let x := s.chan 0
     s.seqFree 0 = true ∧ s.boundary 0 = some 0 ∧ x.alm.isOpen = false ∧ s.cutFirst 0 0 = false ∧ x.canOpen 0 0 = true ∧ (bkEnt x.bank 0).typ = 1) ∧
    (let s := tAlm 0 id; let x := s.chan 0
     (bkEnt x.bank 0).typ = 0 ∧ (bkEnt x.bank 0).src = false ∧ x.headOf (bkEnt x.bank 0).cls = none ∧ x.canOpen 0 0 = true) ∧
    (let s := tAlm 0 tHeads; let x := s.chan 0
     x.headOf (bkEnt x.bank 0).cls = some tHeadCmd ∧ x.rcdCode tHeadCmd = 0 ∧ s.expired tHeadCmd = false ∧
     x.startCheck (tHeadCmd.prog.toNat % 0x8000) (some (bkGrant x.bank 0)) (x.charged 0) (bkEnt x.bank 0).budget true = 0) ∧
    (let s := tAlm 0x10000000 id; let x := s.chan 0
     (bkEnt x.bank 0).src = true ∧ x.startCheck (stProg x.bank 0) (some (bkGrant x.bank 0)) (x.charged 0) (bkEnt x.bank 0).budget true = 0) ∧
    (let s := tAlm 0x100000 (fun x => { tHeads x with alm := { x.alm with isOpen := true } }); let x := s.chan 0
     s.cutFirst 0 (bkNent x.bank) = false ∧ x.canOpen 1 0 = false ∧
     (x.frame0 + 1000 * 0) * pointMhz (s.point 0) + 1000 * (bkEnt x.bank 0).budget ≤ x.horizon * pointMhz (s.point 0)) ∧
    (let s := atMs 1 (tAlm 0 (fun x => { x with alm := { x.alm with armed := some 2 } })); let x := s.chan 0
     x.fenced = false ∧ x.cmd.run = none ∧ x.alm.armed = some 2 ∧ x.frame0 + bkFrame x.bank ≤ s.nowNs) ∧
    (let s := tAlm 0 (fun x => { x with alm := { x.alm with armed := some 1 } }); nsOf ((s.chan 0).reg64 ALM_SWTIME) ≤ s.nowNs) ∧
    (let x := (tAlm 0 (fun x => { x with cmd := { x.cmd with run := some { tRun with src := .standing 0, phase := .finished } } })).chan 0
     x.fenced = false ∧ x.restore = [] ∧ ∀ a, (x.servo.axis a).stage = []) ∧
    (let s := atMs 1 (tAlm 0 runs); s.protDue 0 = some 1 ∧ tRun.hailRun = false) := by decide +kernel

/-- The running command is cut at the end of the frame. -/
theorem test_cut : let t := nx (exec (.protectedBoundaryCut 0) (atMs 1 (tAlm 0 runs)))
    (t.chan 0).reg ALM_CUT = 1 ∧ ((t.chan 0).cmd.run.map (·.status)) = some 2 := by decide +kernel

/-- The standing record's kernel starts. -/
theorem test_entry_open : let t := nx (exec (.almEntryOpen 0) (tAlm 0x10000000 id))
    (t.chan 0).seq.pc = 8 ∧ (t.chan 0).seq.rs 3 = 0x8000000000000000 := by decide +kernel

/-- The bytes of an image of an empty context of channel 0: a header, and nothing after its directory. -/
def tFrzMem : Mem := [(0, 0x31), (1, 0x5A), (2, 0x46), (3, 0x4B), (4, 1), (25, 3), (28, 0x71), (29, 0x3B), (30, 0xD3), (31, 0x4E)]
/-- The image. -/
def tFrzImg : List Byte :=
  [0x31, 0x5A, 0x46, 0x4B, 1] ++ List.replicate 20 0 ++ [3, 0, 0, 0x71, 0x3B, 0xD3, 0x4E] ++ List.replicate 736 0
theorem tImg_read : rdBytes tFrzMem 0 768 = tFrzImg := by decide +kernel

theorem crcRun_append (a b : List Byte) (c : Word) : crcRun (a ++ b) c = crcRun b (crcRun a c) := by
  induction a generalizing c with
  | nil => rfl
  | cons x r ih => exact ih _

theorem crcRun_zeros (n : Nat) (c : Word) : crcRun (List.replicate (n + 64) 0) c = crcRun (List.replicate n 0) (crcRun (List.replicate 64 0) c) := by
  rw [Nat.add_comm, ← List.replicate_append_replicate, crcRun_append]

theorem tImg_crc : crc32 (tFrzImg.take 28 ++ leBytes 4 0 ++ tFrzImg.drop 32) = 0x4ED33B71 := by
  have h : tFrzImg.take 28 ++ leBytes 4 0 ++ tFrzImg.drop 32 =
    ([0x31, 0x5A, 0x46, 0x4B, 1] ++ List.replicate 20 0 ++ [3, 0, 0, 0, 0, 0, 0]) ++ List.replicate (32 + 64 + 64 + 64 + 64 + 64 + 64 + 64 + 64 + 64 + 64 + 64) 0 := by
    decide +kernel
  have z (a b : Word) (h : crcRun (List.replicate 64 0) a = b) (n : Nat) :
      crcRun (List.replicate (n + 64) 0) a = crcRun (List.replicate n 0) b := by rw [crcRun_zeros, h]
  rw [h, crc32, crcRun_append,
    show crcRun ([0x31, 0x5A, 0x46, 0x4B, 1] ++ List.replicate 20 0 ++ [3, 0, 0, 0, 0, 0, 0]) 0xFFFFFFFF = 0x67e9f5db by decide +kernel,
    z _ 0xac67c73a (by decide +kernel), z _ 0xdaffd3a9 (by decide +kernel), z _ 0x1bc332a8 (by decide +kernel), z _ 0xe867dfd4 (by decide +kernel),
    z _ 0x510a3b53 (by decide +kernel), z _ 0xa6d10f24 (by decide +kernel), z _ 0x8be41168 (by decide +kernel), z _ 0x11d71bf9 (by decide +kernel),
    z _ 0xefe6c4d2 (by decide +kernel), z _ 0x18bca7dc (by decide +kernel), z _ 0x5e15bc7b (by decide +kernel)]
  decide +kernel

/-- Its CRC holds. -/
theorem tImg_ok : State.reset.imageOk 0 tFrzImg tFrzImg = true := by
  unfold State.imageOk
  rw [tImg_crc]
  decide +kernel

/-- A frozen context with this command. -/
def tFrz (r : Option RunCmd) : Frozen := (State.reset.chan 0).snapshot [] 768 |> fun f => { f with run := r, accs := [] }

/-- Channel 0 with a THAW of address 0 at work. -/
def tThaw (p : Phase) (f : Option Frozen) : State := tChan (fun x =>
  let x := x.setReg64 DRAM_TOP 0x40000000
  { x with frz := f, dram := { x.dram with mem := tFrzMem }
           cmd := { x.cmd with run := some { cmd := ⟨1, 6, 0, 0, 0, 0, 0, 0, 0, 0⟩, phase := p } } })

theorem tThaw_ok (p : Phase) (f : Option Frozen) : (tThaw p f).imageOk 0 tFrzImg tFrzImg = true := tImg_ok

theorem witness_FreezeEvents :
    (let x := (tThaw .started (some (tFrz none))).chan 0; x.bit FRZ_CTRL 0 = false ∧ x.frz.isSome = true ∧ x.thawing = true ∧ x.dram.hold = 0 ∧ x.halted = false) ∧
    (let x := (tChan (fun x => { x with frz := some (tFrz none) })).chan 0; x.frz.isSome = true ∧ x.thawing = false) ∧
    (let x := (tChan (fun x => x.setReg FRZ_LIMIT 0x1000000)).chan 0
     x.fenced = false ∧ x.frz = none ∧ x.bit FRZ_CTRL 0 = false ∧ x.alm.running = false ∧ x.cmd.run = none) ∧
    (let x := (tChan (fun x => (runs x).setReg FRZ_STAT 1)).chan 0
     x.bit FRZ_STAT 0 = true ∧ x.cmd.run = some tRun ∧ x.bit FRZ_CTRL 1 = false ∧ x.halted = false ∧ tRun.noFrz = false) ∧
    (let x := (tChan (fun x => x.setReg FRZ_STAT 2)).chan 0
     x.freezing = true ∧ x.fenced = false ∧ x.halted = false ∧ x.settled = true ∧ x.dram.err = [] ∧ x.dma.running = none ∧ x.dram.hold = 0 ∧ x.spad.err = [] ∧
       (∀ k : Fin 2, (x.accOf k).err = [])) ∧
    (let x := (tThaw .loading (some (tFrz (some tRun)))).chan 0
     ∃ r f, x.cmd.run = some r ∧ r.phase = .loading ∧ x.frz = some f ∧ f.scanQ = [] ∧ f.scanF = [] ∧ f.run = some tRun) := by
  refine ⟨by decide +kernel, by decide +kernel, by decide +kernel, by decide +kernel, by decide +kernel,
    ⟨_, _, rfl, by decide +kernel, rfl, by decide +kernel⟩⟩

/-- An empty context fits in 16 MiB. -/
theorem witness_FreezeEvents_fits : (let x := (tChan (fun x => x.setReg FRZ_LIMIT 0x1000000)).chan 0
    x.frzBytes true ≤ (x.reg FRZ_LIMIT).toNat) ∧
    (let x := (tChan (fun x => (runs x).setReg FRZ_LIMIT 0x1000000)).chan 0; x.frzBytes true ≤ (x.reg FRZ_LIMIT).toNat ∧ x.cmd.run ≠ none) := by
  refine ⟨?_, by decide +kernel⟩
  intro x
  have hl : ∀ q : Fin 2 × Nat × Nat, (x.frzEntries q).length ≤ q.2.2 := fun q =>
    Nat.le_trans (List.length_filter_le _ _) (by simp)
  have ha : x.frzAccs = [(0, 0, 4096), (1, 0, 4096)] := by decide +kernel
  have h0 := hl (0, 0, 4096)
  have h1 := hl (1, 0, 4096)
  have hr : x.frzRings = [] := by decide +kernel
  have hs : x.liveSlots = [] := by decide +kernel
  have hm : (x.reg FRZ_LIMIT).toNat = 0x1000000 := by decide +kernel
  unfold Channel.frzBytes
  rw [ha, hr, hs, hm]
  simp only [List.map_cons, List.map_nil, List.foldl_cons, List.foldl_nil] at *
  omega

/-- A THAW of the image passes its checks while its context is frozen, and is refused when none is. -/
theorem witness_FreezeEvents_thaw :
    (let s := tThaw .started (some (tFrz none)); let x := s.chan 0
     ∃ r, x.cmd.run = some r ∧ r.src = .ring ∧ r.phase = .started ∧ r.cmd.kind = 6 ∧ rdBytes x.dram.mem r.cmd.prog.toNat 768 = tFrzImg ∧
       field tFrzImg 24 4 = 768 ∧ x.dramOk 0 768 = true ∧ s.thawLate 0 r tFrzImg = false ∧ x.dram.queue = [] ∧ s.thawCode 0 r tFrzImg tFrzImg = 0) ∧
    (let s := tThaw .started none; ∃ r, (s.chan 0).cmd.run = some r ∧ s.thawCode 0 r tFrzImg tFrzImg = 0x0021) := by
  refine ⟨⟨_, rfl, by decide +kernel, by decide +kernel, by decide +kernel, tImg_read, by decide +kernel, by decide +kernel, by decide +kernel,
    by decide +kernel, ?_⟩, ⟨_, rfl, ?_⟩⟩
  all_goals (unfold State.thawCode; rw [tThaw_ok]; decide +kernel)

/-- Channel 0 with its port on, as `d` says. -/
def tCas (d : Cas) : State := tChan (fun x => { (x.setReg CAS_CTRL 1) with cas := d })

/-- A packet for channel 3 of device `dev`. -/
def tPkt (dev : BitVec 3) : Pkt :=
  { typ := 1, vc := false, pseq := 0, dch := 3, ddev := dev, common := false, sch := 0, sdev := 1, slot := 0, row := 0, off := 0, total := 0,
    tag := 0, crc := 0, ack := 0, cred0 := 0, cred1 := 0, txfc := 0, data := [] }

theorem witness_CascadeEvents :
    ownsPort 0 = true ∧ (tCas {}).live 0 = true ∧ (let s := tCas { state := .meas, lock := true }; (s.chan 0).loops = false ∧ (s.chan 0).cas.lock = true) ∧ ((tCas {}).chan 0).loops = false ∧ (State.reset.chan 0).bit CAS_CTRL 0 = false ∧ ((tCas {}).chan 0).bit CAS_CTRL 0 = true ∧
    0 + 2000000 * 2 ^ 32 ≤ ({ tCas { state := .seek } with time := { sec := 1 } } : State).nowFine ∧
    0 + 10000 * 2 ^ 32 ≤ ({ tCas { state := .up } with time := { sec := 1 } } : State).nowFine ∧
    (∃ e ∈ ([(tPkt 0, 8, 0)] : List (Pkt × Nat × Nat)).filter (fun e => ! decide (((0 : BitVec 12) - 1 - e.1.pseq).toNat < 2048)), 8 ≤ e.2.1) ∧
    (let s := tCas { state := .up, lock := true, rxq := [(tPkt 0, false)] }; (s.chan 0).cas.fits (tPkt 0) = true ∧ (tPkt 0).pseq = (s.chan 0).cas.rxSeq ∧ s.barred = false ∧
      (tPkt 0).ddev.toNat = s.ownDev ∧ (tPkt 2).ddev.toNat ≠ s.ownDev ∧ s.route 0 2 = none) ∧
    (let s := { tCas { state := .up } with barred := true }; s.fcAhead ((s.chan 0).casDue (tPkt 0)) = true) ∧
    (let p := addPayload 0 5 0 4; bitOf (field p 24 1) 2 = true) ∧ (let p := addPayload 0 5 0 1; bitOf (field p 24 1) 2 = false) ∧
    nsOf (BitVec.ofNat 64 (field (addPayload 0 5 0 1) 0 8)) ≤ State.reset.nowNs ∧
    nsOf (BitVec.ofNat 64 (field (addPayload 0 5 0 1) 0 8)) < ({ State.reset with time := { sec := 1 } } : State).nowNs := by decide +kernel

/-- R376: 40 ns there and back, no TURN, are 20 ns, 18 fc. -/
theorem test_owd : ((nx (exec (.casEchoReceive 0 0 0 40000) (tCas { state := .meas }))).chan 0).reg CAS_OWD = 18 := by decide +kernel

theorem test_deliver : ((nx (exec (.casPacketDeliver 0) (tCas { state := .up, rxq := [(tPkt 0, false)] }))).chan 0).link.transit = [⟨tPkt 0, 3⟩] := by
  decide +kernel

/-- The reset state, ready for the host, with trigger 0 set to pulses of 10 ns each 100 ns from 0 on; the time base stands at `ns`. -/
def tTrg (ns : Nat) (g : Trg) : State :=
  let s := ((State.reset.setReg GLB_STATE 1).setReg (TRG_PERIOD 0) 100).setReg (TRG_WIDTH 0) 10
  { (s.setReg TIME_CTRL 1).setTrigger 0 g with time := { ns := BitVec.ofNat 30 ns } }

theorem witness_TimeEvents :
    (let s := tTrg 0 {}
     s.slave = false ∧ s.barred = false ∧ s.tc.timed = none ∧ addOk (s.reg64 TIME_NEXT_ADD) = false ∧ s.hostUp = true ∧ s.outputsOn = true ∧ State.reset.outputsOn = false ∧
     s.nowFine + 10000 * 2 ^ 32 ≤ nsOf ((s.setReg64 TIME_NEXT_AT (shortOf 20000)).reg64 TIME_NEXT_AT) * 2 ^ 32 ∧
     nsOf (s.reg64 TIME_NEXT_AT) * 2 ^ 32 < s.nowFine + 10000 * 2 ^ 32 ∧
     addOk ((s.setReg64 TIME_NEXT_ADD 4772185884).reg64 TIME_NEXT_ADD) = true ∧ s.bit TIME_CTRL 0 = true ∧ (0 : Nat) ≤ s.nowFine ∧
     ({ s with barred := true } : State).slave = true ∧ ({ s with time := { sec := 1 } } : State).time.sec ≠ s.tc.last.sec ∧
     pinPath (s.reg (TRG_CFG 0)) 1 5 .host = true ∧ pinPath (s.reg (TRG_CFG 0)) 1 5 (.csr 0) = false ∧
     (s.reg (TRG_WIDTH 0)).toNat = 10 ∧ (s.reg (TRG_PERIOD 0)).toNat = 100 ∧ s.nowFine ≤ nsOf (s.reg64 (TRG_START 0)) * 2 ^ 32 ∧
     (State.reset.reg (TRG_WIDTH 0)).toNat < 5) ∧
    (⟨0, 100, 10, 0, 0, true⟩ : Sched).due (tTrg 250 {}).nowNs none = some 2 ∧ (0 : Nat) ≤ (tTrg 250 {}).nowNs := by decide +kernel

/-- Of the pulses at 0, 100 and 200 that a step has passed, the last starts and two are skipped (R389). -/
theorem test_trigger : let t := nx (exec (.trgPulseStart 0) (tTrg 250 { run := some ⟨0, 100, 10, 0, 0, true⟩ }))
    t.reg (TRG_SKIP 0) = 2 ∧ t.reg (TRG_PULSES 0) = 1 ∧ (t.trigger 0).pulse = some (260 * 2 ^ 32) := by decide +kernel

/-- Capture input 3 takes both edges and holds `l`. -/
def tCap (l : List CapEntry) : State := ((State.reset.setReg GLB_STATE 1).setReg (TCAP_CFG 3) 3).setFifo 3 l

theorem witness_CaptureFifos : (let s := tCap []; s.hostUp = true ∧ s.fifo 3 = [] ∧ pinPath (s.reg (TCAP_CFG 3)) 2 6 .host = true ∧ pinPath (s.reg (TCAP_CFG 3)) 2 6 (.csr 0) = false ∧
      (s.reg (TCAP_CFG 4)).getLsbD 0 = false ∧
      (s.reg (TCAP_CFG 3)).getLsbD 0 = true ∧ (s.reg (TCAP_CFG 3)).getLsbD 1 = true) ∧
    (let s := tCap (List.replicate 8 ⟨5, 6, true⟩); s.fifo 3 = ⟨5, 6, true⟩ :: List.replicate 7 ⟨5, 6, true⟩ ∧
      (s.fifo 3).length = 8) := by decide +kernel

theorem test_capture : let t := nx (exec (.tcapEdge 3 false) (tCap (List.replicate 8 ⟨5, 6, true⟩)))
    t.glView (TCAP_STAT 3) = 0x18 ∧ t.reg (TCAP_DROP 3) = 1 ∧ t.glView (TCAP_T 3) = 5 := by decide +kernel

/-- A master that is ready, at fc 18,000, with channel 0 armed and its bank 0 loaded. -/
def tSync (g : TimeCtl → TimeCtl) : State :=
  let s := tChan (fun x => { x with alm := { x.alm with loaded := #v[true, false] } })
  let s := ((s.setReg GLB_STATE 1).setReg GLB_STRAPS 8).setReg GLB_SYNC_ARM 1
  { s.setReg64 GLB_SYNC_TIME 0x40000000 with fc := 18000, tc := g s.tc }

theorem witness_BarrierEvents :
    (let s := tSync (fun t => { t with armAt := some 0 }); s.master = true ∧ getField (s.reg GLB_STATE) 1 0 = 1 ∧ s.hostUp = true ∧ 0 + 18000 ≤ s.fc ∧
      s.masterErr = false ∧ getField (s.reg GLB_SYNC_ARM) 15 0 ≠ 0 ∧ s.tc.syncAt = none) ∧
    (let s := tSync (fun t => { t with armAt := some 1 }); s.fc < 1 + 18000) ∧ getField (State.reset.reg GLB_SYNC_ARM) 15 0 = 0 ∧ State.reset.tc.syncOut = false ∧
    (let s := tSync (fun t => { t with syncAt := some 0 }); s.tc.applied = false ∧ 0 + 144 ≤ s.fc ∧ (s.reg GLB_SYNC_ARM).getLsbD 0 = true ∧
      (s.chan 0).alm.loaded.get 0 = true ∧ (s.chan 0).fenced = false ∧ 0 + 216 ≤ s.fc) ∧
    State.reset.master = false ∧ State.reset.tc.barAdd = none := by decide +kernel

/-- The time base stands at second 1, and the Almanac of channel 0 runs. -/
theorem test_barrier : let t := nx (exec .barrierApply (tSync (fun t => { t with syncAt := some 0 })))
    t.time = { sec := 1 } ∧ (t.chan 0).alm.running = true ∧ (t.chan 1).alm.running = false := by decide +kernel

/-- Port 0 on, promiscuous, with one entry to send (60 bytes, TSID 9, TS) at 0x100 and one buffer of 64 bytes at 0x1000. -/
def tEth : State :=
  let s := ((((State.reset.setReg (ETH_CTRL 0) 9).setReg (ETH_TXTAIL 0) 1).setReg64 (ETH_TXBASE 0) 0x100).setReg64 (ETH_RXBASE 0) 0x200).setReg (ETH_RXTAIL 0) 1
  { s with hostMem := wrBytes (wrBytes [] 0x108 [60, 0, 9, 0, 1]) 0x200 [0, 0x10, 0, 0, 0, 0, 0, 0, 64] }

/-- A frame of EtherType 0x1234. -/
def tFrame : List Byte := List.replicate 12 2 ++ [0x12, 0x34] ++ List.replicate 50 0

/-- A UDP frame of IPv4 to port 7, with a good header checksum and no payload. -/
def tUdp : List Byte := List.replicate 12 2 ++ [8, 0, 0x45, 0, 0, 28, 0, 0, 0, 0, 0, 17, 0xBA, 0xD2] ++ List.replicate 8 0 ++
  [0, 0, 0, 7, 0, 8, 0, 0] ++ List.replicate 22 0

/-- The part runs gPTP on port 0 and has heard there of a better clock than it is. -/
def tPtp : State := { State.reset.setReg PTP_CTRL 9 with ptp := { State.reset.ptp with heard := #v[some 0, none] } }

theorem ptpOwn_pos (s : State) (h : 0 < getField (s.reg PTP_PRIO) 7 0) : 0 < s.ptpOwn := by
  unfold State.ptpOwn
  exact Nat.add_pos_left (Nat.mul_pos (Nat.add_pos_left (Nat.mul_pos (Nat.add_pos_left (Nat.mul_pos h (Nat.two_pow_pos 32)) _) (by decide)) _) (Nat.two_pow_pos 64)) _

theorem ptpSlave_first (s : State) (h : 0 < getField (s.reg PTP_PRIO) 7 0) (h0 : s.ptpOn 0 = true) (h1 : s.ptpOn 1 = false) (v0 : s.ptp.heard.get 0 = some 0) :
    s.ptpSlave = some 0 := by
  have p := ptpOwn_pos s h
  have f : (some 0 : Option Nat).filter (fun v => decide (v / 2 ^ 96 < s.ptpOwn)) = some 0 := by
    rw [Option.filter, if_pos]
    simpa using p
  unfold State.ptpSlave
  simp only [h0, h1, v0, f, if_true, if_false, Bool.false_eq_true]

theorem tPtp_slave : tPtp.ptpSlave = some 0 := ptpSlave_first tPtp (by decide +kernel) (by decide +kernel) (by decide +kernel) (by decide +kernel)

theorem witness_NetworkEvents :
    (let s := tEth; s.bit (ETH_CTRL 0) 0 = true ∧ s.reg (ETH_TXHEAD 0) ≠ s.reg (ETH_TXTAIL 0) ∧ rdLe s.hostMem 0x108 2 = 60 ∧
      bitOf (rdLe s.hostMem 0x10C 1) 0 = true ∧ s.bit (ETH_CTRL 0) 3 = true ∧ State.reset.bit (ETH_CTRL 0) 0 = false ∧
      (ethType (tFrame.take 60)).2.1 = 0x1234 ∧ udpOf (tFrame.take 60) = none ∧ beField tFrame 12 2 ≠ 0x8808 ∧ tFrame.length = 64 ∧
      s.bit (ETH_CTRL 0) 4 = false ∧ s.bit GLB_IRQ_EN 5 = false ∧ s.reg (ETH_RXHEAD 0) ≠ s.reg (ETH_RXTAIL 0) ∧ rdLe s.hostMem 0x208 4 = 64 ∧ rdLe s.hostMem 0x200 8 = 0x1000 ∧
      State.reset.reg (ETH_RXHEAD 0) = State.reset.reg (ETH_RXTAIL 0)) ∧
    (let s := (tEth.setReg (STEER 3 0) 0x80000007).setReg (STEER 3 1) 0x80
     udpOf (tUdp.take 60) = some (4, 7, [], true) ∧ (ethType (tUdp.take 60)).2.1 ≠ 0x88F7 ∧
     (List.range 64).find? (fun k => s.steers 0 none 4 7 k) = some 3 ∧ (s.reg (STEER 3 1)).getLsbD 6 = false ∧ (s.setReg GLB_CHLIVE 1).parked 0 = false ∧ s.parked 0 = true ∧ (s.chan 0).fenced = false) ∧
    (let s := tPtp
     s.barred = false ∧ getField (s.reg PTP_CTRL) 1 0 = 1 ∧ (s.setReg (ETH_STAT 0) 1).bit (ETH_STAT 0) 0 = true ∧ s.ptp.heard.get (1 - 0) = none ∧ (s.setReg GLB_STATE 1).hostUp = true ∧
     s.slave = false ∧ s.tc.timed = none ∧ s.bit PTP_STAT 0 = false ∧ s.ptp.hold = false ∧
     4767413698 ≤ s.tc.calAdd ∧ s.tc.calAdd ≤ 4776958070 ∧ (s.reg PTP_STEPTHR).toNat < (0x7FFFFFFFFFFFFFFF : Dword).toInt.natAbs ∧ (s.setReg PTP_STAT 1).bit PTP_STAT 0 = true) := by
  decide +kernel

theorem test_tx : let t := nx (exec (.ethFrameTransmitted 0 0 0) tEth)
    t.reg (ETH_TXHEAD 0) = 1 ∧ t.reg (TSQ_ENTRY 0) = 9 ∧ t.reg TSQ_TAIL = 1 := by decide +kernel

theorem test_rx : let t := nx (exec (.ethFrameReceive 0 tFrame false 0 0) tEth)
    t.reg (ETH_RXHEAD 0) = 1 ∧ rd8 t.hostMem 0x100C = 0x12 ∧ rd8 t.hostMem 0x21C = 64 := by decide +kernel

/-- Channel 0 in normal mode, columns of 1 µs, with a message in slot 0; the controller is as `f` leaves it. -/
def tCanBus (f : Can → Can) : State := tChan (fun x =>
  let x := (x.setReg CAN_CTRL 0x21).setReg CAN_COLLEN 1
  { x with can := f { slots := [⟨0, { rcd := [], tok := some (2, ⟨16, 0⟩) }, none⟩] } })

theorem witness_CanEvents :
    (let s := tCanBus id; let x := s.chan 0
     s.parked 0 = false ∧ x.canMode = 1 ∧ (State.reset.chan 0).canMode = 0 ∧ ((State.reset.chan 0).setReg CAN_NBT 0).canTiming = false ∧
     x.can.opened = none ∧ x.slotAt s.nowNs = some 0 ∧ s.crossing (nsOf (x.reg64 CAN_T0) + 0 * x.colNs) = true ∧ (x.canSlot 0).isSome = true ∧
     x.canSends = true ∧ (x.setReg CAN_CTRL 0x23).canMode = 3 ∧ x.can.off = false ∧ x.can.frame = none ∧ x.bit CAN_CTRL 4 = false ∧ s.room 0 2 ∧ x.dram.err = [] ∧ x.bit CAN_CTRL 5 = true ∧
     (∀ k, k < 8 → x.canMatch 5 k = false) ∧ (x.reg CAN_RXHEAD - x.reg CAN_RXTAIL).toNat < 2 ^ getField (x.reg CAN_RXSIZE) 4 0) ∧
    (let s := { tCanBus (fun b => { b with slots := [⟨2, { rcd := [], tok := some (2, ⟨16, 0⟩), wait := true }, none⟩] }) with
        time := { ns := 3000 } }; (s.chan 0).slotAt s.nowNs = some 3 ∧ (s.chan 0).slotAt (nsOf s.tc.last.short) = some 0 ∧
      s.crossing (nsOf ((s.chan 0).reg64 CAN_T0) + 3 * (s.chan 0).colNs) = true) ∧
    (let x := ((tCanBus id).chan 0).setReg CAN_ERRC 200; x.canPassive = true) ∧
    (let s := (tCanBus id).setReg GLB_STATE 1; s.hostUp = true ∧ (s.chan 0).dram.hold = 0) ∧
    (let s := atMs 1 (tCanBus (fun b => { b with opened := some 0 })); (s.chan 0).slotAt s.nowNs ≠ some 0) ∧
    (let x := ((tCanBus id).chan 0).setReg (CAN_MFILT 0) 0xC0000005; x.canMatch 5 0 = true ∧ x.bit (CAN_MFILT 0) 31 = true) ∧
    (let x := (tCanBus (fun b => { b with frame := some (some 0) })).chan 0; (x.canSlot 0).isSome = true ∧ getField (x.reg CAN_ERRC) 7 0 + 8 ≤ 255 ∧
      255 < getField ((x.setReg CAN_ERRC 250).reg CAN_ERRC) 7 0 + 8) ∧
    (let x := ((tCanBus (fun b => { b with off := true })).chan 0).setReg CAN_CTRL 9; x.can.off = true ∧ x.bit CAN_CTRL 3 = true) := by
  decide +kernel

theorem test_can : let s := nx (exec (.canArbitration 0) (nx (exec (.canSlotOpen 0) (tCanBus id))))
    let t := nx (exec (.canFrameTxEnd 0 0 none 0) s)
    (t.chan 0).reg CAN_TXOK = 1 ∧ (t.chan 0).seq.rt 2 = 1 ∧ (t.chan 0).can.slots = [] := by decide +kernel

theorem test_can_late : let t := nx (exec (.canSlotClose 0) (atMs 1 (nx (exec (.canSlotOpen 0) (tCanBus id)))))
    (t.chan 0).reg CAN_LATE = 1 ∧ (t.chan 0).can.slots = [] := by decide +kernel

/-- Channel 0 live, on a device that has started. -/
def tSafe (f : Channel → Channel) : State := ((tChan f).setReg GLB_STATE 1).setReg GLB_CHLIVE 1

/-- A command stopped by event 0x01, whose work has drained; its retry is ordered. Its journal copy is in slot 0. -/
def tRetry (lw : Bool) : State := tSafe (fun x =>
  let x := x.setReg64 DRAM_TOP 0x40000000
  let b : List Byte := leBytes 8 1 ++ [1, 0, 0, 0, 0, 0, 0, 0, 8] ++ List.replicate 43 0
  { x with cmd := { x.cmd with run := some { tRun with cmd := { tRun.cmd with prog := 8 }, phase := .drained, linkWork := lw, ckSrc := 1, ckRec := 1 }
                               retry := [1], table := [⟨1, 0, .started⟩] }
           pm := tKernel, dram := { x.dram with mem := wrBytes [] 0 (b ++ leBytes 4 (crc32 b).toNat) } })

/-- The channel fenced, with number 1 uncommitted. -/
def tFenced : State := tSafe (fun x =>
  { ((x.setReg CH_CPL_SIZE 6).setReg64 CH_WB_ADDR 0x8000) with fenced := true, cmd := { x.cmd with table := [⟨1, 0, .started⟩], safeSrc := 2 } })

/-- A Hail run that has ended, with a header for the 64 zero bytes at 0x40. -/
def tHail (k : Word) : State := tChan (fun x =>
  let x := x.setReg64 DRAM_TOP 0x40000000
  { x with cmd := { x.cmd with run := some { tRun with cmd := { tRun.cmd with flags := 4, out := 0x40 }, phase := .ended } }
           dram := { x.dram with mem := wrBytes [] 0 (leBytes 4 k.toNat ++ [64]) } })

theorem witness_SafetyEvents :
    (let x := (tSafe (fun x => { (runs x) with raised := [1] })).chan 0; x.raised = [1] ∧ x.fenced = false ∧ classR 1 = true ∧
      x.aside = [] ∧ x.cmd.run = some tRun ∧ tRun.retried = false ∧ x.cmd.sTicks = []) ∧
    (let x := (tSafe (fun x => { (runs x) with aside := [4], cmd := { (runs x).cmd with side := some tRun } })).chan 0
     x.raised = [] ∧ x.aside = [4] ∧ x.fenced = false ∧ x.cmd.side = some tRun ∧ tRun.phase ≠ .drained) ∧
    (let x := (tSafe (fun x => { x with raised := [4], cmd := { x.cmd with side := some tRun } })).chan 0
     x.raised = [4] ∧ x.aside = [] ∧ classR 4 = true ∧ x.cmd.run = none ∧ x.cmd.side = some tRun) ∧
    (let x := (tSafe (fun x => { x with raised := [0x0C] })).chan 0; classS 0x0C = true ∧ x.cmd.run = none ∧ x.cmd.side = none ∧ x.cmd.trans = []) ∧
    (lastOf [((State.reset.chan 0).reg SERVO_TICK - 1 : Word)] = some ((State.reset.chan 0).reg SERVO_TICK - 1)) ∧
    State.reset.devDue = none ∧
    (let e : Latched := ⟨some 0, 1, 0, 1, true⟩; let s := { tRetry false with latched := [e] }
     s.latched.find? (fun e => e.ch == some 0) = some e ∧ s.allows 0 e .retry = true) ∧
    (let e : Latched := ⟨some 0, 1, 0, 1, false⟩; ({ tSafe id with latched := [e] } : State).allows 0 e .count = true) ∧
    (let s := tRetry false; let x := s.chan 0; let b := rdBytes x.dram.mem ((x.reg64 CH_JRNL_BASE).toNat + 64 * 0) 64
     ∃ r, x.cmd.run = some r ∧ r.src = .ring ∧ r.phase = .drained ∧ r.ckRec ∈ x.cmd.retry ∧ x.ptu.copies = [] ∧ x.ptu.releases = [] ∧ x.dram.queue = [] ∧ x.dram.err = [] ∧ x.dram.hold = 0 ∧ s.skipCode 0 r = 0 ∧
      x.cmd.table.find? (fun e => e.seq == r.cmd.seq) = some ⟨1, 0, .started⟩ ∧ rcdCrcOk b = true ∧ (cmdOf b).kind = 1 ∧
      x.rcdCode (cmdOf b) = 0 ∧ s.expired (cmdOf b) = false ∧ x.startCheck ((cmdOf b).prog.toNat % 0x8000) none 0 r.limit true = 0 ∧
      rcdCrcOk (0xFF :: b.drop 1) = false) ∧
    (let s := tRetry true; ∃ r, (s.chan 0).cmd.run = some r ∧ s.skipCode 0 r = 0xE2) ∧
    (let s := { tSafe id with safeDue := [(0, 2)] }; s.safeDue.find? (fun e => e.1 == 0) = some (0, 2) ∧ s.live 0 = true) ∧
    (let s := (tSafe id).setReg SAFE_STAT 0xD; s.hostUp = true ∧ s.bit SAFE_STAT 0 = true ∧ getField (s.reg GLB_STATE) 1 0 = 1 ∧ s.reg SAFE_CHSAFE = 0 ∧
      s.bit SAFE_STAT 1 = false) ∧
    ((tSafe id).point 0 ≠ 3 ∧ tFenced.live 0 = true) ∧
    (let x := tFenced.chan 0; x.fenced = true ∧ x.cmd.table = [⟨1, 0, .started⟩] ∧ x.cplFull = false ∧ x.can.safe = false ∧ x.drv.state ≠ .up ∧
      (({ x with cmd := { x.cmd with table := x.cmd.table } }.setReg CH_CPL_PROD 64).cplFull = true)) ∧
    (let x := (tHail 0).chan 0; ∃ r, x.cmd.run = some r ∧ r.phase = .ended ∧ x.seq.quiet = true ∧ r.cmd.hail = true ∧ r.hailOk = false ∧
      x.halted = false ∧ x.freezing = false ∧ x.fenced = false ∧ x.dram.err = [] ∧ x.dram.hold = 0 ∧ x.dramOk r.cmd.arg.toNat 16 = true ∧
      field (rdBytes x.dram.mem 0 16) 4 4 = 64 ∧ x.dramOk r.cmd.out.toNat 64 = true ∧ field (rdBytes x.dram.mem 0 16) 8 8 = 0) := by
  refine ⟨by decide +kernel, by decide +kernel, by decide +kernel, by decide +kernel, by decide +kernel, by decide +kernel, by decide +kernel, by decide +kernel,
    ⟨_, rfl, by decide +kernel⟩, ⟨_, rfl, by decide +kernel⟩, by decide +kernel, by decide +kernel, by decide +kernel, by decide +kernel, ⟨_, rfl, by decide +kernel⟩⟩

theorem test_retry : let t := nx (exec (.commandRetry 0) (tRetry false))
    (t.chan 0).seq.pc = 8 ∧ ((t.chan 0).cmd.run.map (·.retried)) = some true := by decide +kernel

theorem test_aborted : let t := nx (exec (.abortedRecordIssue 0) tFenced)
    rdBytes t.hostMem 24 8 = [0, 0, 0, 0, 4, 0, 2, 0] ∧ (t.chan 0).cmd.table = [] := by decide +kernel

theorem test_hail : let k := crc32 (List.replicate 64 0)
    (((nx (exec (.hailSignatureCheck 0) (tHail k))).chan 0).cmd.run.map (·.hailOk)) = some true ∧
    ((nx (exec (.hailSignatureCheck 0) (tHail 0))).chan 0).raised = [0x0B] := by decide +kernel

theorem test_safe : let t := nx (exec (.channelSafeState 0) { (tSafe runs).setReg (STEER 5 1) 0x80 with safeDue := [(0, 2)] })
    (t.chan 0).fenced = true ∧ t.reg (STEER 5 1) = 0xC0 ∧ t.reg SAFE_CHSAFE = 1 ∧ t.pins.2.2 = false := by decide +kernel

/-- Channel 0 live on a started device, its power control as `p` says. -/
def tPwr (p : Pwr) : State := { tSafe id with pwr := State.reset.pwr.set 0 p }

theorem witness_MonitorsAndPower :
    (let s := tSafe id; s.live 0 = true ∧ s.parked 0 = false ∧ (s.chan 0).fenced = false ∧ s.devDue = none ∧ s.live 1 = false ∧
      s.bit SAFE_STAT 2 = true ∧ s.bit SAFE_CTRL 16 = true ∧ s.bit GLB_CHFUSE 0 = false) ∧
    (let s := (tSafe id).setReg SAFE_CTRL 0; s.bit SAFE_CTRL 16 = false) ∧
    (let s := (tSafe id).setReg GLB_CHFUSE 1; s.bit GLB_CHFUSE 0 = true ∧ s.bit SAFE_RETIRED 0 = false) ∧
    (let e : Latched := ⟨none, 0x21, 0, 1, false⟩; let s := { tSafe id with latched := [e] }
     s.latched.find? (fun e => e.ch == none) = some e ∧ s.devDue = none) ∧
    (let e : Latched := ⟨some 0, 1, 0, 1, true⟩; let s := { tSafe id with latched := [e], fc := 3600 }
     s.latched.find? (fun e => decide (e.at_ + 3600 ≤ s.fc)) = some e) ∧
    (let s := { (tSafe id).setReg SAFE_STAT 0 with fc := 450000 }; s.bit SAFE_STAT 2 = false ∧ s.latched = [] ∧ s.devDue = none ∧ s.sqAt + 450000 ≤ s.fc) ∧
    (let s := tPwr { change := some 1, mv := 700 }; (s.pw 0).change = some 1 ∧ (s.pw 0).applied = false ∧ s.changeEdge 0 = true ∧ s.voltOk 0 1 = true ∧ s.hostUp = true ∧
      (tPwr { change := some 1, mv := 0 }).voltOk 0 1 = false ∧
      ({ s with fc := 1 } : State).changeEdge 0 = false ∧ (s.chan 0).idle = true ∧ (s.chan 0).bit SERVO_CTRL 0 = false ∧ (s.chan 0).drv.state ≠ .up ∧
      ((s.chan 0).setReg SERVO_CTRL 1).bit SERVO_CTRL 0 = true) ∧
    (let s := tPwr { change := some 1, applied := true, hot := 2 }; (s.pw 0).applied = true ∧ s.live 0 = true ∧ (s.pw 0).target < 2 ∧
      2 ≤ (s.pw 0).hot ∧ s.thHi ≤ (0x640 : BitVec 16).toInt ∧ (0x63F : BitVec 16).toInt < s.thHi ∧ (tPwr {}).thHi ≤ (0x650 : BitVec 16).toInt) ∧
    (let s := tPwr {}; s.reg (PWR_ILIM 0) < ([20001] : List Word).getD 0 0 ∧ ¬ s.reg (PWR_ILIM 0) < ([20000] : List Word).getD 0 0 ∧
      s.reg PWR_PLIM < s.devPower [20000] 240001 ∧ ¬ s.reg PWR_PLIM < s.devPower [20000] 240000) ∧
    (let s := { tPwr { capT := 1, coolAt := some 0 } with fc := 9000000 }; (s.pw 0).coolAt = some 0 ∧ (s.pw 0).req < (s.pw 0).capT ∧ 0 + 9000000 ≤ s.fc) := by
  decide +kernel

/-- The third sample at TH_HI lowers the channel from P0 to P1 (R475's example). -/
theorem test_throttle :
    let hot (s : State) : State := nx (exec (.telemetrySample 0 0x648 750) s)
    let t := hot (hot (hot (tPwr {})))
    (t.pw 0).change = some 1 ∧ t.reg (PWR_THCNT 0) = 1 ∧ ((hot (hot (tPwr {}))).pw 0).change = none := by decide +kernel

theorem test_park : (nx (exec (.pwrReqWrite 0 3) (tSafe runs))).reg (PWR_STAT 0) = 8 ∧
    ((nx (exec (.pwrReqWrite 0 3) (tPwr {}))).pw 0).change = some 3 := by decide +kernel

/-- A part of 16 channels with 16 GiB each. -/
def tPart : Boot := ⟨0xFFFF, 0, List.replicate 16 0xFF, 0, 1, 1, 0, [], List.replicate 16 16384, 0, 180, 0, 5, []⟩

/-- Its calibration record, its board record without entries, the header of an image in slot A, and the rest of the flash erased. -/
def tFlash : State :=
  (State.reset.flashWr 0x1000 [0x4B, 0x43, 0x41, 0x4C]).flashWr 0x13FC [0xBA, 0xA5, 0x90, 0xD3] |>.flashWr 0x3008 [0, 0, 0, 0] |>.flashWr 0x300C
    (leBytes 4 (crc32 (List.replicate 8 0xFF ++ [0, 0, 0, 0])).toNat) |>.flashWr 0x100000 [0x31, 0x57, 0x46, 0x4B, 0, 0, 1, 0, 64, 0, 0, 0]

/-- The calibration record in the flash. -/
def tCal : List Byte := [0x4B, 0x43, 0x41, 0x4C] ++ List.replicate 1016 0xFF ++ [0xBA, 0xA5, 0x90, 0xD3]
theorem tCal_read : tFlash.flashRd 0x1000 1024 = tCal := by decide +kernel

theorem tCal_crc : crc32 (tCal.take 1020) = 0xD390A5BA := by
  have h : tCal.take 1020 = ([0x4B, 0x43, 0x41, 0x4C] ++ List.replicate 56 0xFF) ++
      List.replicate (0 + 64 + 64 + 64 + 64 + 64 + 64 + 64 + 64 + 64 + 64 + 64 + 64 + 64 + 64 + 64) 0xFF := by decide +kernel
  have z (a b : Word) (h : crcRun (List.replicate 64 0xFF) a = b) (n : Nat) :
      crcRun (List.replicate (n + 64) 0xFF) a = crcRun (List.replicate n 0xFF) b := by
    rw [Nat.add_comm, ← List.replicate_append_replicate, crcRun_append, h]
  rw [h, crc32, crcRun_append, show crcRun ([0x4B, 0x43, 0x41, 0x4C] ++ List.replicate 56 0xFF) 0xFFFFFFFF = 0xbd2d2efc by decide +kernel,
    z _ 0x9fcd3b07 (by decide +kernel),
    z _ 0x4a86c8ca (by decide +kernel),
    z _ 0x64a84d1d (by decide +kernel),
    z _ 0x645e654f (by decide +kernel),
    z _ 0x95eca251 (by decide +kernel),
    z _ 0x06f42bf7 (by decide +kernel),
    z _ 0x0b963883 (by decide +kernel),
    z _ 0x586b43df (by decide +kernel),
    z _ 0x677aef5c (by decide +kernel),
    z _ 0xcfd6488c (by decide +kernel),
    z _ 0x58fb0abb (by decide +kernel),
    z _ 0x39bdaa94 (by decide +kernel),
    z _ 0xc1db5e46 (by decide +kernel),
    z _ 0x0c983124 (by decide +kernel),
    z _ 0x2c6f5a45 (by decide +kernel)]
  decide +kernel

theorem tCal_ok : State.calOk { tFlash with sup := { tFlash.sup with serial := tPart.serial } } (tFlash.flashRd 0x1000 1024) = true := by
  rw [tCal_read, State.calOk, tCal_crc]
  decide +kernel

/-- The part passes its start. -/
theorem tPart_starts : State.startReason { tFlash with sup := { tFlash.sup with serial := tPart.serial } } tPart = 0 := by
  unfold State.startReason
  rw [show State.flashRd { tFlash with sup := { tFlash.sup with serial := tPart.serial } } 0x1000 1024 =
    tFlash.flashRd 0x1000 1024 by rw [tCal_read]; decide +kernel, tCal_ok]
  decide +kernel

theorem witness_BootEvents :
    gradeOf tPart.fuse = some 0x1600 ∧ gradeOf 7 = none ∧ tFlash.sup.begun = false ∧ getField (tFlash.reg GLB_STATE) 1 0 = 0 ∧
    getField (tFlash.reg GLB_BOOTFAIL) 3 0 = 0 ∧ tFlash.sup.calm = false ∧ tFlash.sup.calmReq = false ∧
    bootPasses tPart 0 = true ∧ bootPasses { tPart with fuse := 0xFFF, lost := [(1, 7)] } 1 = false ∧
    ({ tFlash with sup := { tFlash.sup with serial := tPart.serial } } : State).startReason { tPart with fail := 7 } ≠ 0 ∧
    tFlash.imageVersion false = some 0x10000 ∧ tFlash.bootPick 1 = some (false, 0x10000) ∧
    (tFlash.flashWr 0x800000 [0x31, 0x57, 0x46, 0x4B, 1, 0, 1, 0, 64, 0, 0, 0]).imageVersion true = some 0x10001 ∧
    (State.reset.setReg GLB_STATE 1).hostUp = true ∧ State.reset.starting = true ∧ (State.reset.setReg GLB_STATE 1).starting = false := by
  decide +kernel

/-- Of two images that verify the higher version starts (R460); below the floor no image does. -/
theorem test_bootPick : let s := tFlash.flashWr 0x800000 [0x31, 0x57, 0x46, 0x4B, 1, 0, 1, 0, 64, 0, 0, 0]
    s.bootPick 3 = some (true, 0x10001) ∧ s.bootPick 1 = some (false, 0x10000) ∧
    ({ s with sup := { s.sup with floor := 2 } } : State).startReason tPart = 2 := by decide +kernel

/-- A device with this message posted. -/
def tMail (m : Word) : State := ((tSafe id).setReg MBX_H2S m).setReg MBX_H2S_CTL 1

theorem witness_SupervisorServices :
    (let s := tMail 0x01070001; s.mbxReady = true ∧ s.mbxType = 1 ∧ (byteAt s.h2s 3).toNat ≤ 60 ∧ s.bit MBX_S2H_CTL 0 = false ∧ s.sup.out = []) ∧
    (let s := tMail 2; s.mbxReady = true ∧ s.mbxType = 2 ∧ s.sup.steps.length = 16) ∧
    (let s := tMail 3; s.mbxReady = true ∧ s.mbxType = 3 ∧ ∀ e ∈ s.sup.log, e.length = 16) ∧
    (tMail 9).mbxType = 9 ∧ (tSafe id).hostUp = true ∧ (tSafe id).bootSlot = 0x100000 ∧ (tMail 9).mbxReady = true ∧
    (let s := (tMail 9).setReg MBX_S2H_CTL 1; s.bit MBX_S2H_CTL 0 = true ∧ s.sup.out.length < 8) ∧
    (let s := (tSafe id).setReg FLASH_ADDR 0x800000; s.sup.flashRun = none ∧ (s.reg FLASH_ADDR).toNat % 4096 = 0 ∧ s.flashMay 0x800000 4096 = true ∧
      s.flashMay 0x800000 256 = true ∧ s.calmMode = false ∧ s.flashMay 0x100000 256 = false ∧ s.flashMay 0x3000 256 = false) ∧
    (let s := { tSafe id with sup := { (tSafe id).sup with flashRun := some (3, 0x800000) } }
     s.sup.flashRun.isSome = true ∧ rd8 s.sup.flash 0x800000 = 0) ∧
    (let s := { tSafe id with sup := { (tSafe id).sup with calRun := some 3, attRun := true } }; s.sup.calRun = some 3 ∧ s.sup.attRun = true) ∧
    (let s := tSafe id; s.sup.calRun = none ∧ s.sup.attRun = false ∧ field s.calWin 6 2 ≠ 1024) := by decide +kernel

/-- An ECHO of one byte. -/
theorem test_echo : let t := nx (exec .mbxEcho ((tMail 0x01070001).setReg (MBX_H2S + 4) 0x5A))
    t.reg MBX_S2H = 0x01078001 ∧ t.reg (MBX_S2H + 4) = 0x5A ∧ t.reg MBX_S2H_CTL = 1 ∧ t.reg MBX_H2S_CTL = 0 := by decide +kernel

/-- Slot A, which was booted, is protected; slot B is erased. -/
theorem test_flash :
    (nx (exec .flashErase4k ((tSafe id).setReg FLASH_ADDR 0x100000))).reg FLASH_STAT = 4 ∧
    (nx (exec (.flashCmdComplete false) (nx (exec .flashErase4k ((tSafe id).setReg FLASH_ADDR 0x800000))))).reg FLASH_STAT = 2 := by
  decide +kernel

/-- The check on commands refuses an ill-formed command of each kind, and passes its neighbour. -/
theorem test_wf :
    let p : Pkt := ⟨1, false, 0, 0, 0, false, 0, 0, 0, 0, 0, 128, 0, 0, 0, 0, 0, 0, [1]⟩
    (Instr.pairLowRead .host ⟨2, 15⟩).ill = some .address ∧ (Instr.pairLowRead .host ⟨8, 15⟩).wf = true ∧
    (Instr.registerWrite .host 2 0).ill = some .address ∧
    (Instr.bar2Read 0 0 4097).ill = some .access ∧ (Instr.bar2Read 0 0 4096).wf = true ∧
    (Instr.canFrameReceive 0 0 0 (List.replicate 65 0) 0 0).ill = some .canLength ∧
    (Instr.casPacketReceive 0 p 0).ill = some .packet ∧
    (Instr.drvSampleFrame 0 2 20 [] 0).ill = some .driveLength ∧
    (Instr.deviceStart { tPart with fuse := 0x7FFF }).ill = some .boot ∧ (Instr.deviceStart tPart).wf = true ∧
    (Instr.regulatorReading [0] 0).ill = some .readings := by decide +kernel

/-- A line of 65,536 bytes is more than a long packet's count can say. -/
theorem test_wf_csi (d : List Byte) (h : d.length = 65536) : (Instr.csiImageLine 0 0 d 0).ill = some .csiLength ∧
    (Instr.csiEmbeddedLine 0 0 d 0).ill = some .csiLength := by
  simp [Instr.ill, h]

end Sys2Proof.Tests
end

section
/-!
SUPPORT. The host's index writes (R62): a write that the ring's bounds forbid sets an error bit of CH_STATUS instead.
-/

namespace Sys2Proof.Machine

open Sys2Proof

/-! ## The port and the error bits -/

/-- A request of the host acts when the port is up (R445, R461). -/
theorem State.atPort_up {s : State} (h : s.hostUp = true) (f : State → State) : s.atPort f = f s := if_pos h

/-- Setting bits of a register sets each bit of the mask. -/
theorem Channel.bit_orReg_of_mask (x : Channel) (o : Nat) {m : Word} {k : Nat} (hk : m.getLsbD k = true) :
    (x.orReg o m).bit o k = true := by
  rw [Channel.bit, Channel.orReg, Channel.reg_setReg_same, BitVec.getLsbD_or, hk, Bool.or_true]

/-- The channel that takes error bits changes in CH_STATUS alone: signalling its vector leaves it (R63). -/
theorem State.chError_chan_same (s : State) (c : ChId) (bits : Word) :
    (s.chError c bits).chan c = (s.chan c).orReg CH_STATUS bits := by
  rcases s.chError_cases c bits with h | h <;> rw [h] <;> simp

/-! ## The two indices -/

/-- What both index writes have in common: one that is out of bounds keeps the index and sets bit `k` of CH_STATUS, another
stores the index, and neither touches another channel. -/
theorem State.boundedWrite_spec (s : State) (c : ChId) (outOfBounds : Prop) [Decidable outOfBounds] {o : Nat} (v : Word)
    {bits : Word} {k : Nat} (ho : o ≠ CH_STATUS) (hk : bits.getLsbD k = true) :
    let t := if outOfBounds then s.chError c bits else s.modChan c (fun x => x.setReg o v)
    s.others t c ∧
      if outOfBounds then (t.chan c).reg o = (s.chan c).reg o ∧ (t.chan c).bit CH_STATUS k = true
      else t = s.modChan c (fun x => x.setReg o v) := by
  by_cases hb : outOfBounds
  · simp only [if_pos hb, State.chError_chan_same]
    exact ⟨fun _ hd => s.chError_others hd bits, Channel.reg_setReg_ne _ ho _, Channel.bit_orReg_of_mask _ _ hk⟩
  · simp only [if_neg hb]
    exact ⟨s.others_modChan c _, trivial⟩

/-- A write of CH_CMD_TAIL at an open port is the index write of R62. -/
theorem exec_chCmdTailWrite_up {s : State} (h : s.hostUp = true) (c : ChId) (v : Word) :
    exec (.chCmdTailWrite c v) s = .next (s.cmdTail c v) :=
  congrArg Host.Outcome.next (State.atPort_up h _)

/-- A write of CH_CPL_CONS at an open port is the index write of R62. -/
theorem exec_chCplConsWrite_up {s : State} (h : s.hostUp = true) (c : ChId) (v : Word) :
    exec (.chCplConsWrite c v) s = .next (s.cplCons c v) :=
  congrArg Host.Outcome.next (State.atPort_up h _)

/-- Settles O29: both writes are bounded index writes, with TAIL_ERR (bit 4) and CONS_ERR (bit 5) as their error bits. -/
theorem doorbellWrites : Obligations.DoorbellWrites := by
  intro s c v hup
  constructor
  · exact ⟨_, exec_chCmdTailWrite_up hup c v, s.boundedWrite_spec c _ v (by decide) (by decide)⟩
  · exact ⟨_, exec_chCplConsWrite_up hup c v, s.boundedWrite_spec c _ v (by decide) (by decide)⟩

end Sys2Proof.Machine
end

section
/-!
SUPPORT. The capture FIFOs (R386 to R388): what a FIFO's head shows in the common block, what a pop leaves and what an
edge appends or drops.
-/

namespace Sys2Proof.Machine

open Sys2Proof

/-! ## The state's FIFOs, and what leaves them -/

@[simp] theorem State.fifo_setFifo_same (s : State) (pin : Fin 17) (l : List CapEntry) : (s.setFifo pin l).fifo pin = l :=
  (vget_set s.tcap pin.val pin.isLt l pin).trans (if_pos rfl)

@[simp] theorem State.setFifo_regs (s : State) (pin : Fin 17) (l : List CapEntry) : (s.setFifo pin l).regs = s.regs := rfl

@[simp] theorem State.reg_setFifo (s : State) (pin : Fin 17) (l : List CapEntry) (o : Nat) : (s.setFifo pin l).reg o = s.reg o := rfl

@[simp] theorem State.setFifo_fifo_self (s : State) (pin : Fin 17) : s.setFifo pin (s.fifo pin) = s := by
  have h : s.tcap.set pin.val (s.fifo pin) pin.isLt = s.tcap := Vector.set_getElem_self pin.isLt
  rw [State.setFifo, h]

@[simp] theorem State.signal_tcap (s : State) (v : Nat) : (s.signal v).tcap = s.tcap := by
  rcases s.signal_cases v with h | ⟨a, bs, h⟩ <;> simp [h]

@[simp] theorem State.cause_tcap (s : State) (v : Nat) : (s.cause v).tcap = s.tcap := by
  rcases s.cause_cases v with h | h | h <;> simp [h]

@[simp] theorem State.fifo_cause (s : State) (v : Nat) (pin : Fin 17) : (s.cause v).fifo pin = s.fifo pin := by
  rw [State.fifo, State.cause_tcap, State.fifo]

/-- Setting bits of a common-block register sets each bit of the mask. -/
theorem State.bit_orReg_of_mask (s : State) (o : Nat) {m : Word} {k : Nat} (hk : m.getLsbD k = true) :
    (s.orReg o m).bit o k = true := by
  rw [State.bit, State.orReg, State.reg_setReg_same, BitVec.getLsbD_or, hk, Bool.or_true]

/-- A request acts when it comes on a channel's path, or at an open port (R445, R461). -/
theorem State.onPath_open {s : State} {p : Path} (h : p = .host → s.hostUp = true) (f : State → State) : s.onPath p f = f s := by
  cases p with
  | host => exact State.atPort_up (h rfl) f
  | csr _ => rfl

/-! ## What the head shows (R387, R410) -/

/-- Every word of a capture pin but TCAP_POP is a register that reads. -/
theorem glRow_capture : ∀ (pin : Fin 17) (k : Fin 7), (glRow (TCAP_CFG pin.val + 4 * k.val)).map (·.wo) = some false := by
  decide +kernel

/-- A readable word between the first capture pin's and the last one's is a word of that pin. -/
theorem State.glView_of_capture_offset (s : State) {o : Nat} (hlo : 0x3301000 ≤ o) (hhi : o < 0x3301220) {r : RegRow}
    (hrow : glRow o = some r) (hwo : r.wo = false) :
    s.glView o = s.tcapView (Fin.ofNat 17 ((o - 0x3301000) / 32)) (o % 32 / 4) := by
  have notBoot : ¬ 0x3360000 ≤ o := by omega
  have notMsix : ¬ 0x3F00000 ≤ o := by omega
  have notPba : o ≠ 0x3F01000 ∧ o ≠ 0x3F01004 := by omega
  have notLease : ¬ 0x3380140 ≤ o := by omega
  have notSafe : o ≠ SAFE_CTRL := by unfold SAFE_CTRL; omega
  simp [State.glView, hrow, hwo, notBoot, notMsix, notPba, notLease, notSafe, hlo, hhi]

/-- The common block shows the words of a capture pin, TCAP_POP left out. -/
theorem State.glView_capture (s : State) (pin : Fin 17) (k : Fin 7) :
    s.glView (TCAP_CFG pin.val + 4 * k.val) = s.tcapView pin k.val := by
  obtain ⟨r, hrow, hwo⟩ := Option.map_eq_some_iff.mp (glRow_capture pin k)
  have hoff : TCAP_CFG pin.val = 0x3301000 + 0x20 * pin.val := rfl
  have hpin : Fin.ofNat 17 ((TCAP_CFG pin.val + 4 * k.val - 0x3301000) / 32) = pin :=
    Fin.ext (by rw [Fin.val_ofNat]; omega)
  have hword : (TCAP_CFG pin.val + 4 * k.val) % 32 / 4 = k.val := by omega
  rw [s.glView_of_capture_offset (by omega) (by omega) hrow hwo, hpin, hword]

theorem State.tcapView_frac {s : State} {pin : Fin 17} {e : CapEntry} {r : List CapEntry} (h : s.fifo pin = e :: r) :
    s.tcapView pin 3 = e.frac := by simp [State.tcapView, h]

theorem State.tcapView_low {s : State} {pin : Fin 17} {e : CapEntry} {r : List CapEntry} (h : s.fifo pin = e :: r) :
    s.tcapView pin 4 = e.t.extractLsb' 0 32 := by
  have hhalf : half false e.t.toNat = e.t.extractLsb' 0 32 := BitVec.eq_of_toNat_eq (by simp [half])
  simpa [State.tcapView, h] using hhalf

theorem State.tcapView_high {s : State} {pin : Fin 17} {e : CapEntry} {r : List CapEntry} (h : s.fifo pin = e :: r) :
    s.tcapView pin 5 = e.t.extractLsb' 32 32 := by
  have hhalf : half true e.t.toNat = e.t.extractLsb' 32 32 :=
    BitVec.eq_of_toNat_eq (by simp [half, Nat.shiftRight_eq_div_pow])
  simpa [State.tcapView, h] using hhalf

theorem State.tcapView_edge {s : State} {pin : Fin 17} {e : CapEntry} {r : List CapEntry} (h : s.fifo pin = e :: r) :
    s.tcapView pin 6 = fields [(b2n e.rising, 0), (1, 1)] := by simp [State.tcapView, h]

/-- Bit 0 of TCAP_E is the edge's direction, and bit 1 says that the FIFO holds an entry. -/
theorem edgeWord_bits (rising : Bool) :
    (fields [(b2n rising, 0), (1, 1)]).getLsbD 0 = rising ∧ (fields [(b2n rising, 0), (1, 1)]).getLsbD 1 = true := by
  cases rising <;> decide

/-- The head of a FIFO shows in TCAP_T, TCAP_FRAC and TCAP_E. -/
theorem State.glView_capture_head {s : State} {pin : Fin 17} {e : CapEntry} {r : List CapEntry} (h : s.fifo pin = e :: r) :
    s.glView (TCAP_T pin.val) = e.t.extractLsb' 0 32 ∧ s.glView (TCAP_T pin.val + 4) = e.t.extractLsb' 32 32 ∧
      s.glView (TCAP_FRAC pin.val) = e.frac ∧ (s.glView (TCAP_E pin.val)).getLsbD 0 = e.rising ∧
      (s.glView (TCAP_E pin.val)).getLsbD 1 = true := by
  have hfrac : TCAP_FRAC pin.val = TCAP_CFG pin.val + 4 * 3 := by unfold TCAP_FRAC TCAP_CFG; omega
  have hlow : TCAP_T pin.val = TCAP_CFG pin.val + 4 * 4 := by unfold TCAP_T TCAP_CFG; omega
  have hhigh : TCAP_T pin.val + 4 = TCAP_CFG pin.val + 4 * 5 := by rw [hlow]
  have hedge : TCAP_E pin.val = TCAP_CFG pin.val + 4 * 6 := by unfold TCAP_E TCAP_CFG; omega
  rw [hhigh, hlow, hfrac, hedge]
  have e6 : s.glView (TCAP_CFG pin.val + 4 * 6) = fields [(b2n e.rising, 0), (1, 1)] :=
    (s.glView_capture pin 6).trans (State.tcapView_edge h)
  rw [e6]
  exact ⟨(s.glView_capture pin 4).trans (State.tcapView_low h), (s.glView_capture pin 5).trans (State.tcapView_high h),
    (s.glView_capture pin 3).trans (State.tcapView_frac h), edgeWord_bits e.rising⟩

/-! ## A pop (R387, R388) -/

/-- A pop by the pin's owner removes the head entry, if there is one. -/
theorem exec_tcapPop_owner {s : State} {pin : Fin 17} {p : Path} (hopen : p = .host → s.hostUp = true)
    (howns : pinPath (s.reg (TCAP_CFG pin.val)) 2 6 p = true) :
    exec (.tcapPop pin p) s = .next (s.setFifo pin (s.fifo pin).tail) :=
  congrArg Host.Outcome.next ((State.onPath_open hopen _).trans (if_pos howns))

/-- A pop by another path is ignored. -/
theorem exec_tcapPop_other {s : State} {pin : Fin 17} {p : Path} (hopen : p = .host → s.hostUp = true)
    (howns : ¬ pinPath (s.reg (TCAP_CFG pin.val)) 2 6 p = true) : exec (.tcapPop pin p) s = .next s :=
  congrArg Host.Outcome.next ((State.onPath_open hopen _).trans (if_neg howns))

/-! ## An edge (R386, R387) -/

/-- TCAP_CFG selects the rising edges of a pin with bit 0 and the falling ones with bit 1. -/
def State.selectsEdge (s : State) (pin : Fin 17) (rising : Bool) : Prop :=
  (s.reg (TCAP_CFG pin.val)).getLsbD (if rising then 0 else 1) = true

/-- The entry of an edge: its time, less the 6 fc of synchroniser and filter, and its direction (R386). -/
def State.edgeEntry (s : State) (rising : Bool) : CapEntry :=
  let stamp := s.nowFine - 6 * s.addend
  ⟨shortOf (stamp / 2 ^ 32), BitVec.ofNat 32 stamp, rising⟩

/-- The state after an edge that is kept: its entry is the FIFO's last, and cause 43 is raised unless a channel is bound. -/
def State.keepEdge (s : State) (pin : Fin 17) (rising : Bool) : State :=
  let u := s.setFifo pin (s.fifo pin ++ [s.edgeEntry rising])
  if (s.reg (TCAP_CFG pin.val)).getLsbD 6 then u else u.cause 43

/-- The state after an edge that is dropped: OVF (bit 4) is set and TCAP_DROP advances. -/
def State.dropEdge (s : State) (pin : Fin 17) : State := (s.orReg (TCAP_STAT pin.val) 0x10).inc (TCAP_DROP pin.val) 1

/-- An edge that TCAP_CFG does not select does nothing. -/
theorem exec_tcapEdge_unselected {s : State} {pin : Fin 17} {rising : Bool} (h : ¬ s.selectsEdge pin rising) :
    exec (.tcapEdge pin rising) s = .next s :=
  congrArg Host.Outcome.next (if_pos (by simpa [State.selectsEdge] using h))

/-- A selected edge is kept while fewer than 8 entries are held. -/
theorem exec_tcapEdge_room {s : State} {pin : Fin 17} {rising : Bool} (h : s.selectsEdge pin rising)
    (hroom : (s.fifo pin).length < 8) : exec (.tcapEdge pin rising) s = .next (s.keepEdge pin rising) :=
  congrArg Host.Outcome.next ((if_neg (by simpa [State.selectsEdge] using h)).trans (if_neg (by omega)))

/-- A selected edge is dropped while 8 entries are held. -/
theorem exec_tcapEdge_full {s : State} {pin : Fin 17} {rising : Bool} (h : s.selectsEdge pin rising)
    (hfull : 8 ≤ (s.fifo pin).length) : exec (.tcapEdge pin rising) s = .next (s.dropEdge pin) :=
  congrArg Host.Outcome.next ((if_neg (by simpa [State.selectsEdge] using h)).trans (if_pos hfull))

@[simp] theorem State.fifo_keepEdge (s : State) (pin : Fin 17) (rising : Bool) :
    (s.keepEdge pin rising).fifo pin = s.fifo pin ++ [s.edgeEntry rising] := by
  unfold State.keepEdge
  split <;> simp

/-- An edge that is kept changes no register but GLB_IRQ_STAT. -/
theorem State.reg_keepEdge (s : State) (pin : Fin 17) (rising : Bool) {o : Nat} (ho : o ≠ GLB_IRQ_STAT) :
    (s.keepEdge pin rising).reg o = s.reg o := by
  unfold State.keepEdge
  split
  · exact s.reg_setFifo pin _ o
  · exact State.cause_reg _ 43 ho

theorem State.dropEdge_spec (s : State) (pin : Fin 17) :
    (s.dropEdge pin).fifo pin = s.fifo pin ∧ (s.dropEdge pin).bit (TCAP_STAT pin.val) 4 = true ∧
      (s.dropEdge pin).reg (TCAP_DROP pin.val) = s.reg (TCAP_DROP pin.val) + 1 := by
  have hne : TCAP_STAT pin.val ≠ TCAP_DROP pin.val := by unfold TCAP_STAT TCAP_DROP; omega
  refine ⟨rfl, ?ovf, ?count⟩
  case ovf =>
    rw [State.dropEdge, State.bit, State.inc, State.reg_setReg_ne _ hne]
    exact s.bit_orReg_of_mask _ (by decide)
  case count =>
    rw [State.dropEdge, State.inc, State.reg_setReg_same, State.orReg, State.reg_setReg_ne _ hne.symm]
    rfl

/-- Settles O53: the head's words, the pop by the owner and by another path, and the edge's three outcomes. A pop that finds
at most 8 entries leaves room for the edge of the same fc. -/
theorem captureFifos : Obligations.CaptureFifos := by
  intro s pin p rising
  refine ⟨fun _ _ h => State.glView_capture_head h, ?pop, exec_tcapPop_other, exec_tcapEdge_unselected, ?room, ?full⟩
  case pop =>
    intro hopen howns
    refine ⟨_, exec_tcapPop_owner hopen howns, s.fifo_setFifo_same pin _, rfl, fun hempty => ?_, fun htakes => ?_⟩
    · rw [hempty, List.tail_nil, ← hempty, s.setFifo_fifo_self]
    · by_cases hheld : (s.fifo pin).length ≤ 8
      · have hroom : ((s.setFifo pin (s.fifo pin).tail).fifo pin).length < 8 := by simp; omega
        exact ⟨_, (s.setFifo pin (s.fifo pin).tail).edgeEntry rising, exec_tcapEdge_room htakes hroom, fun _ => ⟨by simp, rfl⟩⟩
      · exact ⟨_, s.edgeEntry rising, rfl, fun h => absurd h hheld⟩
  case room =>
    intro htakes hroom
    have hne : TCAP_STAT pin.val ≠ GLB_IRQ_STAT := by unfold TCAP_STAT GLB_IRQ_STAT; omega
    exact ⟨_, _, exec_tcapEdge_room htakes hroom, s.fifo_keepEdge pin rising, rfl,
      congrArg (·.getLsbD 4) (s.reg_keepEdge pin rising hne)⟩
  case full =>
    intro htakes hfull
    exact ⟨_, exec_tcapEdge_full htakes hfull, s.dropEdge_spec pin⟩

end Sys2Proof.Machine
end
